-- ==== Sys2Proof/Word.lean ====
section
/-!
DEFINITION. The word types of the OX-960 (00_scope.md R2): bit 0 is the least significant bit.
Encoded words are naturals (bit i of a word is bit i of the number), so that field extraction is division and remainder.
-/
namespace Sys2Proof

abbrev Byte := BitVec 8
abbrev W16 := BitVec 16
abbrev W32 := BitVec 32
abbrev W64 := BitVec 64

/-- The number of lanes of a group, fixed (02 R27). -/
abbrev lanes : Nat := 32

/-- One 32-bit element per lane. -/
abbrev LaneVec := Vector W32 32

end Sys2Proof
end

