-- ==== Sys2Proof/Config.lean ====
section
/-!
DEFINITION. What an implementation fixes and what the spec leaves open. The constants without a body are FREE VALUES: nothing can
evaluate them, so a statement about them holds whatever they are (notes/assumptions/5, 7, 10, 12, 31, 57).
-/
namespace Sys2Proof.Config

/-- Which of the old and the new value a read that comes before its producer's result is visible receives (07 R131, R137; 08 R161), by a
fresh draw and the lane: true for the new value. -/
opaque race : Nat → Nat → Bool

/-- A byte whose value the spec leaves open (19 R393: a digest location after a failed write; 22 R431: layouts not given). -/
opaque freeByte : Nat → Byte

/-- Whether the boot ROM's root key verifies a firmware image (26 R459). -/
opaque imageVerifies : List Byte → Bool

/-- The version field of a verified image (26 R450). -/
opaque imageVersion : List Byte → W32

/-- The secret and public seeds of the module's identity key: SK_SEED, SK_PRF and SEED, 32 bytes each (26 R460, R461). -/
opaque identitySeed : Nat → List Byte

/-- The firmware image stored at manufacture (26 R459). -/
opaque firstImage : List Byte

/-- The 512 bytes of the image of SFU table `i` in the part at hand (09 R198, 26 R450). -/
opaque partImage : Nat → List Byte

/-- Whether sub-array `s` of engine `e` gives the known-pattern product right at its `n`-th test (15 R342): what the part does. -/
opaque selfTest : Nat → Nat → Nat → Bool

/-- Whether the two results of a quarter-operation that engine `e` runs on two sub-arrays agree, by a fresh draw (01 R25, 15 R342). -/
opaque duplicate : Nat → Nat → Bool

/-- Which of the writes that a read may return it returns, by a fresh draw and the place of the byte: an index among them, newest first (17 R363, R371;
13 R276; 15 R334). -/
opaque stale : Nat → Nat → Nat

/-- From which of its working sub-arrays an engine places the quarters of a pass (15 R340), by a fresh draw. -/
opaque placement : Nat → Nat

/-- Which of the outcomes left open a cell of a tile takes when a lane word and a drain write it (15 R336), by a fresh draw and the place of the cell. -/
opaque drainRace : Nat → Nat → Nat

/-- By a fresh draw: at 0 the energy in nanojoules of the glide operations of an interval, and at n + 1 what the departing work of a die's n-th departing grid
adds to the drop (21 R413, R414): what the meters find. -/
opaque glideMeter : Nat → Nat → Nat

/-- What a byte of device DRAM or host memory that nothing has written reads as (DESIGN CHOICE, notes/assumptions/3). -/
def memDefault : Byte := 0

/-- The physical address at which the model keeps host memory: above every device DRAM address (13 R277, 20 R397). -/
abbrev hostBase : Nat := 2 ^ 57

/-- The fabric module number of this module. The spec gives none at reset (DESIGN CHOICE, notes/assumptions/4). -/
def moduleNumber : Nat := 0

end Sys2Proof.Config
end

