-- ==== Sys2Proof/Syntax.lean ====
section
/-!
DEFINITION. The instructions: one constructor per row of spec/opcode_table.json. The first 59 are the scalar words (06 R106-R112),
the next 87 the lane words (06 R113-R123), the last 68 the steps that the module's own units and the host make
(95_what_each_step_holds.md): these have no encoding, and what they are told (a port, a temperature, bytes) is their operands.
Fields keep the spec's names and their encoded values.
-/
namespace Sys2Proof

/-- The control field of a lane word (06 R113) and its PRED field (R114). REUSE stands with MMQ, DUAL with the dual word. -/
structure LaneCtl where
  sw   : Bool
  dist : BitVec 4
  wait : BitVec 12
  setc : BitVec 4
  pred : BitVec 4
deriving DecidableEq, Repr

/-- A register field with its ASEL bit (06 R115, R116): vk, or ak when `acc`. -/
structure VReg where
  acc : Bool
  k   : BitVec 8
deriving DecidableEq, Repr

/-- The b operand by BSRC (06 R116). -/
inductive BOpnd where
  | v (r : VReg)
  | s (k : BitVec 8)
  | imm (i : BitVec 16)
deriving DecidableEq, Repr

/-- The memory modifiers and address fields (06 R117): a is the scalar base, b the vector offset register when VOFF is set. -/
structure MemOp where
  ord   : BitVec 3
  scope : BitVec 4
  type  : BitVec 4
  voff  : Bool
  disp  : BitVec 14
  a     : BitVec 8
  b     : BitVec 8
deriving DecidableEq, Repr

/-- One half of a dual word (06 R120): `bs` is MOD [5], `f` is MOD [4:0]. -/
structure Half where
  op : BitVec 6
  d  : BitVec 8
  a  : BitVec 8
  b  : BitVec 8
  bs : Bool
  f  : BitVec 5
deriving DecidableEq, Repr

/-- Why a pre-emption of a gang is requested (22 R427). -/
inductive StopReason where
  | quantum | trip | quota | trapHost | host | hostHold | migration | cut
deriving DecidableEq, Repr

inductive Instr where
  -- scalar words: integer and address arithmetic
  | sadd (d a b : BitVec 8) | ssub (d a b : BitVec 8) | saddi (d a : BitVec 8) (i : BitVec 9)
  | smul (d a b : BitVec 8) | smulh (d a b : BitVec 8) (u : Bool)
  | sdiv (d a b : BitVec 8) (u : Bool) | srem (d a b : BitVec 8) (u : Bool)
  | sand (d a b : BitVec 8) | sor (d a b : BitVec 8) | sxor (d a b : BitVec 8)
  | sshl (d a b : BitVec 8) | sshr (d a b : BitVec 8) | ssra (d a b : BitVec 8)
  | smin (d a b : BitVec 8) (u : Bool) | smax (d a b : BitVec 8) (u : Bool)
  | slui (d : BitVec 8) (i : BitVec 17) | slea (d a b : BitVec 8) (dw : Bool)
  | sbfe (d a b : BitVec 8) | sbfi (d a b : BitVec 8)
  | sclz (d a : BitVec 8) | spopc (d a : BitVec 8) | ssel (d a b : BitVec 8)
  | scmp (c : BitVec 3) (d a b : BitVec 8)
  -- scalar memory
  | sld (t : BitVec 3) (d a : BitVec 8) (i : BitVec 9) | sst (t : BitVec 2) (b a : BitVec 8) (i : BitVec 9)
  | sldc (d : BitVec 8) (i : BitVec 17)
  -- branches, runs
  | sbr (o : BitVec 13) | sbc (c : BitVec 4) (a : BitVec 8) (o : BitVec 13)
  | brl (u n : Bool) (k : BitVec 3) (o : BitVec 13) | scall (d : BitVec 8) (o : BitVec 13)
  | sloop (a : BitVec 8) (o : BitVec 13) | lrun (count : BitVec 6) (target : BitVec 19)
  -- SX words
  | sret (a : BitVec 8) | lsync | waitc (k : BitVec 4) (n : BitVec 8)
  | barw (id : BitVec 2) | barg (id : BitVec 2) | step (n : BitVec 16) | phint (n : BitVec 16)
  | sget (d r : BitVec 8) | sset (r a : BitVec 8) | trap (n : BitVec 16) | rett | exit
  | grow (n : BitVec 6) | shrink (n : BitVec 6) | setbnd (n : BitVec 6)
  | pin (k : BitVec 3) (a : BitVec 8) | unpin (k : BitVec 3) | reclaim (d a : BitVec 8)
  | oapp (d a : BitVec 8) | odecl (a : BitVec 8)
  | fork (d a : BitVec 8) | rvz (a : BitVec 8) | wpwait (n : BitVec 3) (a : BitVec 8)
  | tspawn (a b : BitVec 8) | tdone | put (a : BitVec 8) | wcwait (a b : BitVec 8)
  -- lane words: integer
  | iadd (h : LaneCtl) (d a : VReg) (b : BOpnd) (f : BitVec 4) | isub (h : LaneCtl) (d a : VReg) (b : BOpnd) (f : BitVec 4)
  | iadd3 (h : LaneCtl) (d a : VReg) (b : BOpnd) (c : VReg) (f : BitVec 4)
  | imul (h : LaneCtl) (d a : VReg) (b : BOpnd) (f : BitVec 4) | imulh (h : LaneCtl) (d a : VReg) (b : BOpnd) (f : BitVec 4)
  | imad (h : LaneCtl) (d a : VReg) (b : BOpnd) (c : VReg) (f : BitVec 4)
  | iwadd (h : LaneCtl) (d a : VReg) (b : BOpnd) (f : BitVec 4)
  | idp4 (h : LaneCtl) (d a : VReg) (b : BOpnd) (c : VReg) (f : BitVec 4)
  | imin (h : LaneCtl) (d a : VReg) (b : BOpnd) (f : BitVec 4) | imax (h : LaneCtl) (d a : VReg) (b : BOpnd) (f : BitVec 4)
  | iabs (h : LaneCtl) (d a : VReg) (f : BitVec 4)
  | iand (h : LaneCtl) (d a : VReg) (b : BOpnd) (f : BitVec 4) | ior (h : LaneCtl) (d a : VReg) (b : BOpnd) (f : BitVec 4)
  | ixor (h : LaneCtl) (d a : VReg) (b : BOpnd) (f : BitVec 4) | inot (h : LaneCtl) (d a : VReg) (f : BitVec 4)
  | ishl (h : LaneCtl) (d a : VReg) (b : BOpnd) (f : BitVec 4) | ishr (h : LaneCtl) (d a : VReg) (b : BOpnd) (f : BitVec 4)
  | isra (h : LaneCtl) (d a : VReg) (b : BOpnd) (f : BitVec 4)
  | ibfe (h : LaneCtl) (d a : VReg) (b : BOpnd) (f : BitVec 4)
  | ibfi (h : LaneCtl) (d a : VReg) (b : BOpnd) (c : VReg) (f : BitVec 4)
  | ipopc (h : LaneCtl) (d a : VReg) (f : BitVec 4) | iclz (h : LaneCtl) (d a : VReg) (f : BitVec 4)
  | icmp (h : LaneCtl) (m : BitVec 3) (a : VReg) (b : BOpnd) (f : BitVec 4)
  | isel (h : LaneCtl) (d a : VReg) (b : BOpnd) (m : BitVec 3) (f : BitVec 4)
  -- FP32
  | fadd (h : LaneCtl) (d a : VReg) (b : BOpnd) (f : BitVec 4) | fsub (h : LaneCtl) (d a : VReg) (b : BOpnd) (f : BitVec 4)
  | fmul (h : LaneCtl) (d a : VReg) (b : BOpnd) (f : BitVec 4)
  | ffma (h : LaneCtl) (d a : VReg) (b : BOpnd) (c : VReg) (f : BitVec 4)
  | fmin (h : LaneCtl) (d a : VReg) (b : BOpnd) (f : BitVec 4) | fmax (h : LaneCtl) (d a : VReg) (b : BOpnd) (f : BitVec 4)
  | fcmp (h : LaneCtl) (m : BitVec 3) (a : VReg) (b : BOpnd) (f : BitVec 4)
  | fclass (h : LaneCtl) (d a : VReg) (f : BitVec 4) | fscale (h : LaneCtl) (d a : VReg) (b : BOpnd) (f : BitVec 4)
  | frnd (h : LaneCtl) (d a : VReg) (f : BitVec 4)
  -- packed 16-bit
  | hadd2 (h : LaneCtl) (d a : VReg) (b : BOpnd) (f : BitVec 4) | hmul2 (h : LaneCtl) (d a : VReg) (b : BOpnd) (f : BitVec 4)
  | hfma2 (h : LaneCtl) (d a : VReg) (b : BOpnd) (c : VReg) (f : BitVec 4)
  | badd2 (h : LaneCtl) (d a : VReg) (b : BOpnd) (f : BitVec 4) | bmul2 (h : LaneCtl) (d a : VReg) (b : BOpnd) (f : BitVec 4)
  | bfma2 (h : LaneCtl) (d a : VReg) (b : BOpnd) (c : VReg) (f : BitVec 4)
  -- conversions, codebooks
  | cvt (h : LaneCtl) (d a : VReg) (f : BitVec 4) | cvtef (h : LaneCtl) (d a : VReg) (f : BitVec 4)
  | pack (h : LaneCtl) (d a : VReg) (b : BOpnd) (f : BitVec 4) | unpack (h : LaneCtl) (d a : VReg) (f : BitVec 4)
  | cbdec (h : LaneCtl) (d a b : VReg) (f : BitVec 4) | cbenc (h : LaneCtl) (d a b : VReg) (f : BitVec 4)
  -- moves, masks
  | vmov (h : LaneCtl) (d a : VReg) (f : BitVec 4) | vmovi (h : LaneCtl) (d : BitVec 8) (i : W32)
  | laneid (h : LaneCtl) (d : VReg) (f : BitVec 4)
  | mand (h : LaneCtl) (d a b : BitVec 3) | mor (h : LaneCtl) (d a b : BitVec 3) | mnot (h : LaneCtl) (d a : BitVec 3)
  | mget (h : LaneCtl) (d : BitVec 8) (a : BitVec 3) | mset (h : LaneCtl) (d : BitVec 3) (a : BitVec 8)
  -- cross-lane, lane-scalar, shared registers, special functions
  | vote (h : LaneCtl) (d : BitVec 8) (a : VReg) (f : BitVec 4)
  | shfl (h : LaneCtl) (d a : VReg) (b : BOpnd) (f : BitVec 4)
  | scan (h : LaneCtl) (d a : VReg) (f : BitVec 4) (ty : BitVec 2) (excl : Bool)
  | red (h : LaneCtl) (d a : VReg) (f : BitVec 4) (ty : BitVec 2)
  | vtos (h : LaneCtl) (d : BitVec 8) (a : VReg) (b : BOpnd) (first sx : Bool)
  | stov (h : LaneCtl) (d : VReg) (a : BitVec 8) (hi : Bool)
  | wsr (h : LaneCtl) (d : VReg) (k : BitVec 4) | wsw (h : LaneCtl) (k : BitVec 4) (a : VReg)
  | frcp (h : LaneCtl) (d a : VReg) | frsq (h : LaneCtl) (d a : VReg) | fsqrt (h : LaneCtl) (d a : VReg)
  | fexp2 (h : LaneCtl) (d a : VReg) | flog2 (h : LaneCtl) (d a : VReg) | fsin (h : LaneCtl) (d a : VReg)
  | fcos (h : LaneCtl) (d a : VReg) | ftanh (h : LaneCtl) (d a : VReg)
  -- embers
  | kdef (h : LaneCtl) (d : BitVec 8) (a b c : Option (BitVec 8)) (len : BitVec 4) (slice : BitVec 19)
  | ldk (h : LaneCtl) (d : BitVec 8) (m : MemOp) | douse (h : LaneCtl) (d : BitVec 8)
  -- memory
  | ld (h : LaneCtl) (d : BitVec 8) (m : MemOp) | st (h : LaneCtl) (c : BitVec 8) (m : MemOp)
  | lds (h : LaneCtl) (d : BitVec 8) (m : MemOp) | sts (h : LaneCtl) (c : BitVec 8) (m : MemOp)
  | ldt (h : LaneCtl) (d : BitVec 8) (m : MemOp) | atom (h : LaneCtl) (d c : BitVec 8) (m : MemOp)
  | atoms (h : LaneCtl) (d c : BitVec 8) (m : MemOp) | fence (h : LaneCtl) (ord : BitVec 3) (scope : BitVec 4)
  | pref (h : LaneCtl) (m : MemOp)
  -- matrix engine
  | mmq (h : LaneCtl) (reuse : Bool) (d a sb sc : BitVec 8) | mdrain (h : LaneCtl) (d sk : BitVec 8)
  | mzero (h : LaneCtl) (d : BitVec 8) | mwait (h : LaneCtl)
  -- the dual word
  | dualWord (h : LaneCtl) (x y : Half)
  -- steps inside the module: groups
  | wordCompletion (slot idx : Nat) | barrierRelease (slot : Nat) (gang : Bool) (id : BitVec 2)
  | oappGrant (slot : Nat) | growGrant (core : Nat) | progress (slot : Nat)
  | emberDemotion (slot : Nat) (d : BitVec 8) | rekindle (slot : Nat) (d : BitVec 8)
  -- queues
  | doorbell (q : Nat) (v : W64) (src : Nat) | stokerRound (core : Nat) | stokerRepoll (q : Nat)
  | packetComplete (q i : Nat) | signalWatchRead (q : Nat) | waitTo (q : Nat) | ioCopyGranule (q i : Nat)
  | gridRetire (gid : Nat) | stokerHalt (core : Nat) | stokerTakeover (core : Nat) | stokerReload (core : Nat)
  | qfault (q : Nat)
  -- placement, save, resumption
  | dispatcherDecision | quantumExpiry (gid gang : Nat) | preemptionRequest (gid gang : Nat) (why : StopReason)
  | saveComplete (gid gang : Nat) | workgroupResumption (gid lw : Nat)
  -- engines
  | matrixPass (cluster : Nat) | jobStart (job : Nat) | jobGranule (job : Nat) | jobSuspend (job : Nat)
  | taskCommit (gid : Nat)
  -- sensors and clocks
  | sensorSample (core : Bool) (idx : Nat) (temp : Int) | vaultRefresh (v : Nat) | refreshEnd (v : Nat)
  | ratioChange (cluster : Nat) | ratioSwitchEnd (cluster : Nat)
  | nclkWindow (die : Nat) (permille : Nat) | nclkStepDone (die : Nat)
  | glideInterval (die : Nat) (estimate : Nat) | energyCharge (gid uj : Nat)
  -- fabric
  | putDelivery (ctx win off : Nat) (data : List Byte) | putAck (id : Nat) (ok : Bool) | putTimeout (id : Nat)
  -- host
  | hostAccess (port addr len : Nat) (write : Option (List Byte)) | linkDown (port : Nat) | ownsemRelease (port : Nat)
  | ownsemRead (port : Nat) | ownsemWrite (port : Nat) (v : W64)
  | globalConfigWrite (port off : Nat) (data : List Byte) | contextTableWrite (port off : Nat) (data : List Byte)
  | registerWrite (port off : Nat) (data : List Byte)
  | preempt (port : Nat) (grid arg : W64) | resume (port : Nat) (grid gang : W64) | endgrid (port : Nat) (grid : W64)
  | cut (port : Nat) (grid : W64) | cutComplete (gid : Nat)
  | inval (port : Nat) (ctx range : W64) | invalComplete (port : Nat)
  | quotaadd (port : Nat) (grid uj : W64) | endqf (port : Nat) (q : W64)
  | repair (port : Nat) (slot unit : W64) | repairTakesEffect (slot : Nat)
  | attest (port : Nat) | fwload (port : Nat) (addr len : W64)
  | recread (port : Nat) (idx addr : W64) | recwrite (port : Nat) (idx addr : W64)
  | moduleReset | linkTraining (port : Nat) (base : W64) | powerLoss | scalarResultReady (slot : Nat)
deriving DecidableEq, Repr

end Sys2Proof
end

