-- ==== Sys2Proof/WellFormed.lean ====
section
/-!
DEFINITION. Which instructions the encoding admits (06 R107-R123, and the F, TY, ORD, SCOPE and TYPE values of 08-15): a field that
fits its width but names no code, register or limit of the spec is ill-formed, and a word that would hold it raises ILLEGAL (06 R124).
For the module's own steps the operands are bounded by the number of units (01 R19).
-/
namespace Sys2Proof

/-- SETC names a counter c0-c11, or none (06 R113). -/
def LaneCtl.wf (h : LaneCtl) : Bool := h.setc.toNat < 12 || h.setc.toNat == 15

/-- A word that takes no PRED has it zero (06 R114). -/
def LaneCtl.wfGroup (h : LaneCtl) : Bool := h.wf && h.pred == 0

/-- The special-register numbers of 06 R112. -/
def specialAssigned (r : BitVec 8) : Bool :=
  r.toNat ≤ 0x15 || (0x18 ≤ r.toNat && r.toNat ≤ 0x1F) || 0x40 ≤ r.toNat

/-- IWADD: a 16-bit type has elements 0 and 1 only (10 R203). -/
def iwaddF (f : BitVec 4) : Bool := 8 ≤ f.toNat || f.toNat % 4 ≤ 1

/-- With VOFF clear, b is reserved (06 R117). -/
def MemOp.wfAddr (m : MemOp) : Bool := m.voff || m.b == 0

/-- The register alignment of a data TYPE (13 R280, R283). -/
def dataAligned (type : BitVec 4) (k : BitVec 8) : Bool :=
  if type.toNat = 5 then k.toNat % 2 == 0 else if type.toNat = 6 then k.toNat % 4 == 0 else true

/-- Loads: TYPE 0-6, ORD .rlx, .acq or .sc, SCOPE up to `top` (13 R281). -/
def MemOp.wfLoad (m : MemOp) (d : BitVec 8) (top : Nat) : Bool :=
  m.wfAddr && m.type.toNat ≤ 6 && [0, 1, 4].contains m.ord.toNat && m.scope.toNat ≤ top && dataAligned m.type d

/-- Stores: the unsigned TYPEs, ORD .rlx, .rel or .sc (13 R281). -/
def MemOp.wfStore (m : MemOp) (c : BitVec 8) (top : Nat) : Bool :=
  m.wfAddr && [0, 2, 4, 5, 6].contains m.type.toNat && [0, 2, 4].contains m.ord.toNat && m.scope.toNat ≤ top && dataAligned m.type c

/-- The register alignment of an atomic's operands (13 R289). -/
def atomAligned (type : BitVec 4) (d c : BitVec 8) : Bool :=
  match type.toNat with
  | 0x1 => c.toNat % 2 == 0 && d.toNat % 2 == 0
  | 0xB => c.toNat % 2 == 0 && d.toNat % 2 == 0
  | 0xC => c.toNat % 2 == 0
  | 0xD => c.toNat % 4 == 0 && d.toNat % 2 == 0
  | _ => true

def MemOp.wfAtom (m : MemOp) (d c : BitVec 8) (top : Nat) : Bool :=
  m.wfAddr && m.type.toNat ≤ 0xD && m.ord.toNat ≤ 4 && 2 ≤ m.scope.toNat && m.scope.toNat ≤ top && atomAligned m.type d c

/-- SCAN and RED: an operation and a type that go together (11 R232). -/
def reduceOk (f : BitVec 4) (ty : BitVec 2) : Bool :=
  f.toNat ≤ 5 && ty.toNat ≤ 2 && !(ty.toNat == 2 && 3 ≤ f.toNat)

/-- An empty half has all its fields reserved (06 R121). -/
def Half.empty (x : Half) : Bool := x.op == 0

def Half.blank (x : Half) : Bool := x.d == 0 && x.a == 0 && x.b == 0 && !x.bs && x.f == 0

/-- A half whose b is reserved. -/
def Half.noB (x : Half) : Bool := x.b == 0 && !x.bs

/-- The X half (06 R121, 10 R225). -/
def Half.wfX (x : Half) : Bool :=
  match x.op.toNat with
  | 0 => x.blank
  | 1 | 2 | 3 => x.f.toNat ≤ 3
  | 4 | 5 => x.f == 0
  | _ => false

/-- The Y half (06 R121, 10 R225). -/
def Half.wfY (y : Half) : Bool :=
  match y.op.toNat with
  | 0 => y.blank
  | 1 | 2 => y.f.toNat ≤ 2
  | 3 | 7 | 8 | 9 => y.f == 0
  | 4 | 5 | 0xB | 0xC | 0xD => y.f.toNat ≤ 1
  | 6 => y.f.toNat ≤ 1 && y.noB
  | 0xA | 0xE => y.f == 0 && y.noB
  | 0xF => y.f.toNat ≤ 15 && y.noB
  | 0x10 => y.f.toNat ≤ 1 && y.noB && y.a == 0
  | _ => false

/-- The vector registers that the X half reads (06 R123). -/
def Half.readsX (x : Half) : List Nat :=
  if x.empty then [] else x.a.toNat :: (if x.bs then [] else [x.b.toNat])

/-- The vector registers that the Y half reads: INOT, IABS, VMOV and CVT read a only, LANEID none. -/
def Half.readsY (y : Half) : List Nat :=
  match y.op.toNat with
  | 0 | 0x10 => []
  | 6 | 0xA | 0xE | 0xF => [y.a.toNat]
  | _ => y.a.toNat :: (if y.bs then [] else [y.b.toNat])

/-- No two distinct registers read fall in one bank (06 R123). -/
def bankOk (rs : List Nat) : Bool :=
  let ds := rs.eraseDups
  (ds.map (· % 4)).eraseDups.length == ds.length

/-- A dual word (06 R122). -/
def dualOk (x y : Half) : Bool :=
  x.wfX && y.wfY && !(x.empty && y.empty) && (x.empty || y.empty || x.d != y.d) && bankOk (x.readsX ++ y.readsY)

/-- The number of group slots, clusters, dies and vaults (01 R19, 04 R67). -/
abbrev numSlots : Nat := 416 * 48
abbrev numClusters : Nat := 104
abbrev numDies : Nat := 10
abbrev numVaults : Nat := 192
abbrev numCores : Nat := 416
abbrev numQueues : Nat := 65536

def Instr.wf : Instr → Bool
  | .sadd _ _ _ | .ssub _ _ _ | .saddi _ _ _ | .smul _ _ _ | .smulh _ _ _ _ | .sdiv _ _ _ _ | .srem _ _ _ _ => true
  | .sand _ _ _ | .sor _ _ _ | .sxor _ _ _ | .sshl _ _ _ | .sshr _ _ _ | .ssra _ _ _ | .smin _ _ _ _ | .smax _ _ _ _ => true
  | .slui _ _ | .slea _ _ _ _ | .sbfe _ _ _ | .sbfi _ _ _ | .sclz _ _ | .spopc _ _ | .ssel _ _ _ => true
  | .scmp c _ _ _ => c.toNat ≤ 5
  | .sld t _ _ _ => t.toNat ≤ 6
  | .sst _ _ _ _ | .sldc _ _ | .sbr _ => true
  | .sbc c _ _ => c.toNat ≤ 5
  | .brl _ _ _ _ | .scall _ _ | .sloop _ _ | .lrun _ _ | .sret _ | .lsync => true
  | .waitc k _ => k.toNat < 12
  | .barw _ | .barg _ | .step _ | .phint _ => true
  | .sget _ r | .sset r _ => specialAssigned r
  | .trap _ | .rett | .exit => true
  | .grow n | .shrink n => 1 ≤ n.toNat && n.toNat ≤ 32
  | .setbnd n => n.toNat ≤ 32
  | .pin _ _ | .unpin _ | .reclaim _ _ | .oapp _ _ | .odecl _ | .fork _ _ | .rvz _ | .wpwait _ _ => true
  | .tspawn _ _ | .tdone | .put _ | .wcwait _ _ => true
  | .iadd h _ _ _ f | .isub h _ _ _ f | .iadd3 h _ _ _ _ f | .imad h _ _ _ _ f => h.wf && f.toNat ≤ 2
  | .imul h _ _ _ f | .iand h _ _ _ f | .ior h _ _ _ f | .ixor h _ _ _ f | .inot h _ _ f => h.wf && f == 0
  | .imulh h _ _ _ f | .imin h _ _ _ f | .imax h _ _ _ f | .iabs h _ _ f => h.wf && f.toNat ≤ 1
  | .iwadd h _ _ _ f => h.wf && iwaddF f
  | .idp4 h _ _ _ _ f => h.wf && f.toNat ≤ 7
  | .ishl h _ _ _ f | .ishr h _ _ _ f | .isra h _ _ _ f | .ibfe h _ _ _ f => h.wf && f.toNat ≤ 1
  | .ibfi h _ _ _ _ f | .ipopc h _ _ f | .iclz h _ _ f | .isel h _ _ _ _ f => h.wf && f == 0
  | .icmp h _ _ _ f => h.wf && f.toNat ≤ 5
  | .fadd h _ _ _ f | .fsub h _ _ _ f | .fmul h _ _ _ f | .ffma h _ _ _ _ f | .fscale h _ _ _ f | .frnd h _ _ f => h.wf && f.toNat ≤ 3
  | .fmin h _ _ _ f | .fmax h _ _ _ f | .fclass h _ _ f => h.wf && f == 0
  | .fcmp h _ _ _ f => h.wf && f.toNat ≤ 7
  | .hadd2 h _ _ _ f | .hmul2 h _ _ _ f | .hfma2 h _ _ _ _ f => h.wf && f.toNat ≤ 3
  | .badd2 h _ _ _ f | .bmul2 h _ _ _ f | .bfma2 h _ _ _ _ f => h.wf && f.toNat ≤ 3
  | .cvt h _ _ _ => h.wf
  | .cvtef h _ _ f => h.wf && f.toNat ≤ 3
  | .pack h _ _ b f => h.wf && f.toNat ≤ 9 && (match b with | .imm _ => false | _ => true)
  | .unpack h _ _ f => h.wf && f.toNat ≤ 11
  | .cbdec h _ _ b _ => h.wf && b.k.toNat % 8 == 0
  | .cbenc h _ _ b f => h.wf && b.k.toNat % 8 == 0 && f.toNat ≤ 7
  | .vmov h _ _ f => h.wf && f == 0
  | .vmovi h _ _ => h.wf
  | .laneid h _ f => h.wf && f.toNat ≤ 1
  | .mand h _ _ _ | .mor h _ _ _ | .mnot h _ _ | .mget h _ _ | .mset h _ _ => h.wf
  | .vote h _ _ f => h.wf && f.toNat ≤ 4
  | .shfl h _ _ _ f => h.wf && f.toNat ≤ 3
  | .scan h _ _ f ty _ | .red h _ _ f ty => h.wf && reduceOk f ty
  | .vtos h _ _ b first _ => h.wf && (match b with | .v _ => false | .s _ => !first | .imm i => !first || i == 0)
  | .stov h _ _ _ | .wsr h _ _ => h.wf
  | .wsw h _ _ => h.wfGroup
  | .frcp h _ _ | .frsq h _ _ | .fsqrt h _ _ | .fexp2 h _ _ | .flog2 h _ _ | .fsin h _ _ | .fcos h _ _ | .ftanh h _ _ => h.wf
  | .kdef h _ _ _ _ _ _ => h.wf
  | .ldk h d m => h.wf && m.wfAddr && m.type.toNat ≤ 6 && m.ord == 0 && 4 ≤ m.scope.toNat && m.scope.toNat ≤ 8 && dataAligned m.type d
  | .douse h _ => h.wf
  | .ld h d m => h.wf && m.wfLoad d 8
  | .st h c m => h.wf && m.wfStore c 8
  | .lds h d m => h.wf && m.wfLoad d 5
  | .sts h c m => h.wf && m.wfStore c 5
  | .ldt h d m => h.wf && m.voff && m.ord == 0 && m.scope.toNat ≤ 8 && m.type.toNat ≤ 1 && d.toNat % (if m.type == 1 then 16 else 8) == 0
  | .atom h d c m => h.wf && m.wfAtom d c 8
  | .atoms h d c m => h.wf && m.wfAtom d c 5
  | .fence h ord scope => h.wfGroup && 1 ≤ ord.toNat && ord.toNat ≤ 4 && scope.toNat ≤ 8
  | .pref h m => h.wf && m.wfAddr && m.ord == 0 && m.scope == 0 && m.type.toNat ≤ 1
  | .mmq h _ d _ _ _ => h.wf && d.toNat % 8 == 0
  | .mdrain h d _ | .mzero h d => h.wfGroup && d.toNat % 8 == 0
  | .mwait h => h.wfGroup
  | .dualWord h x y => h.wfGroup && dualOk x y
  | .wordCompletion slot _ | .barrierRelease slot _ _ | .oappGrant slot | .progress slot => slot < numSlots
  | .growGrant core => core < numCores
  | .emberDemotion slot _ | .rekindle slot _ | .scalarResultReady slot => slot < numSlots
  | .doorbell q _ _ | .stokerRepoll q | .packetComplete q _ | .signalWatchRead q | .waitTo q | .ioCopyGranule q _ | .qfault q => q < numQueues
  | .stokerRound core | .stokerHalt core | .stokerTakeover core | .stokerReload core => core < 5
  | .gridRetire _ | .dispatcherDecision | .quantumExpiry _ _ | .preemptionRequest _ _ _ | .saveComplete _ _ | .workgroupResumption _ _ => true
  | .matrixPass n | .ratioChange n | .ratioSwitchEnd n => n < numClusters
  | .jobStart _ | .jobGranule _ | .jobSuspend _ | .taskCommit _ => true
  | .sensorSample core idx _ => idx < (if core then numCores else numVaults)
  | .vaultRefresh v | .refreshEnd v => v < numVaults
  | .nclkWindow die _ | .nclkStepDone die => die < numDies
  | .glideInterval die _ => die < 8
  | .energyCharge _ _ => true
  | .putDelivery ctx win _ _ => ctx < 4096 && win < 256
  | .putAck _ _ | .putTimeout _ => true
  | .hostAccess port _ _ _ | .linkDown port | .ownsemRelease port | .ownsemRead port | .ownsemWrite port _ => port < 2
  | .globalConfigWrite port _ _ | .contextTableWrite port _ _ | .registerWrite port _ _ => port < 2
  | .preempt port _ _ | .resume port _ _ | .endgrid port _ | .cut port _ | .inval port _ _ | .invalComplete port => port < 2
  | .cutComplete _ | .repairTakesEffect _ => true
  | .quotaadd port _ _ | .endqf port _ | .repair port _ _ | .attest port | .fwload port _ _ => port < 2
  | .recread port _ _ | .recwrite port _ _ | .linkTraining port _ => port < 2
  | .moduleReset | .powerLoss => true

end Sys2Proof
end

