-- ==== Sys2Proof/Decode.lean ====
section
/-!
DEFINITION. Decoding and encoding, from the layouts of 06 R106-R121. A word is a natural number; its fields are split off by division and
remainder, the opcode selects the instruction that the fields would name, and the word IS that instruction exactly when the instruction is
well-formed and its encoding is the word: so a reserved field that is not zero, a reserved code and an unassigned opcode are all refused
(06 R124, R126).
-/
namespace Sys2Proof

/-- The fields of a scalar word (06 R106): opcode [31:25], dst [24:17], a [16:9], b [8:1], bit [0]. The other forms join neighbours of these. -/
structure ScalarRaw where
  op : Nat
  d  : Nat
  a  : Nat
  b  : Nat
  m  : Nat
deriving DecidableEq, Repr

def ScalarRaw.word (r : ScalarRaw) : Nat := r.op * 2 ^ 25 + r.d * 2 ^ 17 + r.a * 2 ^ 9 + r.b * 2 + r.m

def scalarSplit (w : Nat) : ScalarRaw :=
  { op := w / 2 ^ 25 % 2 ^ 7, d := w / 2 ^ 17 % 2 ^ 8, a := w / 2 ^ 9 % 2 ^ 8, b := w / 2 % 2 ^ 8, m := w % 2 }

/-- IMM9 of the SI form, [8:0]. -/
def ScalarRaw.imm9 (r : ScalarRaw) : BitVec 9 := BitVec.ofNat 9 (r.b * 2 + r.m)
/-- IMM17 of the SL form, [16:0]. -/
def ScalarRaw.imm17 (r : ScalarRaw) : BitVec 17 := BitVec.ofNat 17 (r.a * 2 ^ 9 + r.b * 2 + r.m)
/-- COND [24:21] of the SB form. -/
def ScalarRaw.cond (r : ScalarRaw) : BitVec 4 := BitVec.ofNat 4 (r.d / 2 ^ 4)
/-- REG [20:13] of the SB form. -/
def ScalarRaw.reg (r : ScalarRaw) : BitVec 8 := BitVec.ofNat 8 (r.d % 2 ^ 4 * 2 ^ 4 + r.a / 2 ^ 4)
/-- OFF13 [12:0] of the SB form. -/
def ScalarRaw.off13 (r : ScalarRaw) : BitVec 13 := BitVec.ofNat 13 (r.a % 2 ^ 4 * 2 ^ 9 + r.b * 2 + r.m)
/-- COUNT [24:19] of the LR form. -/
def ScalarRaw.count (r : ScalarRaw) : BitVec 6 := BitVec.ofNat 6 (r.d / 2 ^ 2)
/-- TARGET [18:0] of the LR form. -/
def ScalarRaw.target (r : ScalarRaw) : BitVec 19 := BitVec.ofNat 19 (r.d % 2 ^ 2 * 2 ^ 17 + r.a * 2 ^ 9 + r.b * 2 + r.m)

def ScalarRaw.rd (r : ScalarRaw) : BitVec 8 := BitVec.ofNat 8 r.d
def ScalarRaw.ra (r : ScalarRaw) : BitVec 8 := BitVec.ofNat 8 r.a
def ScalarRaw.rb (r : ScalarRaw) : BitVec 8 := BitVec.ofNat 8 r.b
def ScalarRaw.u (r : ScalarRaw) : Bool := r.m == 1

/-- The forms of 06 R106, joined from their fields. -/
def encSR (op : Nat) (d a b : BitVec 8) (m : Bool) : Nat := op * 2 ^ 25 + d.toNat * 2 ^ 17 + a.toNat * 2 ^ 9 + b.toNat * 2 + m.toNat
def encSI (op : Nat) (d a : BitVec 8) (i : BitVec 9) : Nat := op * 2 ^ 25 + d.toNat * 2 ^ 17 + a.toNat * 2 ^ 9 + i.toNat
def encSL (op : Nat) (d : BitVec 8) (i : BitVec 17) : Nat := op * 2 ^ 25 + d.toNat * 2 ^ 17 + i.toNat
def encSB (op : Nat) (cond : BitVec 4) (reg : BitVec 8) (o : BitVec 13) : Nat := op * 2 ^ 25 + cond.toNat * 2 ^ 21 + reg.toNat * 2 ^ 13 + o.toNat
def encLR (op : Nat) (count : BitVec 6) (target : BitVec 19) : Nat := op * 2 ^ 25 + count.toNat * 2 ^ 19 + target.toNat
def encSX (sub p q : Nat) : Nat := 0x7F * 2 ^ 25 + sub * 2 ^ 17 + p * 2 ^ 9 + q * 2

/-- The SX words by SUB (06 R111); P stands in a, Q in b. -/
def rawSX (r : ScalarRaw) : Option Instr :=
  match r.d with
  | 0x1 => some (.sret (BitVec.ofNat 8 r.b))
  | 0x2 => some .lsync
  | 0x3 => some (.waitc (BitVec.ofNat 4 r.a) (BitVec.ofNat 8 r.b))
  | 0x4 => some (.barw (BitVec.ofNat 2 r.a))
  | 0x5 => some (.barg (BitVec.ofNat 2 r.a))
  | 0x6 => some (.step (BitVec.ofNat 16 (r.a * 2 ^ 8 + r.b)))
  | 0x7 => some (.phint (BitVec.ofNat 16 (r.a * 2 ^ 8 + r.b)))
  | 0x8 => some (.sget (BitVec.ofNat 8 r.a) (BitVec.ofNat 8 r.b))
  | 0x9 => some (.sset (BitVec.ofNat 8 r.a) (BitVec.ofNat 8 r.b))
  | 0xa => some (.trap (BitVec.ofNat 16 (r.a * 2 ^ 8 + r.b)))
  | 0xb => some .rett
  | 0xc => some .exit
  | 0x10 => some (.grow (BitVec.ofNat 6 r.a))
  | 0x11 => some (.shrink (BitVec.ofNat 6 r.a))
  | 0x12 => some (.setbnd (BitVec.ofNat 6 r.a))
  | 0x18 => some (.pin (BitVec.ofNat 3 r.a) (BitVec.ofNat 8 r.b))
  | 0x19 => some (.unpin (BitVec.ofNat 3 r.a))
  | 0x1a => some (.reclaim (BitVec.ofNat 8 r.a) (BitVec.ofNat 8 r.b))
  | 0x1b => some (.oapp (BitVec.ofNat 8 r.a) (BitVec.ofNat 8 r.b))
  | 0x1c => some (.odecl (BitVec.ofNat 8 r.b))
  | 0x20 => some (.fork (BitVec.ofNat 8 r.a) (BitVec.ofNat 8 r.b))
  | 0x21 => some (.rvz (BitVec.ofNat 8 r.b))
  | 0x22 => some (.wpwait (BitVec.ofNat 3 r.a) (BitVec.ofNat 8 r.b))
  | 0x28 => some (.tspawn (BitVec.ofNat 8 r.a) (BitVec.ofNat 8 r.b))
  | 0x29 => some .tdone
  | 0x30 => some (.put (BitVec.ofNat 8 r.a))
  | 0x31 => some (.wcwait (BitVec.ofNat 8 r.a) (BitVec.ofNat 8 r.b))
  | _ => none

/-- The scalar opcode map (06 R109). -/
def rawScalar (r : ScalarRaw) : Option Instr :=
  match r.op with
  | 0x1 => some (.sadd r.rd r.ra r.rb)
  | 0x2 => some (.ssub r.rd r.ra r.rb)
  | 0x3 => some (.saddi r.rd r.ra r.imm9)
  | 0x4 => some (.smul r.rd r.ra r.rb)
  | 0x5 => some (.smulh r.rd r.ra r.rb r.u)
  | 0x6 => some (.sdiv r.rd r.ra r.rb r.u)
  | 0x7 => some (.srem r.rd r.ra r.rb r.u)
  | 0x8 => some (.sand r.rd r.ra r.rb)
  | 0x9 => some (.sor r.rd r.ra r.rb)
  | 0xa => some (.sxor r.rd r.ra r.rb)
  | 0xb => some (.sshl r.rd r.ra r.rb)
  | 0xc => some (.sshr r.rd r.ra r.rb)
  | 0xd => some (.ssra r.rd r.ra r.rb)
  | 0xe => some (.smin r.rd r.ra r.rb r.u)
  | 0xf => some (.smax r.rd r.ra r.rb r.u)
  | 0x10 => some (.slui r.rd r.imm17)
  | 0x11 => some (.slea r.rd r.ra r.rb r.u)
  | 0x12 => some (.sbfe r.rd r.ra r.rb)
  | 0x13 => some (.sbfi r.rd r.ra r.rb)
  | 0x14 => some (.sclz r.rd r.ra)
  | 0x15 => some (.spopc r.rd r.ra)
  | 0x16 => some (.ssel r.rd r.ra r.rb)
  | 0x18 => some (.scmp 0 r.rd r.ra r.rb)
  | 0x19 => some (.scmp 1 r.rd r.ra r.rb)
  | 0x1a => some (.scmp 2 r.rd r.ra r.rb)
  | 0x1b => some (.scmp 3 r.rd r.ra r.rb)
  | 0x1c => some (.scmp 4 r.rd r.ra r.rb)
  | 0x1d => some (.scmp 5 r.rd r.ra r.rb)
  | 0x20 => some (.sld 0 r.rd r.ra r.imm9)
  | 0x21 => some (.sld 1 r.rd r.ra r.imm9)
  | 0x22 => some (.sld 2 r.rd r.ra r.imm9)
  | 0x23 => some (.sld 3 r.rd r.ra r.imm9)
  | 0x24 => some (.sld 4 r.rd r.ra r.imm9)
  | 0x25 => some (.sld 5 r.rd r.ra r.imm9)
  | 0x26 => some (.sld 6 r.rd r.ra r.imm9)
  | 0x28 => some (.sst 0 r.rd r.ra r.imm9)
  | 0x29 => some (.sst 1 r.rd r.ra r.imm9)
  | 0x2a => some (.sst 2 r.rd r.ra r.imm9)
  | 0x2b => some (.sst 3 r.rd r.ra r.imm9)
  | 0x2c => some (.sldc r.rd r.imm17)
  | 0x30 => some (.sbr r.off13)
  | 0x31 => some (.sbc r.cond r.reg r.off13)
  | 0x32 => some (.brl (r.cond.getLsbD 3) (r.cond.getLsbD 2) (BitVec.ofNat 3 r.reg.toNat) r.off13)
  | 0x33 => some (.scall r.reg r.off13)
  | 0x34 => some (.sloop r.reg r.off13)
  | 0x38 => some (.lrun r.count r.target)
  | 0x7F => rawSX r
  | _ => none

/-- COND [24] is U and [23] is NEG in BRL (06 R110). -/
def brlCond (u n : Bool) : BitVec 4 := BitVec.ofNat 4 (u.toNat * 8 + n.toNat * 4)

/-- The encoding of a scalar word; none for every other instruction. -/
def encodeScalar : Instr → Option Nat
  | .sadd d a b => some (encSR 0x1 d a b false)
  | .ssub d a b => some (encSR 0x2 d a b false)
  | .smul d a b => some (encSR 0x4 d a b false)
  | .sand d a b => some (encSR 0x8 d a b false)
  | .sor d a b => some (encSR 0x9 d a b false)
  | .sxor d a b => some (encSR 0xa d a b false)
  | .sshl d a b => some (encSR 0xb d a b false)
  | .sshr d a b => some (encSR 0xc d a b false)
  | .ssra d a b => some (encSR 0xd d a b false)
  | .sbfe d a b => some (encSR 0x12 d a b false)
  | .sbfi d a b => some (encSR 0x13 d a b false)
  | .ssel d a b => some (encSR 0x16 d a b false)
  | .smulh d a b u => some (encSR 0x5 d a b u)
  | .sdiv d a b u => some (encSR 0x6 d a b u)
  | .srem d a b u => some (encSR 0x7 d a b u)
  | .smin d a b u => some (encSR 0xe d a b u)
  | .smax d a b u => some (encSR 0xf d a b u)
  | .slea d a b u => some (encSR 0x11 d a b u)
  | .sclz d a => some (encSR 0x14 d a 0 false)
  | .spopc d a => some (encSR 0x15 d a 0 false)
  | .saddi d a i => some (encSI 0x3 d a i)
  | .slui d i => some (encSL 0x10 d i)
  | .scmp c d a b => some (encSR (0x18 + c.toNat) d a b false)
  | .sld t d a i => some (encSI (0x20 + t.toNat) d a i)
  | .sst t b a i => some (encSI (0x28 + t.toNat) b a i)
  | .sldc d i => some (encSL 0x2C d i)
  | .sbr o => some (encSB 0x30 0 0 o)
  | .sbc c a o => some (encSB 0x31 c a o)
  | .brl u n k o => some (encSB 0x32 (brlCond u n) (k.setWidth 8) o)
  | .scall d o => some (encSB 0x33 0 d o)
  | .sloop a o => some (encSB 0x34 0 a o)
  | .lrun count target => some (encLR 0x38 count target)
  | .sret q => some (encSX 0x1 0 q.toNat)
  | .lsync => some (encSX 0x2 0 0)
  | .waitc p q => some (encSX 0x3 p.toNat q.toNat)
  | .barw p => some (encSX 0x4 p.toNat 0)
  | .barg p => some (encSX 0x5 p.toNat 0)
  | .step n => some (encSX 0x6 (n.toNat / 2 ^ 8) (n.toNat % 2 ^ 8))
  | .phint n => some (encSX 0x7 (n.toNat / 2 ^ 8) (n.toNat % 2 ^ 8))
  | .sget p q => some (encSX 0x8 p.toNat q.toNat)
  | .sset p q => some (encSX 0x9 p.toNat q.toNat)
  | .trap n => some (encSX 0xa (n.toNat / 2 ^ 8) (n.toNat % 2 ^ 8))
  | .rett => some (encSX 0xb 0 0)
  | .exit => some (encSX 0xc 0 0)
  | .grow p => some (encSX 0x10 p.toNat 0)
  | .shrink p => some (encSX 0x11 p.toNat 0)
  | .setbnd p => some (encSX 0x12 p.toNat 0)
  | .pin p q => some (encSX 0x18 p.toNat q.toNat)
  | .unpin p => some (encSX 0x19 p.toNat 0)
  | .reclaim p q => some (encSX 0x1a p.toNat q.toNat)
  | .oapp p q => some (encSX 0x1b p.toNat q.toNat)
  | .odecl q => some (encSX 0x1c 0 q.toNat)
  | .fork p q => some (encSX 0x20 p.toNat q.toNat)
  | .rvz q => some (encSX 0x21 0 q.toNat)
  | .wpwait p q => some (encSX 0x22 p.toNat q.toNat)
  | .tspawn p q => some (encSX 0x28 p.toNat q.toNat)
  | .tdone => some (encSX 0x29 0 0)
  | .put p => some (encSX 0x30 p.toNat 0)
  | .wcwait p q => some (encSX 0x31 p.toNat q.toNat)
  | _ => none

/-- The fields of a lane word: the control field (06 R113), then the full body (R114). -/
structure LaneRaw where
  sw : Nat
  dual : Nat
  dist : Nat
  wait : Nat
  setc : Nat
  reuse : Nat
  opc : Nat
  d : Nat
  a : Nat
  b : Nat
  c : Nat
  pred : Nat
  mod : Nat
deriving DecidableEq, Repr

def laneSplit (w : Nat) : LaneRaw :=
  { sw := w / 2 ^ 95 % 2, dual := w / 2 ^ 94 % 2, dist := w / 2 ^ 90 % 2 ^ 4, wait := w / 2 ^ 78 % 2 ^ 12, setc := w / 2 ^ 74 % 2 ^ 4,
    reuse := w / 2 ^ 73 % 2, opc := w / 2 ^ 62 % 2 ^ 10, d := w / 2 ^ 54 % 2 ^ 8, a := w / 2 ^ 46 % 2 ^ 8, b := w / 2 ^ 38 % 2 ^ 8,
    c := w / 2 ^ 30 % 2 ^ 8, pred := w / 2 ^ 26 % 2 ^ 4, mod := w % 2 ^ 26 }

/-- The control field, with REUSE and DUAL. -/
def encCtl (h : LaneCtl) (dual reuse : Bool) : Nat :=
  h.sw.toNat * 2 ^ 95 + dual.toNat * 2 ^ 94 + h.dist.toNat * 2 ^ 90 + h.wait.toNat * 2 ^ 78 + h.setc.toNat * 2 ^ 74 + reuse.toNat * 2 ^ 73

/-- A full body under a control field. -/
def encFull (h : LaneCtl) (reuse : Bool) (opc d a b c mod : Nat) : Nat :=
  encCtl h false reuse + opc * 2 ^ 62 + d * 2 ^ 54 + a * 2 ^ 46 + b * 2 ^ 38 + c * 2 ^ 30 + h.pred.toNat * 2 ^ 26 + mod

/-- BSRC, the b field and IMM16 of a b operand (06 R116). -/
def BOpnd.bsrc : BOpnd → Nat
  | .v _ => 0
  | .s _ => 1
  | .imm _ => 2
def BOpnd.field : BOpnd → Nat
  | .v r => r.k.toNat
  | .s k => k.toNat
  | .imm _ => 0
def BOpnd.imm16 : BOpnd → Nat
  | .imm i => i.toNat
  | _ => 0
def BOpnd.asel : BOpnd → Bool
  | .v r => r.acc
  | _ => false

/-- The ALU modifiers (06 R116): BSRC, F, the four ASEL bits and IMM16. -/
def encAluMod (bsrc f : Nat) (sd sa sb sc : Bool) (imm : Nat) : Nat :=
  bsrc * 2 ^ 24 + f * 2 ^ 20 + sd.toNat * 2 ^ 19 + sa.toNat * 2 ^ 18 + sb.toNat * 2 ^ 17 + sc.toNat * 2 ^ 16 + imm

def encAlu1 (h : LaneCtl) (opc : Nat) (d a : VReg) (f : BitVec 4) : Nat :=
  encFull h false opc d.k.toNat a.k.toNat 0 0 (encAluMod 0 f.toNat d.acc a.acc false false 0)
def encAlu2 (h : LaneCtl) (opc : Nat) (d a : VReg) (b : BOpnd) (f : BitVec 4) : Nat :=
  encFull h false opc d.k.toNat a.k.toNat b.field 0 (encAluMod b.bsrc f.toNat d.acc a.acc b.asel false b.imm16)
def encAlu3 (h : LaneCtl) (opc : Nat) (d a : VReg) (b : BOpnd) (c : VReg) (f : BitVec 4) : Nat :=
  encFull h false opc d.k.toNat a.k.toNat b.field c.k.toNat (encAluMod b.bsrc f.toNat d.acc a.acc b.asel c.acc b.imm16)
def encCmp (h : LaneCtl) (opc : Nat) (m : BitVec 3) (a : VReg) (b : BOpnd) (f : BitVec 4) : Nat :=
  encFull h false opc m.toNat a.k.toNat b.field 0 (encAluMod b.bsrc f.toNat false a.acc b.asel false b.imm16)
/-- A word whose row has only register fields and no modifiers. -/
def encPlain (h : LaneCtl) (opc d a b c : Nat) : Nat := encFull h false opc d a b c 0
/-- The memory modifiers (06 R117). -/
def encMem (h : LaneCtl) (opc d c : Nat) (m : MemOp) : Nat :=
  encFull h false opc d m.a.toNat m.b.toNat c
    (m.ord.toNat * 2 ^ 23 + m.scope.toNat * 2 ^ 19 + m.type.toNat * 2 ^ 15 + m.voff.toNat * 2 ^ 14 + m.disp.toNat)
/-- An input field of KDEF, zero when its VIN bit is (06 R118). -/
def vinField (r : Option (BitVec 8)) : Nat := (r.map BitVec.toNat).getD 0
def encHalf (x : Half) : Nat :=
  x.op.toNat * 2 ^ 30 + x.d.toNat * 2 ^ 22 + x.a.toNat * 2 ^ 14 + x.b.toNat * 2 ^ 6 + x.bs.toNat * 2 ^ 5 + x.f.toNat

def LaneRaw.ctl (r : LaneRaw) : LaneCtl :=
  { sw := r.sw == 1, dist := BitVec.ofNat 4 r.dist, wait := BitVec.ofNat 12 r.wait, setc := BitVec.ofNat 4 r.setc, pred := BitVec.ofNat 4 r.pred }
def LaneRaw.bit (r : LaneRaw) (i : Nat) : Bool := r.mod / 2 ^ i % 2 == 1
def LaneRaw.f (r : LaneRaw) : BitVec 4 := BitVec.ofNat 4 (r.mod / 2 ^ 20)
def LaneRaw.vd (r : LaneRaw) : VReg := { acc := r.bit 19, k := BitVec.ofNat 8 r.d }
def LaneRaw.va (r : LaneRaw) : VReg := { acc := r.bit 18, k := BitVec.ofNat 8 r.a }
def LaneRaw.vb (r : LaneRaw) : VReg := { acc := r.bit 17, k := BitVec.ofNat 8 r.b }
def LaneRaw.vc (r : LaneRaw) : VReg := { acc := r.bit 16, k := BitVec.ofNat 8 r.c }
def LaneRaw.bop (r : LaneRaw) : BOpnd :=
  match r.mod / 2 ^ 24 with
  | 0 => .v r.vb
  | 1 => .s (BitVec.ofNat 8 r.b)
  | _ => .imm (BitVec.ofNat 16 r.mod)
def LaneRaw.mem (r : LaneRaw) : MemOp :=
  { ord := BitVec.ofNat 3 (r.mod / 2 ^ 23), scope := BitVec.ofNat 4 (r.mod / 2 ^ 19), type := BitVec.ofNat 4 (r.mod / 2 ^ 15),
    voff := r.bit 14, disp := BitVec.ofNat 14 r.mod, a := BitVec.ofNat 8 r.a, b := BitVec.ofNat 8 r.b }
def LaneRaw.vin (r : LaneRaw) (i field : Nat) : Option (BitVec 8) := if r.bit (19 + i) then some (BitVec.ofNat 8 field) else none
def halfSplit (w : Nat) : Half :=
  { op := BitVec.ofNat 6 (w / 2 ^ 30), d := BitVec.ofNat 8 (w / 2 ^ 22), a := BitVec.ofNat 8 (w / 2 ^ 14), b := BitVec.ofNat 8 (w / 2 ^ 6),
    bs := w / 2 ^ 5 % 2 == 1, f := BitVec.ofNat 5 w }

/-- The full-form lane opcode map (06 R119). -/
def rawFull (r : LaneRaw) : Option Instr :=
  match r.opc with
  | 0x1 => some (.iadd r.ctl r.vd r.va r.bop r.f)
  | 0x2 => some (.isub r.ctl r.vd r.va r.bop r.f)
  | 0x3 => some (.iadd3 r.ctl r.vd r.va r.bop r.vc r.f)
  | 0x4 => some (.imul r.ctl r.vd r.va r.bop r.f)
  | 0x5 => some (.imulh r.ctl r.vd r.va r.bop r.f)
  | 0x6 => some (.imad r.ctl r.vd r.va r.bop r.vc r.f)
  | 0x7 => some (.iwadd r.ctl r.vd r.va r.bop r.f)
  | 0x8 => some (.idp4 r.ctl r.vd r.va r.bop r.vc r.f)
  | 0x9 => some (.imin r.ctl r.vd r.va r.bop r.f)
  | 0xa => some (.imax r.ctl r.vd r.va r.bop r.f)
  | 0xb => some (.iabs r.ctl r.vd r.va r.f)
  | 0xc => some (.iand r.ctl r.vd r.va r.bop r.f)
  | 0xd => some (.ior r.ctl r.vd r.va r.bop r.f)
  | 0xe => some (.ixor r.ctl r.vd r.va r.bop r.f)
  | 0xf => some (.inot r.ctl r.vd r.va r.f)
  | 0x10 => some (.ishl r.ctl r.vd r.va r.bop r.f)
  | 0x11 => some (.ishr r.ctl r.vd r.va r.bop r.f)
  | 0x12 => some (.isra r.ctl r.vd r.va r.bop r.f)
  | 0x13 => some (.ibfe r.ctl r.vd r.va r.bop r.f)
  | 0x14 => some (.ibfi r.ctl r.vd r.va r.bop r.vc r.f)
  | 0x15 => some (.ipopc r.ctl r.vd r.va r.f)
  | 0x16 => some (.iclz r.ctl r.vd r.va r.f)
  | 0x17 => some (.icmp r.ctl (BitVec.ofNat 3 r.d) r.va r.bop r.f)
  | 0x18 => some (.isel r.ctl r.vd r.va r.bop (BitVec.ofNat 3 r.c) r.f)
  | 0x40 => some (.fadd r.ctl r.vd r.va r.bop r.f)
  | 0x41 => some (.fsub r.ctl r.vd r.va r.bop r.f)
  | 0x42 => some (.fmul r.ctl r.vd r.va r.bop r.f)
  | 0x43 => some (.ffma r.ctl r.vd r.va r.bop r.vc r.f)
  | 0x44 => some (.fmin r.ctl r.vd r.va r.bop r.f)
  | 0x45 => some (.fmax r.ctl r.vd r.va r.bop r.f)
  | 0x46 => some (.fcmp r.ctl (BitVec.ofNat 3 r.d) r.va r.bop r.f)
  | 0x47 => some (.fclass r.ctl r.vd r.va r.f)
  | 0x48 => some (.fscale r.ctl r.vd r.va r.bop r.f)
  | 0x49 => some (.frnd r.ctl r.vd r.va r.f)
  | 0x80 => some (.hadd2 r.ctl r.vd r.va r.bop r.f)
  | 0x81 => some (.hmul2 r.ctl r.vd r.va r.bop r.f)
  | 0x82 => some (.hfma2 r.ctl r.vd r.va r.bop r.vc r.f)
  | 0x83 => some (.badd2 r.ctl r.vd r.va r.bop r.f)
  | 0x84 => some (.bmul2 r.ctl r.vd r.va r.bop r.f)
  | 0x85 => some (.bfma2 r.ctl r.vd r.va r.bop r.vc r.f)
  | 0xa0 => some (.cvt r.ctl r.vd r.va r.f)
  | 0xa1 => some (.cvtef r.ctl r.vd r.va r.f)
  | 0xa2 => some (.pack r.ctl r.vd r.va r.bop r.f)
  | 0xa3 => some (.unpack r.ctl r.vd r.va r.f)
  | 0xa4 => some (.cbdec r.ctl r.vd r.va r.vb r.f)
  | 0xa5 => some (.cbenc r.ctl r.vd r.va r.vb r.f)
  | 0xc0 => some (.vmov r.ctl r.vd r.va r.f)
  | 0xc1 => some (.vmovi r.ctl (BitVec.ofNat 8 r.d) (BitVec.ofNat 32 (r.a * 2 ^ 24 + r.b * 2 ^ 16 + r.c * 2 ^ 8 + r.mod / 2 ^ 18)))
  | 0xc2 => some (.laneid r.ctl r.vd r.f)
  | 0xc3 => some (.mand r.ctl (BitVec.ofNat 3 r.d) (BitVec.ofNat 3 r.a) (BitVec.ofNat 3 r.b))
  | 0xc4 => some (.mor r.ctl (BitVec.ofNat 3 r.d) (BitVec.ofNat 3 r.a) (BitVec.ofNat 3 r.b))
  | 0xc5 => some (.mnot r.ctl (BitVec.ofNat 3 r.d) (BitVec.ofNat 3 r.a))
  | 0xc6 => some (.mget r.ctl (BitVec.ofNat 8 r.d) (BitVec.ofNat 3 r.a))
  | 0xc7 => some (.mset r.ctl (BitVec.ofNat 3 r.d) (BitVec.ofNat 8 r.a))
  | 0x100 => some (.vote r.ctl (BitVec.ofNat 8 r.d) r.va r.f)
  | 0x101 => some (.shfl r.ctl r.vd r.va r.bop r.f)
  | 0x102 => some (.scan r.ctl r.vd r.va r.f (BitVec.ofNat 2 (r.mod / 2 ^ 14)) (r.bit 13))
  | 0x103 => some (.red r.ctl r.vd r.va r.f (BitVec.ofNat 2 (r.mod / 2 ^ 14)))
  | 0x104 => some (.vtos r.ctl (BitVec.ofNat 8 r.d) r.va r.bop (r.bit 21) (r.bit 20))
  | 0x105 => some (.stov r.ctl r.vd (BitVec.ofNat 8 r.a) (r.bit 20))
  | 0x106 => some (.wsr r.ctl r.vd (BitVec.ofNat 4 r.a))
  | 0x107 => some (.wsw r.ctl (BitVec.ofNat 4 r.d) r.va)
  | 0x110 => some (.frcp r.ctl r.vd r.va)
  | 0x111 => some (.frsq r.ctl r.vd r.va)
  | 0x112 => some (.fsqrt r.ctl r.vd r.va)
  | 0x113 => some (.fexp2 r.ctl r.vd r.va)
  | 0x114 => some (.flog2 r.ctl r.vd r.va)
  | 0x115 => some (.fsin r.ctl r.vd r.va)
  | 0x116 => some (.fcos r.ctl r.vd r.va)
  | 0x117 => some (.ftanh r.ctl r.vd r.va)
  | 0x140 => some (.kdef r.ctl (BitVec.ofNat 8 r.d) (r.vin 0 r.a) (r.vin 1 r.b) (r.vin 2 r.c) (BitVec.ofNat 4 (r.mod / 2 ^ 22)) (BitVec.ofNat 19 r.mod))
  | 0x141 => some (.ldk r.ctl (BitVec.ofNat 8 r.d) r.mem)
  | 0x142 => some (.douse r.ctl (BitVec.ofNat 8 r.d))
  | 0x180 => some (.ld r.ctl (BitVec.ofNat 8 r.d) r.mem)
  | 0x181 => some (.st r.ctl (BitVec.ofNat 8 r.c) r.mem)
  | 0x182 => some (.lds r.ctl (BitVec.ofNat 8 r.d) r.mem)
  | 0x183 => some (.sts r.ctl (BitVec.ofNat 8 r.c) r.mem)
  | 0x184 => some (.ldt r.ctl (BitVec.ofNat 8 r.d) r.mem)
  | 0x185 => some (.atom r.ctl (BitVec.ofNat 8 r.d) (BitVec.ofNat 8 r.c) r.mem)
  | 0x186 => some (.atoms r.ctl (BitVec.ofNat 8 r.d) (BitVec.ofNat 8 r.c) r.mem)
  | 0x187 => some (.fence r.ctl r.mem.ord r.mem.scope)
  | 0x188 => some (.pref r.ctl r.mem)
  | 0x1c0 => some (.mmq r.ctl (r.reuse == 1) (BitVec.ofNat 8 r.d) (BitVec.ofNat 8 r.a) (BitVec.ofNat 8 r.b) (BitVec.ofNat 8 r.c))
  | 0x1c1 => some (.mdrain r.ctl (BitVec.ofNat 8 r.d) (BitVec.ofNat 8 r.a))
  | 0x1c2 => some (.mzero r.ctl (BitVec.ofNat 8 r.d))
  | 0x1c3 => some (.mwait r.ctl)
  | _ => none

/-- A dual word (06 R120): X in [71:36], Y in [35:0]; no PRED field. -/
def rawDual (w : Nat) : Instr :=
  .dualWord { (laneSplit w).ctl with pred := 0 } (halfSplit (w / 2 ^ 36 % 2 ^ 36)) (halfSplit (w % 2 ^ 36))

/-- The instruction whose fields a lane word holds, before any check. -/
def rawLane (w : Nat) : Option Instr :=
  if (laneSplit w).dual = 1 then some (rawDual w) else rawFull (laneSplit w)

/-- The encoding of a lane word; none for every other instruction. -/
def encodeLane : Instr → Option Nat
  | .iadd h d a b f => some (encAlu2 h 0x1 d a b f)
  | .isub h d a b f => some (encAlu2 h 0x2 d a b f)
  | .imul h d a b f => some (encAlu2 h 0x4 d a b f)
  | .imulh h d a b f => some (encAlu2 h 0x5 d a b f)
  | .iwadd h d a b f => some (encAlu2 h 0x7 d a b f)
  | .imin h d a b f => some (encAlu2 h 0x9 d a b f)
  | .imax h d a b f => some (encAlu2 h 0xa d a b f)
  | .iand h d a b f => some (encAlu2 h 0xc d a b f)
  | .ior h d a b f => some (encAlu2 h 0xd d a b f)
  | .ixor h d a b f => some (encAlu2 h 0xe d a b f)
  | .ishl h d a b f => some (encAlu2 h 0x10 d a b f)
  | .ishr h d a b f => some (encAlu2 h 0x11 d a b f)
  | .isra h d a b f => some (encAlu2 h 0x12 d a b f)
  | .ibfe h d a b f => some (encAlu2 h 0x13 d a b f)
  | .fadd h d a b f => some (encAlu2 h 0x40 d a b f)
  | .fsub h d a b f => some (encAlu2 h 0x41 d a b f)
  | .fmul h d a b f => some (encAlu2 h 0x42 d a b f)
  | .fmin h d a b f => some (encAlu2 h 0x44 d a b f)
  | .fmax h d a b f => some (encAlu2 h 0x45 d a b f)
  | .fscale h d a b f => some (encAlu2 h 0x48 d a b f)
  | .hadd2 h d a b f => some (encAlu2 h 0x80 d a b f)
  | .hmul2 h d a b f => some (encAlu2 h 0x81 d a b f)
  | .badd2 h d a b f => some (encAlu2 h 0x83 d a b f)
  | .bmul2 h d a b f => some (encAlu2 h 0x84 d a b f)
  | .pack h d a b f => some (encAlu2 h 0xa2 d a b f)
  | .shfl h d a b f => some (encAlu2 h 0x101 d a b f)
  | .iadd3 h d a b c f => some (encAlu3 h 0x3 d a b c f)
  | .imad h d a b c f => some (encAlu3 h 0x6 d a b c f)
  | .idp4 h d a b c f => some (encAlu3 h 0x8 d a b c f)
  | .ibfi h d a b c f => some (encAlu3 h 0x14 d a b c f)
  | .ffma h d a b c f => some (encAlu3 h 0x43 d a b c f)
  | .hfma2 h d a b c f => some (encAlu3 h 0x82 d a b c f)
  | .bfma2 h d a b c f => some (encAlu3 h 0x85 d a b c f)
  | .iabs h d a f => some (encAlu1 h 0xb d a f)
  | .inot h d a f => some (encAlu1 h 0xf d a f)
  | .ipopc h d a f => some (encAlu1 h 0x15 d a f)
  | .iclz h d a f => some (encAlu1 h 0x16 d a f)
  | .fclass h d a f => some (encAlu1 h 0x47 d a f)
  | .frnd h d a f => some (encAlu1 h 0x49 d a f)
  | .cvt h d a f => some (encAlu1 h 0xa0 d a f)
  | .cvtef h d a f => some (encAlu1 h 0xa1 d a f)
  | .unpack h d a f => some (encAlu1 h 0xa3 d a f)
  | .vmov h d a f => some (encAlu1 h 0xc0 d a f)
  | .frcp h d a => some (encAlu1 h 0x110 d a 0)
  | .frsq h d a => some (encAlu1 h 0x111 d a 0)
  | .fsqrt h d a => some (encAlu1 h 0x112 d a 0)
  | .fexp2 h d a => some (encAlu1 h 0x113 d a 0)
  | .flog2 h d a => some (encAlu1 h 0x114 d a 0)
  | .fsin h d a => some (encAlu1 h 0x115 d a 0)
  | .fcos h d a => some (encAlu1 h 0x116 d a 0)
  | .ftanh h d a => some (encAlu1 h 0x117 d a 0)
  | .icmp h m a b f => some (encCmp h 0x17 m a b f)
  | .fcmp h m a b f => some (encCmp h 0x46 m a b f)
  | .cbdec h d a b f => some (encAlu2 h 0xa4 d a (.v b) f)
  | .cbenc h d a b f => some (encAlu2 h 0xa5 d a (.v b) f)
  | .ld h d m => some (encMem h 0x180 d.toNat 0 m)
  | .lds h d m => some (encMem h 0x182 d.toNat 0 m)
  | .ldt h d m => some (encMem h 0x184 d.toNat 0 m)
  | .ldk h d m => some (encMem h 0x141 d.toNat 0 m)
  | .st h c m => some (encMem h 0x181 0 c.toNat m)
  | .sts h c m => some (encMem h 0x183 0 c.toNat m)
  | .atom h d c m => some (encMem h 0x185 d.toNat c.toNat m)
  | .atoms h d c m => some (encMem h 0x186 d.toNat c.toNat m)
  | .isel h d a b m f => some (encFull h false 0x18 d.k.toNat a.k.toNat b.field m.toNat (encAluMod b.bsrc f.toNat d.acc a.acc b.asel false b.imm16))
  | .vmovi h d i => some (encFull h false 0xC1 d.toNat (i.toNat / 2 ^ 24) (i.toNat / 2 ^ 16 % 2 ^ 8) (i.toNat / 2 ^ 8 % 2 ^ 8) (i.toNat % 2 ^ 8 * 2 ^ 18))
  | .laneid h d f => some (encFull h false 0xC2 d.k.toNat 0 0 0 (encAluMod 0 f.toNat d.acc false false false 0))
  | .mand h d a b => some (encPlain h 0xC3 d.toNat a.toNat b.toNat 0)
  | .mor h d a b => some (encPlain h 0xC4 d.toNat a.toNat b.toNat 0)
  | .mnot h d a => some (encPlain h 0xC5 d.toNat a.toNat 0 0)
  | .mget h d a => some (encPlain h 0xC6 d.toNat a.toNat 0 0)
  | .mset h d a => some (encPlain h 0xC7 d.toNat a.toNat 0 0)
  | .vote h d a f => some (encFull h false 0x100 d.toNat a.k.toNat 0 0 (encAluMod 0 f.toNat false a.acc false false 0))
  | .scan h d a f ty excl => some (encFull h false 0x102 d.k.toNat a.k.toNat 0 0 (encAluMod 0 f.toNat d.acc a.acc false false (ty.toNat * 2 ^ 14 + excl.toNat * 2 ^ 13)))
  | .red h d a f ty => some (encFull h false 0x103 d.k.toNat a.k.toNat 0 0 (encAluMod 0 f.toNat d.acc a.acc false false (ty.toNat * 2 ^ 14)))
  | .vtos h d a b first sx => some (encFull h false 0x104 d.toNat a.k.toNat b.field 0 (encAluMod b.bsrc (first.toNat * 2 + sx.toNat) false a.acc b.asel false b.imm16))
  | .stov h d a hi => some (encFull h false 0x105 d.k.toNat a.toNat 0 0 (encAluMod 0 hi.toNat d.acc false false false 0))
  | .wsr h d k => some (encFull h false 0x106 d.k.toNat k.toNat 0 0 (encAluMod 0 0 d.acc false false false 0))
  | .wsw h k a => some (encFull h false 0x107 k.toNat a.k.toNat 0 0 (encAluMod 0 0 false a.acc false false 0))
  | .kdef h d a b c len slice => some (encFull h false 0x140 d.toNat (vinField a) (vinField b) (vinField c)
      (len.toNat * 2 ^ 22 + c.isSome.toNat * 2 ^ 21 + b.isSome.toNat * 2 ^ 20 + a.isSome.toNat * 2 ^ 19 + slice.toNat))
  | .douse h d => some (encPlain h 0x142 d.toNat 0 0 0)
  | .fence h ord scope => some (encFull h false 0x187 0 0 0 0 (ord.toNat * 2 ^ 23 + scope.toNat * 2 ^ 19))
  | .pref h m => some (encMem h 0x188 0 0 m)
  | .mmq h reuse d a sb sc => some (encFull h reuse 0x1C0 d.toNat a.toNat sb.toNat sc.toNat 0)
  | .mdrain h d sk => some (encPlain h 0x1C1 d.toNat sk.toNat 0 0)
  | .mzero h d => some (encPlain h 0x1C2 d.toNat 0 0 0)
  | .mwait h => some (encPlain h 0x1C3 0 0 0 0)
  | .dualWord h x y => some (encCtl h true false + encHalf x * 2 ^ 36 + encHalf y)
  | _ => none

/-- A word of one of the two streams, or no word: the module's own steps have none. -/
inductive Encoding where
  | scalar (w : Nat)
  | lane (w : Nat)
  | none
deriving DecidableEq, Repr

def encode (i : Instr) : Encoding :=
  match encodeScalar i with
  | some w => .scalar w
  | .none => match encodeLane i with
    | some w => .lane w
    | .none => .none

/-- The instruction a 32-bit scalar word holds; none is an ILLEGAL word (06 R124). -/
def decodeScalar (w : Nat) : Option Instr :=
  match rawScalar (scalarSplit w) with
  | some i => if i.wf && encodeScalar i == some w then some i else none
  | none => none

/-- The instruction a 96-bit lane word holds; none is an ILLEGAL word (06 R124). -/
def decodeLane (w : Nat) : Option Instr :=
  match rawLane w with
  | some i => if i.wf && encodeLane i == some w then some i else none
  | none => none

/-- Little-endian bytes as a number (00 R2). -/
def leNat : List Byte → Nat
  | [] => 0
  | b :: bs => b.toNat + 2 ^ 8 * leNat bs

/-- The low `n` bytes of a number, least significant first. -/
def leBytes : Nat → Nat → List Byte
  | 0, _ => []
  | n + 1, x => BitVec.ofNat 8 x :: leBytes n (x / 2 ^ 8)

def decodeScalarBytes (bs : List Byte) : Option Instr := if bs.length = 4 then decodeScalar (leNat bs) else none
def decodeLaneBytes (bs : List Byte) : Option Instr := if bs.length = 12 then decodeLane (leNat bs) else none

/-- The word of the opcode table, laid out as the streams store it (06 R105): up to 32 bits are a scalar word, more a lane word. -/
def decodeTableWord (nbits w : Nat) : Option Instr :=
  if nbits ≤ 32 then decodeScalarBytes (leBytes 4 (w % 2 ^ nbits)) else decodeLaneBytes (leBytes 12 (w % 2 ^ nbits))

end Sys2Proof
end

