-- ==== Sys2Proof/Machine/Bits.lean ====
section
/-!
DEFINITION. The helper functions of the spec's pseudo-code (00_scope.md R7) on naturals and bit vectors, lane masks, and bytes.
-/
namespace Sys2Proof.Machine

/-- Bits(x, hi, lo) of 00 R7. -/
def bits (x hi lo : Nat) : Nat := x / 2 ^ lo % 2 ^ (hi + 1 - lo)

/-- Sat(x, lo, hi) of 00 R7. -/
def sat (x lo hi : Int) : Int := if x < lo then lo else if hi < x then hi else x

/-- The low bits of an integer, wrapping (10 R199 Wrap, 08 R147). -/
def wrap (n : Nat) (x : Int) : BitVec n := BitVec.ofInt n x

/-- Sext of the low `k` bits of `x`, as an integer. -/
def sgn (k x : Nat) : Int := if 2 ^ (k - 1) ≤ x % 2 ^ k then (x % 2 ^ k : Int) - 2 ^ k else (x % 2 ^ k : Int)

def popCount {n : Nat} (x : BitVec n) : Nat := (List.range n).countP fun i => x.getLsbD i

/-- Leading zero bits, n for zero. -/
def leadZeros {n : Nat} (x : BitVec n) : Nat := if x = 0 then n else n - 1 - x.toNat.log2

/-- The number of trailing ones is not needed by the spec; the lowest set lane of a mask is (11 R235, R238). -/
def lowestLane (m : W32) : Option Nat := (List.range 32).find? fun l => m.getLsbD l

def laneList (m : W32) : List Nat := (List.range 32).filter fun l => m.getLsbD l

/-- A mask built lane by lane. -/
def maskOf (f : Nat → Bool) : W32 := (List.range 32).foldl (fun m l => if f l then m ||| BitVec.ofNat 32 (2 ^ l) else m) 0

/-- Lane `l` of a register, 0 past the last lane. -/
def laneGet (v : LaneVec) (l : Nat) : W32 := v.getD l 0

/-- A register that takes `f l` in the lanes of `on` and keeps `old` in the others. -/
def laneMerge (on : W32) (old : LaneVec) (f : Nat → W32) : LaneVec :=
  Vector.ofFn fun i => if on.getLsbD i.val then f i.val else old[i]

def zeroVec : LaneVec := Vector.replicate 32 0

/-- The 32-bit low and high halves of a 64-bit value. -/
def lo32 (x : W64) : W32 := x.setWidth 32
def hi32 (x : W64) : W32 := (x >>> 32).setWidth 32
def join64 (lo hi : W32) : W64 := hi.setWidth 64 <<< 32 ||| lo.setWidth 64

/-- Whether [a, a+n) and [b, b+m) share a byte. -/
def overlaps (a n b m : Nat) : Bool := a < b + m && b < a + n && 0 < n && 0 < m

end Sys2Proof.Machine
end

