-- ==== Sys2Proof/Machine/AluInt.lean ====
section
/-!
DEFINITION. What one lane computes in the integer words (10 R202-R209), the pack and IWADD elements, and the combining operations of SCAN, RED
(11 R232) and the atomics (13 R289). Lane instructions, dual halves and kindling slices share these.
-/
namespace Sys2Proof.Machine

/-- Sg of 10 R199. -/
def sg (x : W32) : Int := x.toInt
/-- Zext of an element, as an integer. -/
def ug {n : Nat} (x : BitVec n) : Int := x.toNat
/-- SatS and SatU of 10 R199. -/
def satS (x : Int) : W32 := wrap 32 (sat x (-2 ^ 31) (2 ^ 31 - 1))
def satU (x : Int) : W32 := wrap 32 (sat x 0 (2 ^ 32 - 1))

/-- F = 0 wraps the unsigned result, F = 1 (.sat) saturates the signed one, F = 2 (.usat) the unsigned one (10 R202). -/
def narrow (f : BitVec 4) (u s : Int) : W32 :=
  match f.toNat with
  | 0 => wrap 32 u
  | 1 => satS s
  | _ => satU u

def aluAdd (f : BitVec 4) (a b : W32) : W32 := narrow f (ug a + ug b) (sg a + sg b)
def aluSub (f : BitVec 4) (a b : W32) : W32 := narrow f (ug a - ug b) (sg a - sg b)
def aluAdd3 (f : BitVec 4) (a b c : W32) : W32 := narrow f (ug a + ug b + ug c) (sg a + sg b + sg c)
def aluMad (f : BitVec 4) (a b c : W32) : W32 := narrow f (ug a * ug b + ug c) (sg a * sg b + sg c)
def aluMul (a b : W32) : W32 := wrap 32 (ug a * ug b)
def aluMulh (f : BitVec 4) (a b : W32) : W32 := wrap 32 ((if f = 0 then sg a * sg b else ug a * ug b) / 2 ^ 32)
def aluAbs (f : BitVec 4) (a : W32) : W32 := if f = 0 then wrap 32 (sg a).natAbs else satS (sg a).natAbs

/-- Element `j` of `n` bits (09 R176). -/
def elem (n : Nat) (x : W32) (j : Nat) : Nat := bits x.toNat (n * j + n - 1) (n * j)

/-- IWADD (10 R203): F [3:2] the type, F [1:0] the element. -/
def aluWadd (f : BitVec 4) (a b : W32) : W32 :=
  let j := f.toNat % 4
  let w : Int := match f.toNat / 4 with
    | 0 => elem 16 b j
    | 1 => sgn 16 (elem 16 b j)
    | 2 => elem 8 b j
    | _ => sgn 8 (elem 8 b j)
  wrap 32 (ug a + w)

/-- IDP4 (10 R204). -/
def aluDp4 (f : BitVec 4) (a b c : W32) : W32 :=
  let x (j : Nat) : Int := if f.getLsbD 0 then sgn 8 (elem 8 a j) else elem 8 a j
  let y (j : Nat) : Int := if f.getLsbD 1 then sgn 8 (elem 8 b j) else elem 8 b j
  let dot := x 0 * y 0 + x 1 * y 1 + x 2 * y 2 + x 3 * y 3
  if f.getLsbD 2 then satS (sg c + dot) else wrap 32 (ug c + dot)

def aluMin (f : BitVec 4) (a b : W32) : W32 := if f = 0 then (if sg b < sg a then b else a) else (if b < a then b else a)
def aluMax (f : BitVec 4) (a b : W32) : W32 := if f = 0 then (if sg a < sg b then b else a) else (if a < b then b else a)

/-- The shift count (10 R206): the low five bits, or with .clamp at most 32. -/
def shiftCount (f : BitVec 4) (b : W32) : Nat := if f = 0 then b.toNat % 32 else min b.toNat 32
def aluShl (f : BitVec 4) (a b : W32) : W32 := a <<< shiftCount f b
def aluShr (f : BitVec 4) (a b : W32) : W32 := a >>> shiftCount f b
def aluSra (f : BitVec 4) (a b : W32) : W32 := a.sshiftRight (shiftCount f b)

/-- IBFE and IBFI (10 R207). -/
def fieldPos (b : W32) : Nat := bits b.toNat 4 0
def fieldLen (b : W32) : Nat := min (bits b.toNat 13 8) 32
def aluBfe (f : BitVec 4) (a b : W32) : W32 :=
  let len := fieldLen b
  let x := a.toNat / 2 ^ fieldPos b % 2 ^ len
  if len = 0 then 0 else if f = 0 then BitVec.ofNat 32 x else wrap 32 (sgn len x)
def aluBfi (a b c : W32) : W32 :=
  let m : W32 := BitVec.ofNat 32 ((2 ^ fieldLen b - 1) * 2 ^ fieldPos b)
  (c &&& ~~~m) ||| (a <<< fieldPos b &&& m)

def aluPopc (a : W32) : W32 := BitVec.ofNat 32 (popCount a)
def aluClz (a : W32) : W32 := BitVec.ofNat 32 (leadZeros a)

/-- The ICMP conditions (10 R208); the SCMP conditions of 08 R154 are the same over 64 bits. -/
def intCond {n : Nat} (c : Nat) (a b : BitVec n) : Bool :=
  match c with
  | 0 => a == b
  | 1 => a != b
  | 2 => a.slt b
  | 3 => !a.slt b
  | 4 => a.ult b
  | _ => !a.ult b

/-- Elements joined in ascending position (09 R176). -/
def packElems (n : Nat) (xs : List Nat) : W32 := BitVec.ofNat 32 (xs.foldr (fun x r => x % 2 ^ n + 2 ^ n * r) 0)

/-- The integer forms of PACK (10 R217): source elements of `2n` bits, from A and then from B, saturated to `n` bits. -/
def packInt (n : Nat) (signed : Bool) (a b : W32) : W32 :=
  let src := 2 * n
  let conv (x : Nat) : Nat :=
    if signed then (wrap n (sat (sgn src x) (-2 ^ (n - 1)) (2 ^ (n - 1) - 1))).toNat else (sat (x : Int) 0 (2 ^ n - 1)).toNat
  let es (x : W32) := (List.range (32 / src)).map fun j => conv (elem src x j)
  packElems n (es a ++ es b)

end Sys2Proof.Machine
end

