-- ==== Sys2Proof/Machine/Float.lean ====
section
/-!
DEFINITION. Number formats and arithmetic (09): values are exact dyadic numbers, every operation computes exactly and rounds once (R180, R181),
NaNs follow R187-R190. Encodings are naturals.
-/
namespace Sys2Proof.Machine

/-- A floating-point format (09 R175): exponent bits, fraction bits, bias; E4M3 has no infinity. -/
structure Fmt where
  eb   : Nat
  fb   : Nat
  bias : Nat
  e4m3 : Bool
deriving DecidableEq, Repr

def fp32 : Fmt := { eb := 8, fb := 23, bias := 127, e4m3 := false }
def fp16 : Fmt := { eb := 5, fb := 10, bias := 15, e4m3 := false }
def bf16 : Fmt := { eb := 8, fb := 7, bias := 127, e4m3 := false }
def e5m2 : Fmt := { eb := 5, fb := 2, bias := 15, e4m3 := false }
def e4m3 : Fmt := { eb := 4, fb := 3, bias := 7, e4m3 := true }

def Fmt.width (f : Fmt) : Nat := 1 + f.eb + f.fb
def Fmt.signBit (f : Fmt) (neg : Bool) : Nat := if neg then 2 ^ (f.eb + f.fb) else 0
def Fmt.maxE (f : Fmt) : Nat := 2 ^ f.eb - 1
def Fmt.inf (f : Fmt) (neg : Bool) : Nat := f.signBit neg + f.maxE * 2 ^ f.fb
/-- The default NaN (09 R187). -/
def Fmt.nan (f : Fmt) : Nat := if f.e4m3 then 0x7F else f.maxE * 2 ^ f.fb + 2 ^ (f.fb - 1)
/-- The largest finite value (09 R175). -/
def Fmt.maxFin (f : Fmt) (neg : Bool) : Nat := f.signBit neg + (if f.e4m3 then 0x7E else f.maxE * 2 ^ f.fb - 1)

/-- An exact dyadic number m * 2^e. -/
structure Dy where
  m : Int
  e : Int
deriving DecidableEq, Repr

def Dy.zero : Dy := { m := 0, e := 0 }
def Dy.add (a b : Dy) : Dy :=
  let e := min a.e b.e
  { m := a.m * 2 ^ (a.e - e).toNat + b.m * 2 ^ (b.e - e).toNat, e := e }
def Dy.neg (a : Dy) : Dy := { a with m := -a.m }
def Dy.sub (a b : Dy) : Dy := a.add b.neg
def Dy.mul (a b : Dy) : Dy := { m := a.m * b.m, e := a.e + b.e }
def Dy.scale (a : Dy) (k : Int) : Dy := { a with e := a.e + k }
def Dy.lt (a b : Dy) : Bool := (a.sub b).m < 0
def Dy.abs (a : Dy) : Dy := { a with m := a.m.natAbs }
def Dy.ofInt (x : Int) : Dy := { m := x, e := 0 }
/-- The greatest integer not above. -/
def Dy.floor (a : Dy) : Int := if 0 ≤ a.e then a.m * 2 ^ a.e.toNat else a.m / 2 ^ (-a.e).toNat

/-- What an encoding stands for (09 R175): a NaN with its sign and fraction, an infinity, or a finite value with the sign kept for zeros. -/
inductive FVal where
  | nan (neg : Bool) (frac : Nat)
  | inf (neg : Bool)
  | fin (neg : Bool) (m : Nat) (e : Int)
deriving DecidableEq, Repr

def Fmt.read (f : Fmt) (x : Nat) : FVal :=
  let neg := x / 2 ^ (f.eb + f.fb) % 2 == 1
  let E := x / 2 ^ f.fb % 2 ^ f.eb
  let F := x % 2 ^ f.fb
  if E = f.maxE ∧ (f.e4m3 → F = 2 ^ f.fb - 1) then
    if F = 0 then .inf neg else .nan neg F
  else if E = 0 then .fin neg F (1 - (f.bias : Int) - f.fb)
  else .fin neg (2 ^ f.fb + F) ((E : Int) - f.bias - f.fb)

def FVal.isNan : FVal → Bool
  | .nan _ _ => true
  | _ => false
def FVal.isInf : FVal → Bool
  | .inf _ => true
  | _ => false
def FVal.neg : FVal → Bool
  | .nan n _ => n
  | .inf n => n
  | .fin n _ _ => n
/-- The exact value of a finite encoding; 0 for the others. -/
def FVal.dy : FVal → Dy
  | .fin n m e => { m := if n then -(m : Int) else m, e := e }
  | _ => Dy.zero

/-- The rounding modes of 09 R180. -/
inductive RM where
  | rne | rz | rdn | rup
deriving DecidableEq, Repr

def rmOf (x : Nat) : RM :=
  match x % 4 with
  | 0 => .rne
  | 1 => .rz
  | 2 => .rdn
  | _ => .rup

/-- Whether a truncated magnitude `n` with remainder `r` of `2^s` is rounded up in magnitude. -/
def roundsUp (rm : RM) (neg : Bool) (n r s : Nat) : Bool :=
  match rm with
  | .rne => if 2 * r = 2 ^ s then n % 2 == 1 else 2 ^ s < 2 * r
  | .rz => false
  | .rdn => neg && r != 0
  | .rup => !neg && r != 0

/-- The encoding of a magnitude past the largest finite value (09 R181). -/
def Fmt.overflow (f : Fmt) (rm : RM) (neg : Bool) : Nat :=
  if f.e4m3 then f.maxFin neg
  else match rm with
    | .rne => f.inf neg
    | .rz => f.maxFin neg
    | .rdn => if neg then f.inf neg else f.maxFin neg
    | .rup => if neg then f.maxFin neg else f.inf neg

/-- Rounding of the exact m * 2^e, m > 0, with a sign (09 R181): the grid is that of the value's binade, no finer than the subnormal grid. -/
def Fmt.roundMag (f : Fmt) (rm : RM) (neg : Bool) (m : Nat) (e : Int) : Nat :=
  let top : Int := e + m.log2
  let q : Int := max top (1 - (f.bias : Int)) - f.fb
  let s : Nat := (q - e).toNat
  let n0 := if q ≤ e then m * 2 ^ (e - q).toNat else m / 2 ^ s
  let n := if q ≤ e then n0 else if roundsUp rm neg n0 (m % 2 ^ s) s then n0 + 1 else n0
  let E : Int := q + f.fb + f.bias
  -- the encoding rises with the magnitude, so a carry out of the fraction raises the exponent field by itself
  let code : Int := if n < 2 ^ f.fb then n else (E - 1) * 2 ^ f.fb + n
  let last : Int := if f.e4m3 then 0x7E else (f.maxE : Int) * 2 ^ f.fb - 1
  if last < code then f.overflow rm neg else f.signBit neg + code.toNat

/-- Rounding of an exact value; `zneg` is the sign of an exact zero. -/
def Fmt.round (f : Fmt) (rm : RM) (zneg : Bool) (x : Dy) : Nat :=
  if x.m = 0 then f.signBit zneg else f.roundMag rm (x.m < 0) x.m.natAbs x.e

/-- A NaN operand made quiet (09 R188). -/
def Fmt.quiet (f : Fmt) (x : Nat) : Nat :=
  if f.e4m3 then x % 2 ^ f.width else if x / 2 ^ (f.fb - 1) % 2 = 1 then x % 2 ^ f.width else x % 2 ^ f.width + 2 ^ (f.fb - 1)

/-- The first NaN of the operands, in field order, made quiet (09 R188). -/
def Fmt.firstNan (f : Fmt) : List Nat → Option Nat
  | [] => none
  | x :: xs => if (f.read x).isNan then some (f.quiet x) else f.firstNan xs

/-- The sign of an exact zero sum (09 R181): kept where both terms are zeros of one sign, else by the mode. -/
def zeroSumSign (rm : RM) (an bn : Bool) (bothZero : Bool) : Bool := if bothZero && an == bn then an else rm == .rdn

/-- a + b of two values that are no NaN. -/
def Fmt.addVals (f : Fmt) (rm : RM) (a b : FVal) : Nat :=
  match a, b with
  | .inf n, .inf n' => if n = n' then f.inf n else f.nan
  | .inf n, _ => f.inf n
  | _, .inf n => f.inf n
  | _, _ => f.round rm (zeroSumSign rm a.neg b.neg (a.dy.m == 0 && b.dy.m == 0)) (a.dy.add b.dy)

def FVal.negate : FVal → FVal
  | .nan n p => .nan (!n) p
  | .inf n => .inf (!n)
  | .fin n m e => .fin (!n) m e

/-- The exact product as a value; none for 0 x infinity. -/
def FVal.mul (a b : FVal) : Option FVal :=
  let neg := a.neg != b.neg
  match a, b with
  | .fin _ m e, .fin _ m' e' => some (.fin neg (m * m') (e + e'))
  | .fin _ m _, _ => if m = 0 then none else some (.inf neg)
  | _, .fin _ m _ => if m = 0 then none else some (.inf neg)
  | _, _ => some (.inf neg)

def fAdd (f : Fmt) (rm : RM) (a b : Nat) : Nat := (f.firstNan [a, b]).getD (f.addVals rm (f.read a) (f.read b))
def fSub (f : Fmt) (rm : RM) (a b : Nat) : Nat := (f.firstNan [a, b]).getD (f.addVals rm (f.read a) (f.read b).negate)
def fMul (f : Fmt) (rm : RM) (a b : Nat) : Nat :=
  (f.firstNan [a, b]).getD (match (f.read a).mul (f.read b) with
    | none => f.nan
    | some (.inf n) => f.inf n
    | some v => f.round rm v.neg v.dy)
/-- A x B + C with one rounding (09 R180). -/
def fFma (f : Fmt) (rm : RM) (a b c : Nat) : Nat :=
  (f.firstNan [a, b, c]).getD (match (f.read a).mul (f.read b) with
    | none => f.nan
    | some v => f.addVals rm v (f.read c))

/-- A < B of two values that are no NaN, with -0 below +0 when `zeros` (09 R190). -/
def FVal.lt (zeros : Bool) (a b : FVal) : Bool :=
  match a, b with
  | .inf n, .inf n' => n && !n'
  | .inf n, _ => n
  | _, .inf n => !n
  | _, _ => if a.dy.m = 0 ∧ b.dy.m = 0 then zeros && a.neg && !b.neg else a.dy.lt b.dy

/-- FMIN and FMAX (09 R190). -/
def fMinMax (f : Fmt) (max : Bool) (a b : Nat) : Nat :=
  let va := f.read a
  let vb := f.read b
  if va.isNan && vb.isNan then f.quiet a
  else if va.isNan then b
  else if vb.isNan then a
  else if max then (if va.lt true vb then b else a) else (if vb.lt true va then b else a)

/-- The FCMP conditions (10 R212). -/
def fCompare (cond : Nat) (a b : Nat) : Bool :=
  let va := fp32.read a
  let vb := fp32.read b
  let un := va.isNan || vb.isNan
  let lt := !un && va.lt false vb
  let gt := !un && vb.lt false va
  let eq := !un && !lt && !gt
  match cond with
  | 0 => eq
  | 1 => !eq
  | 2 => lt
  | 3 => lt || eq
  | 4 => gt
  | 5 => gt || eq
  | 6 => un
  | _ => !un

/-- FCLASS (10 R213). -/
def fClass (a : Nat) : Nat :=
  match fp32.read a with
  | .nan _ p => if 2 ^ 22 ≤ p then 2 ^ 9 else 2 ^ 8
  | .inf n => if n then 2 ^ 0 else 2 ^ 7
  | .fin n m _ => if m = 0 then (if n then 2 ^ 3 else 2 ^ 4) else if m < 2 ^ 23 then (if n then 2 ^ 2 else 2 ^ 5) else (if n then 2 ^ 1 else 2 ^ 6)

/-- An exact value rounded to an integer by a mode. -/
def Dy.toInt (rm : RM) (x : Dy) : Int :=
  if 0 ≤ x.e then x.m * 2 ^ x.e.toNat
  else
    let s := (-x.e).toNat
    let n := x.m.natAbs / 2 ^ s
    let up := roundsUp rm (x.m < 0) n (x.m.natAbs % 2 ^ s) s
    let r : Int := if up then n + 1 else n
    if x.m < 0 then -r else r

/-- FRND (10 R210). -/
def fRound (rm : RM) (a : Nat) : Nat :=
  match fp32.read a with
  | .nan _ _ => fp32.quiet a
  | .inf _ => a
  | .fin n m e => if m = 0 ∨ 2 ^ 23 * 1 ≤ (Dy.abs { m := m, e := e }).floor then a
      else fp32.round .rne n (Dy.ofInt ((Dy.mk (if n then -(m : Int) else m) e).toInt rm))

/-- FSCALE (10 R210): A x 2^k. Beyond 1000 in magnitude the exponent no longer changes what FP32 rounding gives. -/
def fScale (rm : RM) (a : Nat) (k : Int) : Nat :=
  match fp32.read a with
  | .nan _ _ => fp32.quiet a
  | .inf _ => a
  | v@(.fin n m _) => if m = 0 then a else fp32.round rm n (v.dy.scale (sat k (-1000) 1000))

/-- A NaN that changes format (09 R189). -/
def convNan (src dst : Fmt) (neg : Bool) (frac : Nat) : Nat :=
  if dst.e4m3 then dst.signBit neg + 0x7F
  else
    let F := if dst.fb ≤ src.fb then frac / 2 ^ (src.fb - dst.fb) else frac * 2 ^ (dst.fb - src.fb)
    dst.quiet (dst.signBit neg + dst.maxE * 2 ^ dst.fb + F)

/-- Conversion between floating-point formats (09 R182, R189). -/
def fConv (src dst : Fmt) (rm : RM) (x : Nat) : Nat :=
  match src.read x with
  | .nan n p => convNan src dst n p
  | .inf n => if dst.e4m3 then dst.maxFin n else dst.inf n
  | v => dst.round rm v.neg v.dy

/-- Conversion to an integer (09 R183): round, then saturate; a NaN gives 0. -/
def fToInt (rm : RM) (lo hi : Int) (x : Nat) : Int :=
  match fp32.read x with
  | .nan _ _ => 0
  | .inf n => if n then lo else hi
  | v => sat (v.dy.toInt rm) lo hi

/-- An integer as FP32 (09 R183). -/
def fOfInt (x : Int) : Nat := fp32.round .rne false (Dy.ofInt x)

/-- One step of CVTEF (09 R185): the result and the carry that is left. -/
def cvtefStep (dst : Fmt) (x : Nat) (carry : Dy) : Nat × Dy :=
  match fp32.read x with
  | .fin n m e =>
    let t := (FVal.fin n m e).dy.add carry
    let y := dst.round .rne (n && m == 0 && carry.m == 0) t
    let clamped := dst.e4m3 && !((Dy.abs t).lt (Dy.ofInt 464))
    match dst.read y with
    | .fin n' m' e' => (y, if clamped then Dy.zero else t.sub (FVal.fin n' m' e').dy)
    | _ => (y, Dy.zero)
  | _ => (fConv fp32 dst .rne x, Dy.zero)

/-- A block scale as FP32 (09 R179). -/
def scaleValue (e : Byte) : W32 :=
  if e = 0xFF then 0x7FC00000 else BitVec.ofNat 32 (fp32.round .rne false { m := 1, e := (e.toNat : Int) - 127 })

end Sys2Proof.Machine
end

