-- ==== Sys2Proof/Machine/AluFp.lean ====
section
/-!
DEFINITION. What one lane computes in the floating-point, packed, conversion and codebook words (10 R210-R221), CVTEF over a tile (09 R185), and
Combine of SCAN and RED (11 R232).
-/
namespace Sys2Proof.Machine

def w32 (x : Nat) : W32 := BitVec.ofNat 32 x
def rmF (f : BitVec 4) : RM := rmOf f.toNat

def aluFadd (f : BitVec 4) (a b : W32) : W32 := w32 (fAdd fp32 (rmF f) a.toNat b.toNat)
def aluFsub (f : BitVec 4) (a b : W32) : W32 := w32 (fSub fp32 (rmF f) a.toNat b.toNat)
def aluFmul (f : BitVec 4) (a b : W32) : W32 := w32 (fMul fp32 (rmF f) a.toNat b.toNat)
def aluFfma (f : BitVec 4) (a b c : W32) : W32 := w32 (fFma fp32 (rmF f) a.toNat b.toNat c.toNat)
def aluFmin (a b : W32) : W32 := w32 (fMinMax fp32 false a.toNat b.toNat)
def aluFmax (a b : W32) : W32 := w32 (fMinMax fp32 true a.toNat b.toNat)
def aluFclass (a : W32) : W32 := w32 (fClass a.toNat)
def aluFscale (f : BitVec 4) (a b : W32) : W32 := w32 (fScale (rmF f) a.toNat (sg b))
def aluFrnd (f : BitVec 4) (a : W32) : W32 := w32 (fRound (rmF f) a.toNat)

/-- A packed 16-bit word (10 R214): each element by itself. -/
def packed2 (op : Nat → Nat → Nat → Nat) (a b c : W32) : W32 :=
  packElems 16 [op (elem 16 a 0) (elem 16 b 0) (elem 16 c 0), op (elem 16 a 1) (elem 16 b 1) (elem 16 c 1)]
def aluAdd2 (fmt : Fmt) (f : BitVec 4) (a b : W32) : W32 := packed2 (fun x y _ => fAdd fmt (rmF f) x y) a b 0
def aluMul2 (fmt : Fmt) (f : BitVec 4) (a b : W32) : W32 := packed2 (fun x y _ => fMul fmt (rmF f) x y) a b 0
def aluFma2 (fmt : Fmt) (f : BitVec 4) (a b c : W32) : W32 := packed2 (fun x y z => fFma fmt (rmF f) x y z) a b c

/-- CVT (10 R215). -/
def aluCvt (f : BitVec 4) (a : W32) : W32 :=
  let x := a.toNat
  let s32 (rm : RM) := wrap 32 (fToInt rm (-2 ^ 31) (2 ^ 31 - 1) x)
  let u32 (rm : RM) := wrap 32 (fToInt rm 0 (2 ^ 32 - 1) x)
  match f.toNat with
  | 0 => s32 .rne
  | 1 => s32 .rz
  | 2 => s32 .rdn
  | 3 => s32 .rup
  | 4 => u32 .rne
  | 5 => u32 .rz
  | 6 => w32 (fOfInt (sg a))
  | 7 => w32 (fOfInt (ug a))
  | 8 => w32 (fConv fp32 fp16 .rne x)
  | 9 => w32 (fConv fp32 bf16 .rne x)
  | 10 => w32 (fConv fp32 e4m3 .rne x)
  | 11 => w32 (fConv fp32 e5m2 .rne x)
  | 12 => w32 (fConv fp16 fp32 .rne (x % 2 ^ 16))
  | 13 => w32 (fConv bf16 fp32 .rne (x % 2 ^ 16))
  | 14 => w32 (fConv e4m3 fp32 .rne (x % 2 ^ 8))
  | _ => w32 (fConv e5m2 fp32 .rne (x % 2 ^ 8))

/-- PACK (10 R217). -/
def aluPack (f : BitVec 4) (a b : W32) : W32 :=
  let fl (dst : Fmt) := packElems 16 [fConv fp32 dst .rne a.toNat, fConv fp32 dst .rne b.toNat]
  let f8 (dst : Fmt) := packElems 8 ([elem 16 a 0, elem 16 a 1, elem 16 b 0, elem 16 b 1].map (fConv fp16 dst .rne))
  match f.toNat with
  | 0 => fl fp16
  | 1 => fl bf16
  | 2 => packInt 16 true a b
  | 3 => packInt 16 false a b
  | 4 => packInt 8 true a b
  | 5 => packInt 8 false a b
  | 6 => f8 e4m3
  | 7 => f8 e5m2
  | 8 => packInt 4 true a b
  | _ => packInt 4 false a b

/-- UNPACK (10 R218). -/
def aluUnpack (f : BitVec 4) (a : W32) : W32 :=
  let k := f.toNat
  if k < 2 then w32 (fConv fp16 fp32 .rne (elem 16 a k))
  else if k < 4 then w32 (fConv bf16 fp32 .rne (elem 16 a (k - 2)))
  else if k < 8 then w32 (fConv e4m3 fp32 .rne (elem 8 a (k - 4)))
  else w32 (fConv e5m2 fp32 .rne (elem 8 a (k - 8)))

/-- The sixteen BF16 entries of a lane's codebook (10 R219): register i holds entries 2i and 2i + 1. -/
def codebook (regs : List W32) : List Nat := regs.flatMap fun r => [elem 16 r 0, elem 16 r 1]

/-- CBDEC (10 R220). -/
def aluCbdec (f : BitVec 4) (a : W32) (book : List Nat) : W32 :=
  let e := book.getD (elem 4 a (f.toNat % 8)) 0
  if f.getLsbD 3 then w32 e else w32 (fConv bf16 fp32 .rne e)

/-- The lowest code whose entry satisfies `p`. -/
def lowestCode (p : Nat → Bool) (book : List Nat) : Option Nat := book.findIdx? p

/-- The distance of two finite values, exactly. -/
def dyDist (a b : Dy) : Dy := (a.sub b).abs

/-- The code that CBENC chooses (10 R221). -/
def cbencCode (a : Nat) (book : List Nat) : Nat :=
  let va := fp32.read a
  let ve (e : Nat) := bf16.read e
  match va with
  | .nan _ _ => (lowestCode (fun e => (ve e).isNan) book).getD 0
  | .inf n =>
    match lowestCode (fun e => ve e == .inf n) book with
    | some c => c
    | none =>
      let cands := (List.range book.length).filter fun i => !(ve (book.getD i 0)).isNan
      let better (i j : Nat) : Bool :=  -- entry j is strictly nearer to A than entry i
        if n then (ve (book.getD j 0)).lt false (ve (book.getD i 0)) else (ve (book.getD i 0)).lt false (ve (book.getD j 0))
      match cands with
      | [] => 0
      | c :: cs => cs.foldl (fun best j => if better best j then j else best) c
  | .fin _ _ _ =>
    let cands := (List.range book.length).filter fun i => !(ve (book.getD i 0)).isNan
    let nearer (i j : Nat) : Bool :=
      match ve (book.getD i 0), ve (book.getD j 0) with
      | .inf _, .inf _ => false
      | .inf _, _ => true
      | _, .inf _ => false
      | x, y => (dyDist y.dy va.dy).lt (dyDist x.dy va.dy)
    match cands with
    | [] => 0
    | c :: cs => cs.foldl (fun best j => if nearer best j then j else best) c

/-- CBENC (10 R221). -/
def aluCbenc (f : BitVec 4) (a : W32) (book : List Nat) : W32 := w32 (cbencCode a.toNat book * 2 ^ (4 * (f.toNat % 8)))

/-- CVTEF over the lanes of one tile from lane `l`, `n` of them left (09 R185): the value of each lane by its number. -/
def cvtefTile (dst : Fmt) (on : W32) (x : LaneVec) : Nat → Nat → Dy → List (Nat × W32)
  | 0, _, _ => []
  | n + 1, l, carry =>
    if on.getLsbD l then
      let r := cvtefStep dst (laneGet x l).toNat carry
      (l, w32 r.1) :: cvtefTile dst on x n (l + 1) r.2
    else cvtefTile dst on x n (l + 1) carry

/-- The target format of CVTEF (10 R216). -/
def cvtefFmt (f : BitVec 4) : Fmt :=
  match f.toNat with
  | 0 => fp16
  | 1 => bf16
  | 2 => e4m3
  | _ => e5m2

/-- A register from values by lane number. -/
def ofLanes (xs : List (Nat × W32)) : LaneVec := Vector.ofFn fun i => (xs.lookup i.val).getD 0

def aluCvtef (f : BitVec 4) (tile : Nat) (on : W32) (x : LaneVec) : LaneVec :=
  ofLanes ((List.range (32 / tile)).flatMap fun t => cvtefTile (cvtefFmt f) on x tile (t * tile) Dy.zero)

/-- Combine of 11 R232: `op` is F, `ty` 0 .s32, 1 .u32, 2 .f32. -/
def combine (op ty : Nat) (p q : W32) : W32 :=
  match op with
  | 0 => if ty = 2 then w32 (fAdd fp32 .rne p.toNat q.toNat) else p + q
  | 1 => if ty = 2 then w32 (fMinMax fp32 false p.toNat q.toNat) else aluMin (if ty = 0 then 0 else 1) p q
  | 2 => if ty = 2 then w32 (fMinMax fp32 true p.toNat q.toNat) else aluMax (if ty = 0 then 0 else 1) p q
  | 3 => p &&& q
  | 4 => p ||| q
  | _ => p ^^^ q

/-- The identities of 11 R232. -/
def identity (op ty : Nat) : W32 :=
  match op with
  | 1 => if ty = 0 then 0x7FFFFFFF else if ty = 1 then 0xFFFFFFFF else 0x7F800000
  | 2 => if ty = 0 then 0x80000000 else if ty = 1 then 0 else 0xFF800000
  | 3 => 0xFFFFFFFF
  | _ => 0

/-- The chain of SCAN over `n` lanes from lane `l` (11 R233). -/
def scanChain (op ty : Nat) (excl : Bool) (on : W32) (x : LaneVec) : Nat → Nat → Option W32 → List (Nat × W32)
  | 0, _, _ => []
  | n + 1, l, t =>
    if on.getLsbD l then
      let a := laneGet x l
      let t' := match t with
        | some p => combine op ty p a
        | none => a
      (l, if excl then t.getD (identity op ty) else t') :: scanChain op ty excl on x n (l + 1) (some t')
    else scanChain op ty excl on x n (l + 1) t

def aluScan (op ty : Nat) (excl : Bool) (tile : Nat) (on : W32) (x : LaneVec) : LaneVec :=
  ofLanes ((List.range (32 / tile)).flatMap fun t => scanChain op ty excl on x tile (t * tile) none)

/-- Combine of two positions of the tree of 09 R191. -/
def combineOpt (op ty : Nat) : Option W32 → Option W32 → Option W32
  | some p, some q => some (combine op ty p q)
  | some p, none => some p
  | none, q => q

def pairUp (op ty : Nat) : List (Option W32) → List (Option W32)
  | p :: q :: rest => combineOpt op ty p q :: pairUp op ty rest
  | rest => rest

/-- The pairwise tree over a tile of 2^n positions (09 R191). -/
def treeReduce (op ty : Nat) : Nat → List (Option W32) → Option W32
  | 0, xs => xs.headD none
  | n + 1, xs => treeReduce op ty n (pairUp op ty xs)

def aluRed (op ty : Nat) (tsize : Nat) (on : W32) (x : LaneVec) : LaneVec :=
  let tile := 2 ^ tsize
  ofLanes ((List.range (32 / tile)).flatMap fun t =>
    let r := treeReduce op ty tsize ((List.range tile).map fun i => if on.getLsbD (t * tile + i) then some (laneGet x (t * tile + i)) else none)
    (List.range tile).map fun i => (t * tile + i, r.getD 0))

/-- SHFL's source lane (11 R231). -/
def shflSource (mode tile l b : Nat) : Nat :=
  let base := l - l % tile
  match mode with
  | 0 => base + b % tile
  | 1 => if l % tile < b then l else l - b
  | 2 => if tile ≤ l % tile + b then l else l + b
  | _ => base + ((l % tile) ^^^ (b % tile))

/-- VOTE (11 R230). -/
def aluVote (op tile : Nat) (on : W32) (x : LaneVec) : W64 :=
  let p (l : Nat) : Bool := on.getLsbD l && laneGet x l != 0
  let lanesOf (i : Nat) := (List.range tile).map (i * tile + ·)
  let act (i : Nat) := (lanesOf i).filter fun l => on.getLsbD l
  let bit (f : Nat → Bool) : Nat := (List.range (32 / tile)).foldl (fun m i => if f i then m + 2 ^ i else m) 0
  BitVec.ofNat 64 <| match op with
  | 0 => (List.range 32).foldl (fun m l => if p l then m + 2 ^ l else m) 0
  | 1 => bit fun i => (act i).any p
  | 2 => bit fun i => !(act i).isEmpty && (act i).all p
  | 3 => bit fun i => match act i with
      | [] => false
      | l :: ls => ls.all fun l' => laneGet x l' == laneGet x l
  | _ => (List.range (32 / tile)).foldl (fun m i => m + (lanesOf i).countP p * 2 ^ (2 * tile * i)) 0

end Sys2Proof.Machine
end

