-- ==== Sys2Proof/Machine/Sfu.lean ====
section
/-!
DEFINITION. The special functions (11 R241): the tables of 09 R194, computed from its definition of the coefficients (notes/assumptions/9), the
reductions of R195-R196 and the inputs of R197.
-/
namespace Sys2Proof.Machine

/-- The table of RCP: (c0, c1, c2) of each interval (09 R194). -/
def rcpTable : List (Nat × Int × Int) :=
  [(133177280, -258096, 4001), (131144040, -250275, 3821), (129171949, -242804, 3651), (127258290, -235664, 3491), (125400505, -228833, 3341), (123596181, -222295, 3198), (121843044, -216034, 3064), (120138945, -210033, 2938), (118481856, -204279, 2818), (116869858, -198758, 2704), (115301135, -193458, 2597), (113773968, -188367, 2495), (112286727, -183475, 2398), (110837866, -178771, 2307), (109425918, -174245, 2220), (108049492, -169889, 2137)] ++
  [(106707262, -165695, 2058), (105397970, -161653, 1983), (104120419, -157758, 1912), (102873468, -154002, 1844), (101656031, -150379, 1780), (100467071, -146882, 1718), (99305602, -143505, 1659), (98170681, -140244, 1603), (97061408, -137092, 1549), (95976923, -134046, 1498), (94916404, -131100, 1449), (93879067, -128250, 1402), (92864158, -125492, 1357), (91870958, -122822, 1314), (90898779, -120236, 1272), (89946959, -117732, 1233)] ++
  [(89014866, -115304, 1195), (88101893, -112951, 1158), (87207458, -110669, 1124), (86331001, -108456, 1090), (85471986, -106308, 1058), (84629897, -104224, 1027), (83804240, -102200, 997), (82994537, -100235, 968), (82200331, -98326, 941), (81421181, -96471, 914), (80656663, -94667, 889), (79906368, -92914, 864), (79169904, -91210, 841), (78446891, -89551, 818), (77736965, -87938, 796), (77039772, -86367, 775)] ++
  [(76354974, -84839, 754), (75682243, -83350, 734), (75021263, -81901, 715), (74371728, -80489, 697), (73733344, -79113, 679), (73105826, -77772, 662), (72488900, -76465, 645), (71882298, -75191, 629), (71285764, -73948, 614), (70699050, -72736, 599), (70121915, -71553, 584), (69554126, -70399, 570), (68995459, -69273, 556), (68445694, -68173, 543), (67904621, -67099, 530), (67372036, -66051, 518)]

/-- The table of RSQ: (c0, c1, c2) of each interval (09 R194). -/
def rsqTable : List (Nat × Int × Int) :=
  [(133181282, -128059, 1478), (131178442, -122368, 1370), (129263325, -117086, 1273), (127429710, -112174, 1185), (125671975, -107596, 1105), (123985026, -103321, 1033), (122364237, -99322, 967), (120805393, -95574, 907), (119304647, -92056, 852), (117858477, -88749, 802), (116463653, -85635, 756), (115117207, -82699, 713), (113816406, -79927, 674), (112558727, -77307, 637), (111341840, -74827, 603), (110163587, -72476, 572)] ++
  [(109021964, -70246, 543), (107915114, -68128, 516), (106841305, -66115, 491), (105798926, -64198, 467), (104786472, -62373, 446), (103802540, -60632, 425), (102845814, -58971, 406), (101915064, -57385, 388), (101009134, -55868, 371), (100126941, -54417, 355), (99267467, -53027, 340), (98429752, -51696, 326), (97612893, -50420, 313), (96816040, -49195, 300), (96038388, -48019, 288), (95279180, -46889, 277)] ++
  [(94173388, -45276, 261), (92757166, -43264, 242), (91402974, -41396, 225), (90106412, -39660, 209), (88863506, -38041, 195), (87670653, -36529, 183), (86524582, -35115, 171), (85422313, -33790, 160), (84361125, -32547, 151), (83338528, -31377, 142), (82352239, -30277, 134), (81400158, -29239, 126), (80480352, -28259, 119), (79591039, -27332, 113), (78730570, -26455, 107), (77897419, -25624, 101)] ++
  [(77090170, -24836, 96), (76307509, -24087, 91), (75548211, -23375, 87), (74811138, -22698, 83), (74095225, -22052, 79), (73399480, -21437, 75), (72722973, -20849, 72), (72064833, -20289, 69), (71424244, -19752, 66), (70800439, -19239, 63), (70192699, -18748, 60), (69600345, -18277, 58), (69022739, -17826, 55), (68459278, -17393, 53), (67909396, -16977, 51), (67372554, -16578, 49)]

/-- The table of SQRT: (c0, c1, c2) of each interval (09 R194). -/
def sqrtTable : List (Nat × Int × Int) :=
  [(135262240, 130060, -500), (137327431, 128104, -478), (139362023, 126234, -457), (141367335, 124443, -438), (143344596, 122727, -420), (145294953, 121079, -404), (147219473, 119496, -388), (149119158, 117974, -373), (150994944, 116508, -360), (152847712, 115096, -347), (154678289, 113734, -335), (156487453, 112419, -323), (158275939, 111149, -312), (160044440, 109921, -302), (161793612, 108732, -292), (163524074, 107582, -283)] ++
  [(165236415, 106467, -274), (166931191, 105386, -266), (168608934, 104337, -258), (170270146, 103319, -251), (171915306, 102331, -244), (173544872, 101370, -237), (175159277, 100435, -230), (176758939, 99526, -224), (178344252, 98642, -218), (179915598, 97780, -213), (181473338, 96941, -207), (183017819, 96123, -202), (184549376, 95325, -197), (186068327, 94547, -192), (187574977, 93787, -188), (189069622, 93046, -183)] ++
  [(191289694, 91966, -177), (194210316, 90583, -169), (197087663, 89261, -162), (199923602, 87995, -155), (202719872, 86781, -149), (205478093, 85616, -143), (208199775, 84497, -137), (210886335, 83420, -132), (213539098, 82384, -127), (216159307, 81385, -123), (218748134, 80422, -118), (221306678, 79492, -114), (223835980, 78594, -110), (226337018, 77726, -107), (228810720, 76885, -103), (231257963, 76072, -100)] ++
  [(233679579, 75283, -97), (236076355, 74519, -94), (238449041, 73778, -91), (240798350, 73058, -89), (243124958, 72359, -86), (245429511, 71679, -84), (247712626, 71019, -81), (249974888, 70376, -79), (252216861, 69750, -77), (254439078, 69141, -75), (256642055, 68548, -73), (258826282, 67969, -71), (260992230, 67405, -70), (263140351, 66855, -68), (265271077, 66318, -66), (267384824, 65794, -65)]

/-- The table of EXP2: (c0, c1, c2) of each interval (09 R194). -/
def exp2Table : List (Nat × Int × Int) :=
  [(134946517, 182691, 989), (136415988, 184680, 1000), (137901461, 186691, 1011), (139403109, 188724, 1022), (140921110, 190779, 1033), (142455640, 192857, 1044), (144006880, 194957, 1056), (145575012, 197080, 1067), (147160220, 199226, 1079), (148762690, 201395, 1091), (150382609, 203588, 1102), (152020169, 205805, 1114), (153675560, 208046, 1127), (155348977, 210312, 1139), (157040616, 212602, 1151), (158750677, 214917, 1164)] ++
  [(160479358, 217257, 1176), (162226864, 219623, 1189), (163993399, 222015, 1202), (165779170, 224432, 1215), (167584386, 226876, 1229), (169409261, 229347, 1242), (171254007, 231844, 1255), (173118840, 234369, 1269), (175003981, 236921, 1283), (176909649, 239501, 1297), (178836069, 242109, 1311), (180783466, 244745, 1325), (182752069, 247410, 1340), (184742109, 250104, 1354), (186753818, 252828, 1369), (188787434, 255581, 1384)] ++
  [(190843195, 258364, 1399), (192921341, 261178, 1414), (195022116, 264022, 1430), (197145768, 266897, 1445), (199292545, 269803, 1461), (201462698, 272741, 1477), (203656483, 275711, 1493), (205874157, 278713, 1509), (208115979, 281748, 1526), (210382214, 284816, 1542), (212673126, 287918, 1559), (214988984, 291053, 1576), (217330061, 294222, 1593), (219696630, 297426, 1611), (222088970, 300665, 1628), (224507360, 303939, 1646)] ++
  [(226952085, 307248, 1664), (229423431, 310594, 1682), (231921688, 313976, 1700), (234447150, 317395, 1719), (237000112, 320851, 1737), (239580874, 324345, 1756), (242189739, 327877, 1776), (244827012, 331448, 1795), (247493003, 335057, 1814), (250188026, 338705, 1834), (252912394, 342394, 1854), (255666430, 346122, 1874), (258450455, 349891, 1895), (261264796, 353701, 1915), (264109783, 357553, 1936), (266985750, 361446, 1957)]

/-- The table of LOG2: (c0, c1, c2) of each interval (09 R194). -/
def log2Table : List (Nat × Int × Int) :=
  [(1506897, 375262, -2909), (4485959, 369533, -2821), (7419883, 363976, -2737), (10310015, 358584, -2656), (13157643, 353349, -2579), (15964001, 348265, -2506), (18730265, 343325, -2435), (21457568, 338523, -2367), (24146989, 333854, -2302), (26799568, 329312, -2240), (29416301, 324891, -2180), (31998142, 320588, -2123), (34546011, 316397, -2068), (37060790, 312315, -2015), (39543328, 308336, -1964), (41994439, 304458, -1915)] ++
  [(44414912, 300676, -1868), (46805501, 296987, -1822), (49166935, 293387, -1778), (51499918, 289873, -1736), (53805127, 286443, -1695), (56083215, 283092, -1656), (58334813, 279820, -1617), (60560530, 276622, -1581), (62760955, 273496, -1545), (64936654, 270440, -1511), (67088179, 267452, -1478), (69216061, 264529, -1446), (71320812, 261669, -1414), (73402932, 258871, -1384), (75462901, 256131, -1355), (77501185, 253449, -1327)] ++
  [(79518237, 250823, -1300), (81514495, 248250, -1273), (83490382, 245730, -1247), (85446310, 243260, -1222), (87382679, 240840, -1198), (89299875, 238467, -1175), (91198275, 236141, -1152), (93078244, 233859, -1130), (94940136, 231621, -1108), (96784295, 229426, -1087), (98611056, 227271, -1067), (100420744, 225157, -1047), (102213676, 223082, -1028), (103990159, 221045, -1009), (105750491, 219044, -991), (107494965, 217080, -973)] ++
  [(109223863, 215150, -956), (110937460, 213255, -939), (112636026, 211392, -923), (114319821, 209562, -907), (115989101, 207763, -892), (117644113, 205995, -877), (119285100, 204257, -862), (120912296, 202547, -847), (122525933, 200866, -833), (124126233, 199213, -820), (125713416, 197587, -806), (127287695, 195987, -793), (128849278, 194413, -781), (130398368, 192864, -768), (131935164, 191339, -756), (133459859, 189838, -744)]

/-- The table of SIN: (c0, c1, c2) of each interval (09 R194). -/
def sinTable : List (Nat × Int × Int) :=
  [(1647058, 411744, -62), (4940182, 411496, -186), (8230330, 411000, -310), (11515520, 410256, -434), (14793774, 409266, -557), (18063117, 408029, -680), (21321579, 406546, -803), (24567198, 404818, -925), (27798018, 402846, -1047), (31012094, 400632, -1168), (34207490, 398177, -1288), (37382280, 395481, -1407), (40534552, 392547, -1526), (43662408, 389377, -1644), (46763964, 385973, -1761), (49837350, 382335, -1876)] ++
  [(52880716, 378468, -1991), (55892229, 374372, -2104), (58870075, 370052, -2216), (61812459, 365508, -2327), (64717610, 360744, -2437), (67583778, 355762, -2544), (70409235, 350567, -2651), (73192281, 345160, -2756), (75931238, 339545, -2859), (78624457, 333726, -2960), (81270316, 327706, -3060), (83867221, 321488, -3158), (86413607, 315077, -3253), (88907941, 308476, -3347), (91348720, 301689, -3439), (93734473, 294720, -3529)] ++
  [(96063765, 287574, -3617), (98335192, 280254, -3702), (100547385, 272766, -3786), (102699012, 265114, -3867), (104788777, 257301, -3945), (106815421, 249334, -4022), (108777724, 241217, -4095), (110674503, 232954, -4167), (112504616, 224551, -4236), (114266960, 216013, -4302), (115960474, 207344, -4366), (117584138, 198551, -4427), (119136973, 189638, -4485), (120618045, 180611, -4541), (122026461, 171475, -4594), (123361373, 162236, -4645)] ++
  [(124621977, 152899, -4692), (125807513, 143470, -4737), (126917267, 133955, -4778), (127950571, 124358, -4817), (128906802, 114687, -4853), (129785385, 104947, -4886), (130585790, 95144, -4916), (131307535, 85283, -4944), (131950185, 75371, -4968), (132513353, 65414, -4989), (132996700, 55417, -5007), (133399935, 45387, -5022), (133722815, 35329, -5035), (133965145, 25250, -5044), (134126780, 15156, -5050), (134207622, 5053, -5053)]

/-- The table of COS: (c0, c1, c2) of each interval (09 R194). -/
def cosTable : List (Nat × Int × Int) :=
  [(134207622, -5053, -5053), (134126780, -15156, -5050), (133965145, -25250, -5044), (133722815, -35329, -5035), (133399935, -45387, -5022), (132996700, -55417, -5007), (132513353, -65414, -4989), (131950185, -75371, -4968), (131307535, -85283, -4944), (130585790, -95144, -4916), (129785385, -104947, -4886), (128906802, -114687, -4853), (127950571, -124358, -4817), (126917267, -133955, -4778), (125807513, -143470, -4737), (124621977, -152899, -4692)] ++
  [(123361373, -162236, -4645), (122026461, -171475, -4594), (120618045, -180611, -4541), (119136973, -189638, -4485), (117584138, -198551, -4427), (115960474, -207344, -4366), (114266960, -216013, -4302), (112504616, -224551, -4236), (110674503, -232954, -4167), (108777724, -241217, -4095), (106815421, -249334, -4022), (104788777, -257301, -3945), (102699012, -265114, -3867), (100547385, -272766, -3786), (98335192, -280254, -3702), (96063765, -287574, -3617)] ++
  [(93734473, -294720, -3529), (91348720, -301689, -3439), (88907941, -308476, -3347), (86413607, -315077, -3253), (83867221, -321488, -3158), (81270316, -327706, -3060), (78624457, -333726, -2960), (75931238, -339545, -2859), (73192281, -345160, -2756), (70409235, -350567, -2651), (67583778, -355762, -2544), (64717610, -360744, -2437), (61812459, -365508, -2327), (58870075, -370052, -2216), (55892229, -374372, -2104), (52880716, -378468, -1991)] ++
  [(49837350, -382335, -1876), (46763964, -385973, -1761), (43662408, -389377, -1644), (40534552, -392547, -1526), (37382280, -395481, -1407), (34207490, -398177, -1288), (31012094, -400632, -1168), (27798018, -402846, -1047), (24567198, -404818, -925), (21321579, -406546, -803), (18063117, -408029, -680), (14793774, -409266, -557), (11515520, -410256, -434), (8230330, -411000, -310), (4940182, -411496, -186), (1647058, -411744, -62)]

/-- The table of TANH: (c0, c1, c2) of each interval (09 R194). -/
def tanhTable : List (Nat × Int × Int) :=
  [(4454811, 261855, -136), (4978451, 261783, -152), (5501939, 261703, -168), (6025260, 261616, -184), (6548397, 261520, -199), (7071334, 261416, -215), (7594057, 261305, -231), (8116548, 261185, -247), (8899818, 260991, -270), (9943222, 260705, -302), (10985418, 260388, -333), (12026283, 260039, -364), (13065692, 259660, -395), (14103520, 259249, -426), (15139647, 258809, -456), (16173949, 258337, -486)] ++
  [(17721716, 257574, -531), (19777897, 256452, -590), (21824632, 255213, -648), (23860994, 253859, -705), (25886076, 252393, -761), (27898989, 250817, -815), (29898871, 249135, -867), (31884880, 247350, -918), (34836106, 244484, -991), (38715132, 240333, -1083), (42524874, 235829, -1167), (46259938, 231003, -1244), (49915427, 225887, -1313), (53486951, 220513, -1373), (56970643, 214914, -1425), (60363155, 209121, -1470)] ++
  [(65274915, 200141, -1521), (71482656, 187787, -1563), (77290942, 175212, -1577), (82696163, 162628, -1566), (87701029, 150218, -1534), (92313639, 138135, -1485), (96546503, 126502, -1422), (100415593, 115413, -1349), (105578190, 99937, -1228), (111374127, 81639, -1059), (116085801, 66044, -893), (119882381, 53007, -740), (122919890, 42275, -605), (125336278, 33545, -489), (127249853, 26512, -393), (128759803, 20887, -313)] ++
  [(130442552, 14539, -221), (131915227, 8917, -137), (132816461, 5445, -84), (133366067, 3316, -51), (133700524, 2016, -31), (133903790, 1225, -19), (134027227, 744, -12), (134102151, 451, -7), (134163121, 213, -3), (134197637, 78, -1), (134210336, 29, 0), (134215009, 11, 0), (134216728, 4, 0), (134217360, 1, 0), (134217593, 1, 0), (134217678, 0, 0)]

/-- c0 + c1 d + c2 d^2 of an interval, exactly (09 R194, R195). -/
def sfuPoly (tab : List (Nat × Int × Int)) (i : Nat) (d : Dy) : Dy :=
  let c := tab.getD i (0, 0, 0)
  (Dy.mk c.1 (-27)).add (((Dy.mk c.2.1 (-18)).mul d).add ((Dy.mk c.2.2 (-12)).mul (d.mul d)))

/-- A normalised positive value: m in [1, 2) as a dyadic, and e (09 R195). -/
def sfuNorm (m : Nat) (e : Int) : Dy × Int :=
  let k := m.log2
  ({ m := m, e := -(k : Int) }, e + k)

/-- The centre of interval `i` of `n` to the unit from `from`: from + (i + 1/2) / n, n a power of two given by its exponent. -/
def sfuCentre (base : Int) (i : Int) (lg : Nat) : Dy := (Dy.ofInt base).add { m := 2 * i + 1, e := -((lg : Int) + 1) }

/-- u of FRSQ and FSQRT with its interval and the half exponent. -/
def sfuRoot (m : Nat) (e : Int) : Dy × Nat × Dy × Int :=
  let (u1, ex) := sfuNorm m e
  let odd := ex % 2 = 1
  let u := if odd then u1.scale 1 else u1
  let h := if odd then (ex - 1) / 2 else ex / 2
  if u.lt (Dy.ofInt 2) then
    let i := ((u.sub (Dy.ofInt 1)).scale 5).floor.toNat
    (u, i, sfuCentre 1 i 5, h)
  else
    let j := ((u.sub (Dy.ofInt 2)).scale 4).floor.toNat
    (u, 32 + j, sfuCentre 2 j 4, h)

def sfuRcp (a : W32) : W32 :=
  match fp32.read a.toNat with
  | .nan _ _ => w32 (fp32.quiet a.toNat)
  | .inf n => w32 (fp32.signBit n)
  | .fin n m e =>
    if m = 0 then w32 (fp32.inf n)
    else
      let (u, ex) := sfuNorm m e
      let i := ((u.sub (Dy.ofInt 1)).scale 6).floor.toNat
      let p := sfuPoly rcpTable i (u.sub (sfuCentre 1 i 6))
      let r := p.scale (-ex)
      w32 (fp32.round .rne n (if n then r.neg else r))

def sfuRsq (a : W32) : W32 :=
  match fp32.read a.toNat with
  | .nan _ _ => w32 (fp32.quiet a.toNat)
  | .inf n => if n then w32 fp32.nan else 0
  | .fin n m e =>
    if m = 0 then w32 (fp32.inf n)
    else if n then w32 fp32.nan
    else
      let (u, i, c, h) := sfuRoot m e
      w32 (fp32.round .rne false ((sfuPoly rsqTable i (u.sub c)).scale (-h)))

def sfuSqrt (a : W32) : W32 :=
  match fp32.read a.toNat with
  | .nan _ _ => w32 (fp32.quiet a.toNat)
  | .inf n => if n then w32 fp32.nan else a
  | .fin n m e =>
    if m = 0 then a
    else if n then w32 fp32.nan
    else
      let (u, i, c, h) := sfuRoot m e
      w32 (fp32.round .rne false ((sfuPoly sqrtTable i (u.sub c)).scale h))

/-- FEXP2. Past 1000 in magnitude the exponent no longer changes what FP32 rounding gives. -/
def sfuExp2 (a : W32) : W32 :=
  match fp32.read a.toNat with
  | .nan _ _ => w32 (fp32.quiet a.toNat)
  | .inf n => if n then 0 else a
  | v =>
    let x := v.dy
    let n := x.floor
    let u := x.sub (Dy.ofInt n)
    let k := sat n (-1000) 1000
    if u.m = 0 then w32 (fp32.round .rne false { m := 1, e := k })
    else
      let i := (u.scale 6).floor.toNat
      w32 (fp32.round .rne false ((sfuPoly exp2Table i (u.sub (sfuCentre 0 i 6))).scale k))

def sfuLog2 (a : W32) : W32 :=
  match fp32.read a.toNat with
  | .nan _ _ => w32 (fp32.quiet a.toNat)
  | .inf n => if n then w32 fp32.nan else a
  | .fin n m e =>
    if m = 0 then w32 (fp32.inf true)
    else if n then w32 fp32.nan
    else
      let (u, ex) := sfuNorm m e
      if (u.sub (Dy.ofInt 1)).m = 0 then w32 (fOfInt ex)
      else
        let i := ((u.sub (Dy.ofInt 1)).scale 6).floor.toNat
        w32 (fp32.round .rne false ((Dy.ofInt ex).add (sfuPoly log2Table i (u.sub (sfuCentre 1 i 6)))))

/-- C of 09 R195: 1 / (2 pi) truncated to 192 fractional bits. -/
def sfuC : Dy := { m := 0x28BE60DB9391054A7F09D5F47D4D377036D8A5664F10E410, e := -192 }

/-- The quarter turn and the two table values of |x| (09 R195, R196). -/
def sfuTurn (x : Dy) : Nat × Dy × Dy :=
  let t := x.mul sfuC
  let v4 := (t.sub (Dy.ofInt t.floor)).scale 2
  let q := v4.floor
  let w := v4.sub (Dy.ofInt q)
  let i := (w.scale 6).floor.toNat
  let d := w.sub (sfuCentre 0 i 6)
  (q.toNat, sfuPoly sinTable i d, sfuPoly cosTable i d)

def sfuSin (a : W32) : W32 :=
  match fp32.read a.toNat with
  | .nan _ _ => w32 (fp32.quiet a.toNat)
  | .inf _ => w32 fp32.nan
  | .fin n m e =>
    if (Dy.mk m e).lt { m := 1, e := -12 } then a
    else
      let (q, ts, tc) := sfuTurn { m := m, e := e }
      let r := match q with
        | 0 => ts
        | 1 => tc
        | 2 => ts.neg
        | _ => tc.neg
      w32 (fp32.round .rne false (if n then r.neg else r))

def sfuCos (a : W32) : W32 :=
  match fp32.read a.toNat with
  | .nan _ _ => w32 (fp32.quiet a.toNat)
  | .inf _ => w32 fp32.nan
  | .fin _ m e =>
    if (Dy.mk m e).lt { m := 1, e := -12 } then 0x3F800000
    else
      let (q, ts, tc) := sfuTurn { m := m, e := e }
      w32 (fp32.round .rne false (match q with
        | 0 => tc
        | 1 => ts.neg
        | 2 => tc.neg
        | _ => ts))

/-- A third of an exact value, with a sticky bit far below every rounding position. -/
def dyThird (x : Dy) : Dy :=
  let n := x.m.natAbs * 2 ^ 64
  let q : Int := 2 * (n / 3 : Nat) + (if n % 3 = 0 then 0 else 1)
  { m := if x.m < 0 then -q else q, e := x.e - 65 }

def sfuTanh (a : W32) : W32 :=
  match fp32.read a.toNat with
  | .nan _ _ => w32 (fp32.quiet a.toNat)
  | .inf n => w32 (fp32.signBit n + 0x3F800000)
  | .fin n m e =>
    let u : Dy := { m := m, e := e }
    if u.lt { m := 1, e := -5 } then
      let r := dyThird (((Dy.ofInt 3).mul u).sub (u.mul (u.mul u)))
      w32 (fp32.round .rne n (if n then r.neg else r))
    else if !(u.lt (Dy.ofInt 8)) then w32 (fp32.signBit n + 0x3F800000)
    else
      let (f, b) := sfuNorm m e
      let j := ((f.sub (Dy.ofInt 1)).scale 3).floor
      let p := sfuPoly tanhTable (8 * (b + 5) + j).toNat (u.sub ((sfuCentre 1 j 3).scale b))
      w32 (fp32.round .rne n (if n then p.neg else p))

/-- The eight functions by the low bits of their opcode. -/
def sfuOp (k : Nat) (a : W32) : W32 :=
  match k with
  | 0 => sfuRcp a
  | 1 => sfuRsq a
  | 2 => sfuSqrt a
  | 3 => sfuExp2 a
  | 4 => sfuLog2 a
  | 5 => sfuSin a
  | 6 => sfuCos a
  | _ => sfuTanh a

/-- A table image (09 R194): entry i holds c0 in [63:36], c1 in [35:16], c2 in [15:2]. -/
def sfuImage (tab : List (Nat × Int × Int)) : List Byte :=
  tab.flatMap fun c => leBytes 8 (c.1 * 2 ^ 36 + (wrap 20 c.2.1).toNat * 2 ^ 16 + (wrap 14 c.2.2).toNat * 4)

/-- The eight images in the order of 09 R198. -/
def sfuImages : List (List Byte) :=
  [rcpTable, rsqTable, sqrtTable, exp2Table, log2Table, sinTable, cosTable, tanhTable].map sfuImage

/-- What the self-test of the part finds (09 R198, 26 R450): the eight images that it exposes are those of the tables that its SFUs use (DEDUCED,
notes/assumptions/9). -/
def sfuPasses : Bool := sfuImages.zipIdx.all fun x => Config.partImage x.2 == x.1

end Sys2Proof.Machine
end

