-- ==== Sys2Proof/Machine/State.lean ====
section
/-!
DEFINITION. The state of the module: groups and their registers, workgroups, saved workgroups, grids, queues, engines, sensors, clocks, the
readback space and memory. INVENTORY.md lists every field with its rule and its reset value. The last fields of `State` are the model's own.
-/
namespace Sys2Proof.Machine

/-- Memory as (address, byte) pairs, addresses strictly rising, no entry equal to what an unlisted address reads as. -/
abbrev Memory := List Host.Cell

/-- The register states of 12 R252. -/
inductive RegSt where
  | void | value | ember
deriving DecidableEq, Repr

/-- One register of an allotment (12 R242, R252): 32 lanes of 32 bits. -/
structure Reg where
  st  : RegSt
  val : LaneVec
deriving DecidableEq, Repr

def Reg.fresh : Reg := { st := .void, val := Vector.replicate 32 0 }

/-- A recipe record (12 R258). The destination is a vector register. `lay` is the assignment of the slots that the scan at the KDEF made: register, first slot,
whether it takes two (R254). -/
structure Recipe where
  dst   : BitVec 8
  slice : BitVec 19
  len   : BitVec 4
  vin   : BitVec 3
  ina   : BitVec 8
  inb   : BitVec 8
  inc   : BitVec 8
  nslot : BitVec 3
  full  : Bool
  obj   : Bool
  tsz   : BitVec 3
  slots : BitVec 128
  lay   : List (BitVec 8 × Nat × Bool)
deriving DecidableEq, Repr

/-- One effect of an issued word that later words do not see yet (07 R136-R138). Registers are named by their place in the allotment.
`ws` marks a WSW issued in that FCLK: its write stands in `Wg.wsPend` (11 R239). -/
inductive Eff where
  | reg (p : Nat) (on : W32) (val : LaneVec)
  | sreg (k : BitVec 8) (v : W64)
  | mask (k : BitVec 3) (on bits : W32)
  | ws (fclk : Nat)
deriving DecidableEq, Repr

/-- What orders a memory word (13 R287, R292): whether it returns values, whether it is a FENCE, whether it acquires, whether it releases. -/
structure MemKind where
  load  : Bool
  fence : Bool
  acq   : Bool
  rel   : Bool
deriving DecidableEq, Repr

/-- How an issued word completes (06 R119): in order on its counter, or out of order. Barriers wait for memory words (08 R165). -/
inductive WordClass where
  | inOrder
  | memory (k : MemKind)
  | kdef
  | mmq
  | other
deriving DecidableEq, Repr

/-- An issued lane word that has not completed: its counter (15 for none), its class, its latency in DIST slots
(0: only a counter makes its results visible, 07 R136), the slots since its issue, whether its unit has finished with it, its effects. -/
structure Flight where
  id      : Nat
  ctr     : BitVec 4
  cls     : WordClass
  lat     : Nat
  age     : Nat
  ready   : Bool
  effs    : List Eff
deriving DecidableEq, Repr

/-- A format block (15 R321). -/
structure Block where
  afmt   : Nat
  aklen  : Nat
  ascale : Nat
  bfmt   : Nat
  bklen  : Nat
  bscale : Nat
  depth  : Nat
  full   : Bool
  atab   : Nat
  btab   : Nat
deriving DecidableEq, Repr

/-- A thread of the memory model (17 R351): a lane of a group; its scalar stream; an engine job; a COPY packet; what the fabric delivers through a window
(20 R404); the stoker and the signal unit; a host port. `lanes` names what all lanes of a group have in common. -/
inductive Agent where
  | lane (gid lg l : Nat)
  | lanes (gid lg : Nat)
  | scalar (gid lg : Nat)
  | job (id : Nat)
  | copy (q i : Nat)
  | window (ctx win : Nat)
  | unit
  | host (port : Nat)
deriving DecidableEq, Repr

/-- A thread with what places it in the instances of the scopes (17 R353): its workgroup and its LCORE, a job's being those of its poster. -/
structure Thread where
  agent : Agent
  lw    : Nat
  lcore : Nat
deriving DecidableEq, Repr

/-- A byte of global memory, or of the scratchpad of a workgroup (grid, workgroup). -/
structure Loc where
  spad : Option (Nat × Nat)
  at_  : Nat
deriving DecidableEq, Repr

/-- What a thread knows of the writes (17 R355, R360): every write of a stamp up to `base`; of each thread the writes up to a stamp, those of the lanes of a
group together (13 R287); single writes; single bytes of writes, which it has read. -/
structure View where
  base  : Nat
  upto  : List (Agent × Nat)
  extra : List Nat
  bytes : List (Nat × Loc)
deriving DecidableEq, Repr

/-- What a release hands on (17 R358): the releasing thread, the scope, what the thread knew. -/
structure Msg where
  src   : Thread
  scope : Nat
  view  : View
deriving DecidableEq, Repr

/-- A write in the coherence order of one byte (17 R355): where the byte is, the stamp of the write, its thread and scope, the messages of the release sequences it
belongs to (R358), the address and size of the access, the byte. -/
structure Version where
  loc   : Loc
  stamp : Nat
  src   : Thread
  scope : Nat
  rel   : List Msg
  acc   : Nat × Nat
  val   : Byte
deriving DecidableEq, Repr

/-- What a FENCE that releases hands on with every later store (17 R358): what all lanes knew, and what single lanes knew besides. -/
structure Fence where
  scope : Nat
  view  : View
  priv  : List (Nat × View)
deriving DecidableEq, Repr

/-- A completed invalidation (13 R276): the context, the virtual range, the stamp at its completion. -/
structure Inval where
  ctx   : Nat
  lo    : Nat
  hi    : Nat
  stamp : Nat
deriving DecidableEq, Repr

/-- The memory model's own state (17): the writes of each byte that has been written, newest first, the last one standing for what was there before; what
each thread knows; the .sc words in their order S (R362); the number of writes so far; the completed invalidations. `posts` names the jobs of a group by their
tickets; `drops`, `appends` and `grids` hold what the drops of a name, each group that closed a stream (grid, stream, LG) and the groups of a grid that have exited
knew (R360). `coh` are the bytes of writes that the lanes of a group have read, whichever lane (13 R284), `bank` those that a group of the core that holds the
scratchpad has read there (13 R279); `obs` the writes at scope .cluster or wider, with their bytes, that a lane or a scalar stream has observed before an acquire,
`mca` such a write, a byte that the same thread read after it, and the stamp that it found there (R357); `pub` the writes that a PIN, UNPIN or RECLAIM has had performed at device scope, `devs` those performed before a group's last PIN (13 R297). `heard` and
`fences` are the messages that the stoker's relaxed reads have met, and what its FENCE packets hand on by queue (03 R53). -/
structure Order where
  hist    : List (Loc × List Version)
  views   : List (Agent × View)
  scs     : List Msg
  stamp   : Nat
  invals  : List Inval
  posts   : List (Agent × BitVec 48 × Nat)
  drops   : List (W64 × View)
  appends : List ((Nat × Nat × Nat) × View)
  grids   : List (Nat × View)
  coh     : List ((Nat × Nat) × List (Nat × Loc))
  bank    : List (Nat × Loc)
  obs     : List (Agent × List (Nat × Loc))
  mca     : List (Nat × Loc × Nat)
  pub     : View
  devs    : List ((Nat × Nat) × View)
  heard   : List (Bool × Msg)
  fences  : List (Nat × Msg)
deriving DecidableEq, Repr

/-- What a counted lane word leaves that the scalar stream does not know complete (08 R157, 17 R352, 15 R334): the word, its counter, whether a lane word has
awaited the counter; its stores, what its loads and its acquire have made known, what a FENCE hands on with later SSTs, and, of an acquire, what the scalar stream
had observed before it (17 R357). -/
structure Slack where
  id     : Nat
  ctr    : BitVec 4
  waited : Bool
  stores : List Nat
  gain   : View
  rels   : List Msg
  obs    : List (Nat × Loc)
deriving DecidableEq, Repr

/-- A queued run (07 R128): the next word's index, the words of the run buffer (none where the fetch failed, R462), the word of the run that issued last, the
scalar registers that the run reads (R130), and what the scalar stream knew at its LRUN, what the reads before it have met and what it has observed (17 R352, R359,
R357). -/
structure Run where
  next  : Nat
  buf   : List (Option Nat)
  prev  : Option Nat
  reads : List (BitVec 8)
  view  : View
  heard : List (Bool × Msg)
  obs   : List (Nat × Loc)
deriving DecidableEq, Repr

/-- The words left of a run. -/
def Run.left (r : Run) : Nat := r.buf.length

/-- A queued MMQ (15 R327-R329): everything it read at issue. `afmt` and `acb` are those of the latch while it is held. B is named by the
workgroup that owns the scratchpad and the offset (13 R272); `view` is what the group's lanes knew when the word issued, `holes` are their own
stores that no wait had covered, `stamp` the number of writes by then (15 R334). -/
structure Mmq where
  d    : BitVec 8
  act  : W32
  blk  : Block
  afmt : Nat
  a    : List LaneVec
  acb  : List W16
  bcb  : List W16
  asc  : Option (List Byte)
  bsc  : Option (List Byte)
  blw  : Nat
  boff : Nat
  eb   : W64
  blkAddr : Nat
  resv : Nat
  view : View
  holes : List Nat
  stamp : Nat
deriving DecidableEq, Repr

/-- The matrix words (15 R319). -/
inductive MWord where
  | mmq (m : Mmq)
  | mdrain (d sk : BitVec 8)
  | mzero (d : BitVec 8)
  | mwait
deriving DecidableEq, Repr

/-- A tile record (15 R326): the kept fields, KW, ROWS, the cells of the open window (FP32 partial sums or 16-bit cells, by lane and
column), the scales of the window, CCOUNT, the reservation the window holds (R337), the sub-arrays that have served the window (R342), what early drains have folded into the tile
in this window (R338). -/
structure Tile where
  d     : BitVec 8
  afmt  : Nat
  bfmt  : Nat
  aklen : Nat
  bklen : Nat
  depth : Nat
  full  : Bool
  kw    : Nat
  rows  : W32
  cells : Vector LaneVec 32
  asc   : Option (List Byte)
  bsc   : Option (List Byte)
  ccount : Nat
  resv  : Nat
  subs  : List Nat
  folded : Vector LaneVec 32
deriving DecidableEq, Repr

/-- The A latch when HELD (15 R333). -/
structure Latch where
  afmt : Nat
  regs : List LaneVec
  cb   : List W16
deriving DecidableEq, Repr

/-- An MMQ under TRAP that waits for its pass before it issues (15 R339): the word, the latch that it leaves, and once the pass has been tried whether every
carry was placed; and the address that a link kept it from reading (20 R399). -/
structure Trial where
  m     : Mmq
  latch : Option Latch
  down  : Option Nat
  res   : Option Bool
deriving DecidableEq, Repr

/-- What a handler sets aside (22 R422). -/
structure Aside where
  runq  : List Run
  exm   : W32
  tpart : BitVec 3
deriving DecidableEq, Repr

/-- A scalar result on its way (08 R148): SDIV and SREM are abandoned with it when the group is stopped (R149), and then SKIP is what it was before them (22 R425). -/
structure ScalarPend where
  idx : W32
  d   : BitVec 8
  v   : W64
  div : Bool
  skip : Option (Bool × Nat)
deriving DecidableEq, Repr

/-- A deferred load error (07 R145): the counter of the load, the address, the DETAIL of CAUSE. -/
structure Deferred where
  ctr    : BitVec 4
  addr   : W64
  detail : BitVec 8
deriving DecidableEq, Repr

/-- Where an accepted access goes: a physical address, or an offset in the scratchpad of a workgroup of the same grid. -/
inductive Place where
  | glob (p : Nat)
  | spad (lw off : Nat)
deriving DecidableEq, Repr

/-- The access of a lane of a store or an atomic: the lane, its address, its place, its data words. -/
structure LaneAcc where
  lane  : Nat
  ea    : Nat
  place : Place
  data  : List W32
deriving DecidableEq, Repr

/-- A store or an atomic some of whose lanes have been performed (13 R279, R291): the word, the lanes that it acts on, the accesses of all of them and how many of
these are done, what those have returned, the stamps of their writes, what they have made known, the addresses whose data failed, with the DETAIL (20 R399). -/
structure Mid where
  op     : MemOp
  atom   : Bool
  on     : W32
  accs   : List LaneAcc
  done   : Nat
  got    : List (Nat × List W32)
  stores : List Nat
  gain   : View
  errs   : List (Nat × Nat)
deriving DecidableEq, Repr

/-- A relaxed load, store or atomic of global memory that has issued and whose accesses are still to be performed (17 R371; notes/assumptions/5): the number of its
flight, its counter, the first register of a load's or an atomic's result, the run it belongs to, and the word with its lanes. -/
structure Late where
  id   : Nat
  ctr  : BitVec 4
  load : Bool
  d    : BitVec 8
  run  : Option Run
  word : Mid
deriving DecidableEq, Repr

/-- A group. `last` is the FCLK and the SETC of its last lane word (07 R135, 08 R164); `races` holds the places of open tiles that a lane word has written, with
the lanes, what they held before but for early drains, and what was written (15 R336); `trapAt` is the FCLK in which it entered its handler (22 R438); `relv` are its last release fences, one of a scope,
`srelv` those that the scalar stream knows complete, `acqv` and `heard` what an acquire fence takes by lane, and what the scalar stream's reads have met
(17 R358, R359), `obsv` and `sobs` what its lanes and its scalar stream have observed since their last acquire (R357), `slack` what the scalar stream does not know complete; `mid` is a word
of which some lanes have been performed, `late` are the issued words whose accesses are still to be performed.
While it runs a handler, `watch` holds the microseconds that have counted (22 R426), else the microsecond from which they count; both may be negative, where the host
has written a PLEFT longer than PROGTO (26 R455). `gid` names its grid, `lw` its workgroup, `k` its number in it; `slot` is 48 times its physical core plus its group slot. -/
structure Group where
  slot   : Nat
  gid    : Nat
  lw     : Nat
  k      : Nat
  part   : Nat
  spc    : W32
  sregs  : Vector W64 256
  runq   : List Run
  regs   : List Reg
  bound  : Nat
  masks  : Vector W32 8
  ctrs   : Vector (BitVec 8) 12
  flights : List Flight
  nextId : Nat
  exm    : W32
  tpart  : BitVec 3
  pins   : Vector W64 8
  recipes : List Recipe
  cause  : W64
  epc    : W32
  elpc   : BitVec 19
  faddr  : W64
  fspc   : W64
  stepn  : W64
  progto : W32
  watch  : Int
  tseq   : BitVec 48
  oclosed : BitVec 16
  bars   : BitVec 8
  growAsk : Option (Nat × Nat)
  latch  : Option Latch
  tiles  : List Tile
  mq     : List (Nat × MWord)
  trial  : Option Trial
  races  : List (Nat × W32 × LaneVec × LaneVec)
  passed : Nat
  aside  : Option Aside
  skip   : Option (Bool × Nat)
  double : Bool
  quota  : Bool
  toHost : Bool
  parked : Bool
  stepHeld : Bool
  deferred : List Deferred
  spend  : Option ScalarPend
  puts   : Nat
  last   : Option (Nat × BitVec 4)
  trapAt : Option Nat
  relv   : List Fence
  srelv  : List Msg
  acqv   : List (Nat × Bool × Msg)
  heard  : List (Bool × Msg)
  obsv   : List (Nat × Nat × Loc)
  sobs   : List (Nat × Loc)
  slack  : List Slack
  mid    : Option Mid
  late   : List Late
deriving DecidableEq, Repr

/-- An ordered task under way (19 R380-R388); `dies` names for each line of its buffer the die whose speculation store holds it (R385; notes/assumptions/67). -/
structure Task where
  ts     : BitVec 48
  seq    : Nat
  arg    : W64
  spawns : List (BitVec 48 × W64)
  buf    : List Host.Cell
  dies   : List (Nat × Nat)
  reads  : List Nat
  direct : Bool
deriving DecidableEq, Repr

/-- A moment: the FCLK, the microsecond and the part of it that has passed. -/
structure Moment where
  fclk : Nat
  us   : Nat
  frac : Nat
deriving DecidableEq, Repr

/-- A resident workgroup (02 R26, R36; 04 R72). `stopAt` is the FCLK of the request `stop`; `hold` stands when the host has asked to stop and hold it (26 R454),
`quota` when its grid's quota has stopped it (21 R416), `atStep` when its gang is to be saved at a STEP, `moves` when it reached that STEP while a migration was asked for
(22 R435, R436). -/
structure Wg where
  gid    : Nat
  lw     : Nat
  core   : Nat
  lcore  : Nat
  spad   : Memory
  ws     : Vector W32 16
  wsPend : List (Nat × Nat × Nat × W32)
  stop   : Option StopReason
  stopAt : Nat
  hold   : Bool
  quota  : Bool
  atStep : Bool
  moves  : Bool
  migr   : Bool
  placed : Moment
  task   : Option Task
deriving DecidableEq, Repr

/-- A job card as read at FORK (14 R303). -/
structure Card where
  kind  : Nat
  flags : Nat
  chan  : Nat
  opx   : Nat
  state : Nat
  ra    : Nat
  ralen : Nat
  rblen : Nat
  rb    : Nat
  w     : Nat
  wlen  : Nat
  done  : Nat
deriving DecidableEq, Repr

/-- The state of a posted job (14 R303). -/
inductive JobSt where
  | posted | running | suspended | done | faulted
deriving DecidableEq, Repr

/-- A job of a core's job set (14 R307, R311), in FORK order within `State.jobs`; `edges` are the jobs it waits for. -/
structure Job where
  id     : Nat
  core   : Nat
  gid    : Nat
  lw     : Nat
  k      : Nat
  lg     : Nat
  edges  : List Nat
  ticket : BitVec 48
  at_    : Nat
  card   : Card
  st     : JobSt
  done   : Nat
  fcause : Nat
  fadr   : Nat
  reported : Bool
deriving DecidableEq, Repr

/-- A launch descriptor (02 R31). -/
structure Desc where
  kobj   : Nat
  args   : W64
  gridx  : Nat
  gridy  : Nat
  gridz  : Nat
  wgsize : Nat
  gang   : Nat
  mode   : Nat
  nbar   : Nat
  rgran  : Nat
  vbnd0  : Nat
  part   : Nat
  spwg   : Nat
  vdem   : Nat
  progto : W32
  equota : Nat
  ofoot  : Nat
deriving DecidableEq, Repr

/-- A kernel object header as read at launch (02 R29, R32), with the object's address. -/
structure KObj where
  addr   : Nat
  soff   : Nat
  slen   : Nat
  loff   : Nat
  llen   : Nat
  entry  : Nat
  livoff : Nat
  livlen : Nat
  doff   : Nat
  dlen   : Nat
  regmin : Nat
  spmin  : Nat
deriving DecidableEq, Repr

/-- What the launch checks find (02 R33): the grid's parts, the handler header to install (22 R421), the footprint. -/
structure Launch where
  desc : Desc
  ko   : KObj
  hk   : Option KObj
  foot : Option (Nat × List (Nat × Nat))
deriving DecidableEq, Repr

/-- An uncommitted task of a set that is not placed (19 R380). -/
structure TaskKey where
  ts  : BitVec 48
  seq : Nat
  arg : W64
deriving DecidableEq, Repr

/-- The state of a grid-directory entry (26 R453): LIVE (HELD while a workgroup of it is held), RETIRED; `reused` marks a retired grid whose entry
another grid has taken. -/
inductive GridSt where
  | live | retired | reused
deriving DecidableEq, Repr

/-- A grid or task set (02 R26, 04 R79, 13 R294, 21 R415, 26 R453). `gid` is the model's name of it, `entry` its directory entry, `walk` the next gang of
the walk, `waits` the candidates that wait and the moment from which each waits, `born` the number of writes at its launch, `start` what the stoker knew then, `cut` the ports whose CUT runs, `cutMax` the largest COUNT that a save
of the grid has seen since the oldest of them began (22 R435). -/
structure Grid where
  gid    : Nat
  entry  : Nat
  name   : Nat
  q      : Nat
  pi     : Nat
  ctx    : Nat
  isTask : Bool
  st     : GridSt
  desc   : Desc
  ko     : KObj
  foot   : Option (Nat × List (Nat × Nat))
  walk   : Nat
  aside  : List Nat
  exited : List Nat
  obase  : Vector (BitVec 48) 16
  closed : List (Nat × BitVec 16)
  left   : Nat
  unl    : Bool
  energy : Nat
  overrun : Nat
  quotaHeld : Bool
  quantum : Option Nat
  waits  : List (Nat × Moment)
  born   : Nat
  start  : View
  cut    : List Nat
  cutMax : Nat
  tasks  : List TaskKey
  nextSeq : Nat
  retiredAt : Nat
deriving DecidableEq, Repr

/-- A saved workgroup (22 R430-R432, 26 R453): its record as data, and the directory fields. `smaps` and `notabs` are SMAP and NOTAB of its groups,
`counts` the barrier counts, `savedAt` the address of a record that has left the store (R432), `oldCore` the core it ran on,
`byQuota` says that the quota saved it, whatever the host has written since, `order` when it was saved, `rank` its place among the saved gangs (04 R79), `ranges` the scratchpad bytes saved, `entry` its entry of the saved-workgroup directory; a register saved as its value is VALUE here, a dead one VOID, one saved as its recipe EMBER. -/
structure SavedWg where
  die    : Nat
  oldCore : Nat
  spilled : Bool
  savedAt : Nat
  held   : Bool
  quota  : Bool
  byQuota : Bool
  double : Bool
  code   : Nat
  migr   : Bool
  order  : Nat
  rank   : Nat
  entry  : Option Nat
  smaps  : List (BitVec 256)
  notabs : List Bool
  counts : List Byte
  ranges : List (Nat × Nat)
  wg     : Wg
  groups : List Group
  jobs   : List Job
deriving DecidableEq, Repr

/-- A watch of the signal unit (03 R60). `deadline` is in microseconds. -/
structure Watch where
  q    : Nat
  i    : Nat
  sig  : Nat
  cond : Nat
  value : W64
  deadline : Option Nat
deriving DecidableEq, Repr

/-- What a launched packet still waits for (03 R53, R60): nothing, its grid, its copy, the watch of its WAIT, or (a WAIT whose watch has ended)
its queue to be mapped again. -/
inductive PktWork where
  | ready
  | grid (gid : Nat)
  | copy (src dst len done : Nat)
  | wait
  | woken
deriving DecidableEq, Repr

/-- A launched packet that is not complete (03 R54, R55), with the address of its completion signal. `err` is the code of R56 that stands, 0 for
none. -/
structure Pkt where
  q     : Nat
  i     : Nat
  csig  : Option Nat
  err   : Nat
  work  : PktWork
deriving DecidableEq, Repr

/-- A stoker core (03 R62-R65): the block of 32 slots it serves, whether it has halted, whether its memory is loaded. -/
structure StokerCore where
  block  : Option Nat
  halted : Bool
deriving DecidableEq, Repr

/-- A temperature sensor (21 R406, R407): temperature in units of 0.25 degrees, time of the last change of band in microseconds. -/
structure Sensor where
  band    : Nat
  temp    : Int
  changed : Nat
  seen    : Bool
deriving DecidableEq, Repr

/-- A cinder entry (15 R337). -/
structure Cinder where
  slot  : Nat
  d     : BitVec 8
  l     : Nat
  n     : Nat
  count : Int
deriving DecidableEq, Repr

/-- A physical cluster: LCLK ratio in halves of FCLK (1, 2 or 4), a change under way, LCLK half-cycles counted, trip and service flags, the
matrix engine's PTR, cinder buffer, fenced sub-arrays and, by sub-array, good tests in a row. -/
structure Cluster where
  ratio   : Nat
  pending : Option Nat
  switching : Bool
  halves  : Nat
  tripped : Bool
  out     : Bool
  ptr     : Nat
  cinder  : List Cinder
  fenced  : List Nat
  tests   : List (Nat × Nat)
deriving DecidableEq, Repr

/-- A vault's refresh (21 R408): the tREFI in force, in units of 0.975 us (4, 2, 1), and whether a refresh is under way. -/
structure Vault where
  trefi : Nat
  busy  : Bool
deriving DecidableEq, Repr

/-- A die's network clock (21 R412: level 0-7, a step under way and its direction, the time of the last step) and, on a compute die, its
current estimate and the glide operations that hold it (R413), in amperes. -/
structure Die where
  nclk     : Nat
  nstep    : Option Bool
  nlast    : Option Nat
  estimate : Nat
  glide    : Nat
deriving DecidableEq, Repr

/-- A context-table entry (26 R451), with the handler header as checked (22 R421). -/
structure Ctx where
  troot  : Nat
  defl   : Nat
  wint   : Nat
  hobj   : Nat
  savea  : Nat
  hmask  : BitVec 16
  brk    : Vector W32 4
  energy : Nat
  overrun : Nat
  hk     : Option KObj
deriving DecidableEq, Repr

/-- A mailbox (26 R454); `via` is the port that the last CMD came through, `own` whether that port held OWNSEM then (20 R395). -/
structure Mailbox where
  cmd    : Byte
  status : Byte
  arg0   : W64
  arg1   : W64
  via    : Nat
  own    : Bool
deriving DecidableEq, Repr

/-- A Thoal port (20 R394, 26 R449, R454, R460, R461): link, window base, mailbox, attestation buffer (bytes by offset, unlisted 0), what the
module answered to the port's last read, since when its link has been lost while it held OWNSEM (20 R396), an invalidation under way, the leaf that an attestation under way has spent. -/
structure Port where
  up   : Bool
  lost : Option Moment
  base : W64
  mb   : Mailbox
  att  : Memory
  read : List Byte
  inval : Option (Nat × Nat)
  leaf : Option Nat
deriving DecidableEq, Repr

/-- An error-log entry (26 R452). -/
structure LogEntry where
  time   : Nat
  code   : Nat
  unit   : Nat
  detail : Nat
  addr   : Nat
  arg    : Nat
deriving DecidableEq, Repr

/-- A PUT sent, at a microsecond, and not answered (20 R403). -/
structure PutRec where
  id   : Nat
  ctx  : Nat
  win  : Nat
  slot : Nat
  gid  : Nat
  lg   : Nat
  peer : Nat
  pwin : Nat
  off  : Nat
  data : List Byte
  sent : Nat
deriving DecidableEq, Repr

/-- The window counts of a context's window (20 R401). -/
structure WinCnt where
  ctx  : Nat
  win  : Nat
  wcnt : BitVec 48
  werr : BitVec 48
deriving DecidableEq, Repr

/-- Who moves next (notes/assumptions/1): the scalar or the lane stream of the group in a slot, one lane of its next store or atomic, its lane stream with the accesses
of the word left to be performed later, those accesses by the number of the word (notes/assumptions/5), a step of the module or the host, time, or the loss of a unit for which no spare is left: the first repair-map slot of its row and the unit (01 R24). -/
inductive Turn where
  | scalar (slot : Nat)
  | lane (slot : Nat)
  | part (slot : Nat)
  | late (slot : Nat)
  | perform (slot id : Nat)
  | act (i : Instr)
  | tick (fclk : Nat)
  | lost (off unit : Nat)
deriving DecidableEq, Repr

/-- The readback space and the module's service state (26). -/
structure Svc where
  fwok   : Bool
  sfuok  : Bool
  mxok   : Bool
  fwver  : W32
  ownsem : Nat
  qtbase : Nat
  dbbase : Nat
  limits : List Nat
  fclkLimit : Nat
  ctxStore : List Nat
  ctxEff : List Nat
  ports  : Vector Port 2
  log    : List LogEntry
  logHead : Nat
  ctxs   : List (Nat × Ctx)
  repairMap : Memory
  inEffect : List Nat
  leaf   : Nat
  image  : List Byte
  running : List Byte
  wins   : List WinCnt
  puts   : List PutRec
deriving DecidableEq, Repr

/-- Queues, the stoker and the signal unit (03): the mapped queues as (slot, queue), the pending list as (queue, PRIO), oldest first, the FAULTED
queues, watches, launched packets, doorbells rung and not yet taken as (queue, value, source), the stoker cores, and the launches that have passed their
checks and wait for a directory entry, by queue and index (02 R32). -/
structure Stoker where
  slots    : List (Nat × Nat)
  pending  : List (Nat × Nat)
  faulted  : List Nat
  watches  : List Watch
  pkts     : List Pkt
  bells    : List (Nat × W64 × Nat)
  cores    : Vector StokerCore 5
  kept     : List (Nat × Nat × Launch)
deriving DecidableEq, Repr

/-- Sensors, clocks and engines by unit (21, 15); PTR of the write channels of cores, the job that a channel runs or ran last (14 R309, R310); the grids
whose work has left a die while its glide operations hold its current (21 R414), and by core the granules that have become free while a GROW waits for them
(12 R246). -/
structure Units where
  coreSens  : List Sensor
  vaultSens : List Sensor
  clusters  : List Cluster
  vaults    : List Vault
  dies      : List Die
  wp        : List (Nat × Nat × BitVec 57)
  chans     : List (Nat × Nat × Nat)
  departed  : List (Nat × Nat)
  withheld  : List (Nat × Nat)
deriving DecidableEq, Repr

/-- The place of a turn among those of one FCLK (notes/assumptions/1): lane words by LG and slot, scalar words, steps of the units, the host's by port. -/
structure Seat where
  phase : Nat
  key   : Nat
deriving DecidableEq, Repr

/-- The whole module. `exits` are the gangs that have exited in this FCLK with the cores they held, `owed` the stops that cores owe to what runs next on them
(03 R58), `seat` the seat of the last turn of this FCLK. -/
structure State where
  mem      : Memory
  eccBad   : List Nat
  groups   : List Group
  wgs      : List Wg
  saved    : List SavedWg
  resuming : List SavedWg
  grids    : List Grid
  jobs     : List Job
  stoker   : Stoker
  units    : Units
  svc      : Svc
  fclk     : Nat
  us       : Nat
  usFrac   : Nat
  agenda   : List Turn
  cur      : Nat
  free     : Nat
  nextName : Nat
  turns    : Nat
  order    : Order
  seat     : Seat
  exits    : List (Nat × Nat × List Nat)
  owed     : List (Nat × StopReason)
deriving DecidableEq, Repr

/-- Why the machine stops with a fault. The spec gives every word and every step of the module a next state, so these name only what no step
reaches. -/
inductive Fault where
  /-- Raised by the meaning of a scalar or lane word in a state whose `cur` names no resident group: a word is always a word of a group.
  Safe: `step` executes a word only for a resident group. -/
  | noGroup
deriving DecidableEq, Repr

/-- Why the machine refuses an instruction. -/
inductive Refusal where
  /-- Raised by an arm of `exec` whose instruction has no meaning yet. Safe. -/
  | notModelled (mnemonic : String)
deriving DecidableEq, Repr

def Ctx.reset : Ctx :=
  { troot := 0, defl := 0, wint := 0, hobj := 0, savea := 0, hmask := 0, brk := Vector.replicate 4 0, energy := 0, overrun := 0, hk := none }

def Sensor.reset : Sensor := { band := 3, temp := 0, changed := 0, seen := false }

def Cluster.reset : Cluster :=
  { ratio := 2, pending := none, switching := false, halves := 0, tripped := false, out := false, ptr := 0, cinder := [], fenced := [], tests := [] }

def Port.reset : Port :=
  { up := true, lost := none, base := 0, mb := { cmd := 0, status := 0, arg0 := 0, arg1 := 0, via := 0, own := false }, att := [], read := [], inval := none, leaf := none }

/-- The repair map as manufactured (01 R13, 26 R456): only the SPARE field of the stoker slot, byte 0x3E1, is not zero. -/
def repairMapFirst : Memory := [(0x3E1, 4)]

/-- The readback space after reset (26 R449, R450, R451). FWOK and SFUOK are what the boot ROM and the self-test find; the values the spec
does not give are DESIGN CHOICES (notes/assumptions/4), WCNT and WERR 0 of windows never made VALID (20 R401) among them. -/
def Svc.reset : Svc :=
  { fwok := Config.imageVerifies Config.firstImage, sfuok := sfuPasses, mxok := false, fwver := Config.imageVersion Config.firstImage, ownsem := 0, qtbase := 0, dbbase := 0,
    limits := List.replicate 96 2, fclkLimit := 180, ctxStore := List.replicate 8 1, ctxEff := List.replicate 8 1, ports := Vector.replicate 2 Port.reset,
    log := [], logHead := 0, ctxs := [], repairMap := repairMapFirst, inEffect := [], leaf := 0, image := Config.firstImage, running := Config.firstImage, wins := [], puts := [] }

def Stoker.reset : Stoker :=
  { slots := [], pending := [], faulted := [], watches := [], pkts := [], bells := [],
    cores := #v[⟨some 0, false⟩, ⟨some 1, false⟩, ⟨some 2, false⟩, ⟨some 3, false⟩, ⟨none, false⟩], kept := [] }

/-- Sensors, clocks and engines after reset. What the spec does not give, tREFI 3.9 us before a vault's first refresh (21 R408) among it, is a DESIGN CHOICE
(notes/assumptions/4). -/
def Units.reset : Units :=
  { coreSens := List.replicate 416 Sensor.reset, vaultSens := List.replicate 192 Sensor.reset,
    clusters := List.replicate 104 Cluster.reset, vaults := List.replicate 192 { trefi := 4, busy := false },
    dies := List.replicate 10 { nclk := 0, nstep := none, nlast := none, estimate := 0, glide := 0 }, wp := [], chans := [], departed := [], withheld := [] }

def View.fresh : View := { base := 0, upto := [], extra := [], bytes := [] }
def Order.reset : Order :=
  { hist := [], views := [], scs := [], stamp := 0, invals := [], posts := [], drops := [], appends := [], grids := [], coh := [], bank := [], obs := [], mca := [],
    pub := View.fresh, devs := [], heard := [], fences := [] }
def Seat.first : Seat := { phase := 0, key := 0 }

/-- The module right after reset (00 R5, 26 R458): no queue is served, no group is resident, no sensor has been sampled. -/
def State.reset : State :=
  { mem := [], eccBad := [], groups := [], wgs := [], saved := [], resuming := [], grids := [], jobs := [],
    stoker := Stoker.reset, units := Units.reset, svc := Svc.reset,
    fclk := 0, us := 0, usFrac := 0, agenda := [], cur := 0, free := 0, nextName := 0, turns := 0,
    order := Order.reset, seat := Seat.first, exits := [], owed := [] }

end Sys2Proof.Machine
end

