-- ==== Sys2Proof/Machine/Memory.lean ====
section
/-!
DEFINITION. Memory as data in canonical form, and translation (13 R273-R277): the walk of the five-level table, the fields of an entry, permission.
Physical addresses below 2^39 are device DRAM; host memory of ADDR[56:0] stands at Config.hostBase + ADDR (20 R397).
-/
namespace Sys2Proof.Machine

/-- The byte at an address. Cells stand in rising order, so the search ends at the first larger address. -/
def memGet : Memory → Nat → Byte
  | [], _ => Config.memDefault
  | c :: m, a => if a < c.1 then Config.memDefault else if a = c.1 then c.2 else memGet m a

/-- One byte written; the canonical form stays (Laws/Memory.lean). -/
def memSet : Memory → Nat → Byte → Memory
  | [], a, b => if b = Config.memDefault then [] else [(a, b)]
  | c :: m, a, b =>
    if a < c.1 then (if b = Config.memDefault then c :: m else (a, b) :: c :: m)
    else if a = c.1 then (if b = Config.memDefault then m else (a, b) :: m)
    else c :: memSet m a b

/-- Every address of the list is above `a` and rises, and no byte is the default. -/
def memWfFrom : Nat → Memory → Bool
  | _, [] => true
  | lo, c :: m => lo ≤ c.1 && c.2 != Config.memDefault && memWfFrom (c.1 + 1) m

/-- The canonical form of a memory. -/
def memWf (m : Memory) : Bool := memWfFrom 0 m

def memRead (m : Memory) (a n : Nat) : List Byte := (List.range n).map fun i => memGet m (a + i)

/-- `bs` written from address `a` upward. -/
def memWrite (m : Memory) (a : Nat) : List Byte → Memory
  | [] => m
  | b :: bs => memWrite (memSet m a b) (a + 1) bs

/-- A little-endian number (00 R2). -/
def memNat (m : Memory) (a n : Nat) : Nat := leNat (memRead m a n)

/-- Buffered bytes of an ordered task (19 R385): here a byte equal to the default is kept, since it hides memory. -/
def bufSet : List Host.Cell → Nat → Byte → List Host.Cell
  | [], a, b => [(a, b)]
  | c :: m, a, b => if a < c.1 then (a, b) :: c :: m else if a = c.1 then (a, b) :: m else c :: bufSet m a b
def bufWrite (m : List Host.Cell) (a : Nat) : List Byte → List Host.Cell
  | [] => m
  | b :: bs => bufWrite (bufSet m a b) (a + 1) bs

/-- The trap causes of 22 R418 that translation and checks give. -/
abbrev causePage : Nat := 3
abbrev causeAccess : Nat := 4
abbrev causeAlign : Nat := 5

/-- The permission bits of an entry (13 R274). -/
abbrev needRead : Nat := 4
abbrev needWrite : Nat := 8
abbrev needAtomic : Nat := 28

/-- Fields of a table entry (13 R274). -/
def pteValid (e : Nat) : Bool := e % 2 == 1
def pteLeaf (e : Nat) : Bool := e / 2 % 2 == 1
def pteTarget (e : Nat) : Nat := bits e 6 5
def pteCont (e : Nat) : Bool := e / 2 ^ 8 % 2 == 1
/-- ADDR as an address: its bits [56:12]. -/
def pteAddr (e : Nat) : Nat := bits e 56 12 * 2 ^ 12

/-- A malformed entry of a level (13 R274, R277). -/
def pteMalformed (level e : Nat) : Bool :=
  bits e 63 57 != 0 || bits e 11 9 != 0 || pteTarget e == 3
    || (pteLeaf e && 3 ≤ level) || (!pteLeaf e && level == 0)
    || (!pteLeaf e && bits e 11 2 != 0)
    || (level == 2 && pteLeaf e && bits e 29 12 != 0) || (level == 1 && pteLeaf e && bits e 20 12 != 0)
    || ((level == 1 || level == 2) && pteLeaf e && pteCont e)
    || (pteTarget e == 0 && 2 ^ 39 ≤ pteAddr e)

/-- The walk from a level down (13 R273), with what reads an entry: the leaf entry and the level it was found at, or the cause. -/
def walk (rd : Nat → Nat) (va : Nat) : Nat → Nat → Except Nat (Nat × Nat)
  | level, table =>
    let e := rd (table + 8 * bits va (20 + 9 * level) (12 + 9 * level))
    if !pteValid e then .error causePage
    else if pteMalformed level e then .error causeAccess
    else if pteLeaf e then .ok (e, level)
    else match level with
      | 0 => .error causeAccess
      | l + 1 => walk rd va l (pteAddr e)

/-- The model's physical address of a translated address: device DRAM or host memory. -/
def leafPhys (e level va : Nat) : Nat :=
  let off := va % 2 ^ (12 + 9 * level)
  let p := pteAddr e / 2 ^ (12 + 9 * level) * 2 ^ (12 + 9 * level) + off
  if pteTarget e = 1 then Config.hostBase + p else p

/-- Steps 1, 3 and 4 of 13 R275 for a virtual address: the canonical test, the walk, the permission; the physical address or the cause. `rd`
reads the entry at an address in a walk for a virtual address (13 R276). -/
def translate (rd : Nat → Nat → Nat) (root need va : Nat) : Except Nat Nat :=
  if 2 ^ 57 ≤ va then .error causeAccess
  else match walk (rd va) va 4 root with
    | .error c => .error c
    | .ok (e, level) =>
      if e &&& need != need || pteTarget e == 2 then .error causeAccess else .ok (leafPhys e level va)

/-- Whether a physical address is host memory, and behind which port (20 R397). -/
def isHost (p : Nat) : Bool := Config.hostBase ≤ p
def hostPort (p : Nat) : Nat := if Config.hostBase + 2 ^ 56 ≤ p then 1 else 0

/-- A virtual range translated byte by byte: the physical addresses, or the first failing address with its cause. -/
def translateRange (rd : Nat → Nat → Nat) (root need : Nat) : Nat → Nat → Except (Nat × Nat) (List Nat)
  | _, 0 => .ok []
  | va, n + 1 =>
    match translate rd root need va with
    | .error c => .error (c, va)
    | .ok p => match translateRange rd root need (va + 1) n with
      | .error f => .error f
      | .ok ps => .ok (p :: ps)

end Sys2Proof.Machine
end

