-- ==== Sys2Proof/Machine/Look.lean ====
section
/-!
DEFINITION. Finding and replacing the parts of the state: groups by slot, workgroups and grids by name, contexts, units; the error log (26 R452);
and removing a group or a workgroup.
-/
namespace Sys2Proof.Machine

def State.group? (s : State) (slot : Nat) : Option Group := s.groups.find? fun g => g.slot == slot
def State.setGroup (s : State) (g : Group) : State :=
  { s with groups := s.groups.map fun x => if x.slot == g.slot then g else x }

/-- The group whose word is executed. A word is always a word of a resident group. -/
def onGroup (s : State) (f : Group → Host.Outcome State Fault Refusal) : Host.Outcome State Fault Refusal :=
  match s.group? s.cur with
  | some g => f g
  | none => .fault .noGroup

/-- The same for a step that names a slot; a step of an empty slot changes nothing. -/
def withGroup (s : State) (slot : Nat) (f : Group → State) : Host.Outcome State Fault Refusal :=
  .next (match s.group? slot with
    | some g => f g
    | none => s)

def Wg.is (gid lw : Nat) (w : Wg) : Bool := w.gid == gid && w.lw == lw
def State.wg? (s : State) (gid lw : Nat) : Option Wg := s.wgs.find? (Wg.is gid lw)
def State.setWg (s : State) (w : Wg) : State := { s with wgs := s.wgs.map fun x => if x.is w.gid w.lw then w else x }
def State.modWg (s : State) (gid lw : Nat) (f : Wg → Wg) : State :=
  { s with wgs := s.wgs.map fun x => if x.is gid lw then f x else x }
def State.grid? (s : State) (gid : Nat) : Option Grid := s.grids.find? fun x => x.gid == gid
def State.setGrid (s : State) (d : Grid) : State := { s with grids := s.grids.map fun x => if x.gid == d.gid then d else x }
def State.modGrid (s : State) (gid : Nat) (f : Grid → Grid) : State :=
  { s with grids := s.grids.map fun x => if x.gid == gid then f x else x }

def Desc.zero : Desc :=
  { kobj := 0, args := 0, gridx := 1, gridy := 1, gridz := 1, wgsize := 1, gang := 1, mode := 0, nbar := 0, rgran := 1, vbnd0 := 0,
    part := 0, spwg := 0, vdem := 0, progto := 0, equota := 0, ofoot := 0 }
def KObj.zero : KObj :=
  { addr := 0, soff := 0, slen := 0, loff := 0, llen := 0, entry := 0, livoff := 0, livlen := 0, doff := 0, dlen := 0, regmin := 1, spmin := 0 }

/-- The descriptor and the kernel object of a grid. -/
def State.desc (s : State) (gid : Nat) : Desc := ((s.grid? gid).map Grid.desc).getD Desc.zero
def State.kobj (s : State) (gid : Nat) : KObj := ((s.grid? gid).map Grid.ko).getD KObj.zero

/-- A context-table entry; contexts that nothing has written are at reset (26 R451). -/
def Svc.ctx (v : Svc) (c : Nat) : Ctx := (v.ctxs.lookup c).getD Ctx.reset
def State.ctxOfGrid (s : State) (gid : Nat) : Nat := ((s.grid? gid).map Grid.ctx).getD 0
def State.gctx (s : State) (g : Group) : Ctx := s.svc.ctx (s.ctxOfGrid g.gid)
def assocSet {α : Type} (k : Nat) (v : α) : List (Nat × α) → List (Nat × α)
  | [] => [(k, v)]
  | x :: xs => if x.1 == k then (k, v) :: xs else x :: assocSet k v xs
def State.setCtx (s : State) (c : Nat) (x : Ctx) : State := { s with svc := { s.svc with ctxs := assocSet c x s.svc.ctxs } }

/-- CAUSE.INH (22 R419). -/
def Group.inh (g : Group) : Bool := g.cause.getLsbD 31

/-- The object that slices with OBJ name: the grid's kernel object, or the context's handler object (12 R258, 22 R422). -/
def State.objOf (s : State) (g : Group) (obj : Bool) : KObj := if obj then ((s.gctx g).hk).getD (s.kobj g.gid) else s.kobj g.gid
/-- The object that word indices name now (22 R422). -/
def State.codeObj (s : State) (g : Group) : KObj := s.objOf g g.inh

/-- Physical core, cluster and die of a slot (01 R19). -/
def slotCore (slot : Nat) : Nat := slot / 48
def coreCluster (core : Nat) : Nat := core / 4
def coreDie (core : Nat) : Nat := if core < 384 then core / 48 else (core - 384) / 4
def clusterDie (n : Nat) : Nat := if n < 96 then n / 12 else n - 96
def Group.core (g : Group) : Nat := slotCore g.slot
def Group.cluster (g : Group) : Nat := coreCluster g.core

/-- LG = LW x WGSIZE + k (02 R36). -/
def State.lg (s : State) (g : Group) : Nat := g.lw * (s.desc g.gid).wgsize + g.k
/-- The groups of a workgroup that have not exited. -/
def State.wgGroups (s : State) (gid lw : Nat) : List Group := s.groups.filter fun g => g.gid == gid && g.lw == lw
/-- The gang of a workgroup: its index and members (02 R36). -/
def gangIdx (d : Desc) (lw : Nat) : Nat := lw / max d.gang 1
def gangOf (d : Desc) (gang : Nat) : List Nat := (List.range d.gang).map (gang * d.gang + ·)
def State.gangGroups (s : State) (gid gang : Nat) : List Group :=
  s.groups.filter fun g => g.gid == gid && gangIdx (s.desc gid) g.lw == gang

/-- The workgroups that hold a core's resources, of those with a group that has not exited (04 R72): resident ones, and those placed again and not yet restored. -/
def State.coreTenants (s : State) (core : Nat) : List (Wg × List Group) :=
  ((s.wgs.filter fun w => w.core == core).map (fun w => (w, s.wgGroups w.gid w.lw))
    ++ (s.resuming.filter fun r => r.wg.core == core).map fun r => (r.wg, r.groups)).filter fun w => !w.2.isEmpty

/-- The name of a grid: the address of its packet (26 R453). -/
def State.gridName (s : State) (gid : Nat) : Nat := ((s.grid? gid).map Grid.name).getD 0

/-- An entry of the error log (26 R452). The ring keeps the last 2,047 entries, newest first here. -/
def State.log (s : State) (code unit detail addr arg : Nat) : State :=
  { s with svc := { s.svc with
      log := ({ time := s.fclk, code := code, unit := unit, detail := detail, addr := addr, arg := arg } :: s.svc.log).take 2047,
      logHead := s.svc.logHead + 1 } }

def listSet {α : Type} (xs : List α) (i : Nat) (x : α) : List α := xs.set i x
def listMod {α : Type} : List α → Nat → (α → α) → List α
  | [], _, _ => []
  | x :: xs, 0, f => f x :: xs
  | x :: xs, i + 1, f => x :: listMod xs i f

def State.clusterAt (s : State) (c : Nat) : Cluster := s.units.clusters.getD c Cluster.reset
def State.modCluster (s : State) (c : Nat) (f : Cluster → Cluster) : State :=
  { s with units := { s.units with clusters := listMod s.units.clusters c f } }

/-- The cinder entries and reservations of a slot given back (15 R332, R337). -/
def State.freeCinders (s : State) (slot : Nat) : State :=
  s.modCluster (coreCluster (slotCore slot)) fun c => { c with cinder := c.cinder.filter fun e => e.slot != slot }

/-- Work of a grid leaves a die (21 R414). -/
def State.noteDeparted (s : State) (die gid : Nat) : State :=
  { s with units := { s.units with departed := if s.units.departed.contains (die, gid) then s.units.departed else s.units.departed ++ [(die, gid)] } }
/-- A group taken from its slot with its registers, recipes, latch, records and queue (08 R174, 15 R326). -/
def State.removeGroup (s : State) (slot : Nat) : State :=
  let s' := match s.group? slot with
    | some g => s.noteDeparted (coreDie g.core) g.gid
    | none => s
  { (s'.freeCinders slot) with groups := s.groups.filter fun g => g.slot != slot }

/-- The port of a number; there are two. -/
def State.port (s : State) (p : Nat) : Port := s.svc.ports.getD p Port.reset
def State.modPort (s : State) (p : Nat) (f : Port → Port) : State :=
  { s with svc := { s.svc with ports := s.svc.ports.setIfInBounds p (f (s.port p)) } }
/-- A mailbox's STATUS (26 R454). -/
def State.setStatus (s : State) (p : Nat) (code : Byte) : State := s.modPort p fun x => { x with mb := { x.mb with status := code } }

/-- A fresh draw of a free value. -/
def State.draw (s : State) : State := { s with free := s.free + 1 }
/-- The same after a read of `n` bytes. -/
def State.drawFor (s : State) (n : Nat) : State := { s with free := s.free + n / 2 ^ 16 + 1 }

/-- The state of physical time: TIME and every microsecond limit count from module reset. -/
def State.now (s : State) : Nat := s.us
def State.moment (s : State) : Moment := { fclk := s.fclk, us := s.us, frac := s.usFrac }
/-- Whether `n` microseconds have passed since a moment. -/
def State.passed (s : State) (t : Moment) (n : Nat) : Bool := t.us + n < s.us || (t.us + n == s.us && t.frac ≤ s.usFrac)

/-- A 32-bit slot of the repair map, by its offset (26 R456). -/
def repairSlot (v : Svc) (off : Nat) : Nat := memNat v.repairMap off 4
def slotUsed (v : Svc) (off : Nat) : Bool := 2 ^ 31 ≤ repairSlot v off
def slotReplaced (v : Svc) (off : Nat) : Nat := repairSlot v off % 2 ^ 16
/-- Whether the spare of a slot has taken its unit's place (26 R457). -/
def slotWorks (v : Svc) (off : Nat) : Bool := slotUsed v off && v.inEffect.contains off

/-- The logical number of an active core (01 R20, R21): a core of an active cluster has its own number unless the spare has taken its place;
a spare's core has the number of the core it replaces. -/
def State.logicalOf (s : State) (core : Nat) : Option Nat :=
  let c := coreCluster core
  let off := 4 * clusterDie c
  if c < 96 then (if slotWorks s.svc off && slotReplaced s.svc off == c then none else some core)
  else if slotWorks s.svc off then some (4 * slotReplaced s.svc off + core % 4) else none

/-- The home vault of a logical core number (04 R71). -/
def homeVault (lcore : Nat) : Nat := 24 * (lcore / 48) + lcore % 48 / 2

end Sys2Proof.Machine
end

