-- ==== Sys2Proof/Machine/Order.lean ====
section
/-!
DEFINITION. The memory model (17): the instances of the scopes, what a thread knows, the writes that a read may return, releases and acquires, the order
of the .sc words; and the reading of translation entries under invalidations (13 R276). Writes take their place in the coherence order when they are
performed; a read may return a write that is not the newest (notes/assumptions/5).
-/
namespace Sys2Proof.Machine

-- ### Scopes

abbrev scopeDevice : Nat := 7
abbrev scopeSystem : Nat := 8
abbrev scopeCluster : Nat := 5

/-- The group of an agent that is one of its streams: grid and LG. -/
def Agent.group? : Agent → Option (Nat × Nat)
  | .lane gid lg _ | .lanes gid lg | .scalar gid lg => some (gid, lg)
  | _ => none
/-- The name under which the writes of a thread count: a group performs those of its lanes together (13 R284, R287). -/
def Agent.key : Agent → Agent
  | .lane gid lg _ => .lanes gid lg
  | a => a
/-- The quarter of a lane. -/
def Agent.quarter? : Agent → Option Nat
  | .lane _ _ l => some (l / 8)
  | _ => none
def Agent.isJob : Agent → Bool
  | .job _ => true
  | _ => false
def Agent.isHost : Agent → Bool
  | .host _ => true
  | _ => false
/-- Threads of other modules belong to no instance (17 R353). -/
def Agent.isFar : Agent → Bool
  | .window _ _ => true
  | _ => false

/-- Whether `u` lies in the instance of a scope that contains `t` (17 R353). -/
def inInstance (scope : Nat) (t u : Thread) : Bool :=
  let both (f : Nat × Nat → Nat × Nat → Bool) : Bool := match t.agent.group?, u.agent.group? with
    | some x, some y => f x y
    | _, _ => false
  let dieMember (x : Thread) : Bool := x.agent.group?.isSome || x.agent.isJob
  t.agent == u.agent || (match scope with
    | 0 => false
    | 1 => both (fun x y => x == y) && t.agent.quarter?.isSome && t.agent.quarter? == u.agent.quarter?
    | 2 => both fun x y => x == y
    | 3 => both fun x y => x.1 == y.1 && t.lw == u.lw
    | 4 => both fun _ _ => t.lcore == u.lcore
    | 5 => both fun _ _ => t.lcore / 4 == u.lcore / 4
    | 6 => dieMember t && dieMember u && t.lcore / 48 == u.lcore / 48
    | 7 => !t.agent.isHost && !u.agent.isHost && !t.agent.isFar && !u.agent.isFar
    | _ => !t.agent.isFar && !u.agent.isFar)
/-- Mutually in scope (17 R354). -/
def inScope (s1 : Nat) (t : Thread) (s2 : Nat) (u : Thread) : Bool := inInstance s1 t u && inInstance s2 u t

-- ### What a thread knows

def listMax {α : Type} [DecidableEq α] (k : α) (n : Nat) : List (α × Nat) → List (α × Nat)
  | [] => [(k, n)]
  | x :: xs => if x.1 = k then (k, max n x.2) :: xs else x :: listMax k n xs
/-- The knowledge of two threads together. -/
def View.join (v w : View) : View :=
  { base := max v.base w.base, upto := w.upto.foldl (fun us x => listMax x.1 x.2 us) v.upto,
    extra := v.extra ++ w.extra.filter fun x => !v.extra.contains x, bytes := v.bytes ++ w.bytes.filter fun x => !v.bytes.contains x }
/-- The same, and every write so far of a thread. -/
def View.withAll (v : View) (a : Agent) (stamp : Nat) : View := { v with upto := listMax a stamp v.upto }
/-- The same, and some writes. -/
def View.withSome (v : View) (xs : List Nat) : View := { v with extra := v.extra ++ xs.filter fun x => !v.extra.contains x }
/-- The same, and single bytes of writes: a read knows of a write the bytes that it has returned (17 R355). -/
def View.withBytes (v : View) (xs : List (Nat × Loc)) : View := { v with bytes := v.bytes ++ xs.filter fun x => !v.bytes.contains x }

/-- Everything that has been written so far. -/
def Order.all (o : Order) : View := { View.fresh with base := o.stamp }
def Order.view (o : Order) (a : Agent) : View := (o.views.lookup a).getD View.fresh
def assocPut {α β : Type} [DecidableEq α] (k : α) (v : β) : List (α × β) → List (α × β)
  | [] => [(k, v)]
  | x :: xs => if x.1 = k then (k, v) :: xs else x :: assocPut k v xs
def Order.setView (o : Order) (a : Agent) (v : View) : Order := { o with views := assocPut a v o.views }
def Order.joinView (o : Order) (a : Agent) (v : View) : Order := o.setView a ((o.view a).join v)
/-- What a thread hands on: what it knows and what it has written. -/
def Order.hands (o : Order) (a : Agent) : View := (o.view a).withAll a.key o.stamp
/-- What every lane of a group knows, in common or by itself. -/
def Order.lanesView (o : Order) (gid lg : Nat) : View :=
  (o.views.filter fun x => x.1.key == .lanes gid lg).foldl (fun (v : View) x => v.join x.2) View.fresh

-- ### Threads of the machine

def State.lanesAgent (s : State) (g : Group) : Agent := .lanes g.gid (s.lg g)
def State.laneAgent (s : State) (g : Group) (l : Nat) : Agent := .lane g.gid (s.lg g) l
def State.scalarAgent (s : State) (g : Group) : Agent := .scalar g.gid (s.lg g)
def State.lcoreOf (s : State) (g : Group) : Nat := ((s.wg? g.gid g.lw).map Wg.lcore).getD 0
def State.laneThread (s : State) (g : Group) (l : Nat) : Thread := { agent := s.laneAgent g l, lw := g.lw, lcore := s.lcoreOf g }
/-- The lanes of a group as one thread: what the group reads as a whole, and a word of the order S at a scope that holds the group. -/
def State.lanesThread (s : State) (g : Group) : Thread := { agent := s.lanesAgent g, lw := g.lw, lcore := s.lcoreOf g }
def State.scalarThread (s : State) (g : Group) : Thread := { agent := s.scalarAgent g, lw := g.lw, lcore := s.lcoreOf g }
def unitThread : Thread := { agent := .unit, lw := 0, lcore := 0 }
def hostThread (port : Nat) : Thread := { agent := .host port, lw := 0, lcore := 0 }

def State.joinView (s : State) (a : Agent) (v : View) : State := { s with order := s.order.joinView a v }
/-- What the lanes of a group know and have written. -/
def State.lanesHands (s : State) (g : Group) : View := (s.order.lanesView g.gid (s.lg g)).withAll (s.lanesAgent g) s.order.stamp
/-- What both streams of a group know and have written. -/
def State.groupHands (s : State) (g : Group) : View := (s.lanesHands g).join (s.order.hands (s.scalarAgent g))
/-- Both streams of a group come to know (17 R360). -/
def State.groupJoin (s : State) (g : Group) (v : View) : State := (s.joinView (s.lanesAgent g) v).joinView (s.scalarAgent g) v

-- ### Reads

/-- How a thread reads: its scope, what it knows, the own stores it does not count on, whether it is a group on the core that holds the scratchpad it
reads, and whether it always reads the newest write. -/
structure Reader where
  th     : Thread
  scope  : Nat
  view   : View
  holes  : List Nat
  own    : Bool
  newest : Bool
deriving DecidableEq, Repr

/-- The stoker, the signal unit, a COPY packet and a host processor read the newest write (notes/assumptions/5). -/
def Reader.latest (t : Thread) : Reader := { th := t, scope := scopeSystem, view := View.fresh, holes := [], own := false, newest := true }

/-- Whether the reader's access to a byte comes after a write of it (17 R355): its own writes, whichever lane of its group made them (13 R284), what it knows, and in
a scratchpad of its own core the writes of that core's groups (R279). -/
def Reader.knows (r : Reader) (v : Version) : Bool :=
  !r.holes.contains v.stamp && (v.src.agent.key == r.th.agent.key || v.stamp ≤ r.view.base || r.view.extra.contains v.stamp
    || r.view.bytes.contains (v.stamp, v.loc)
    || (r.view.upto.any fun x => x.1 == v.src.agent.key && v.stamp ≤ x.2)
    || (r.own && v.src.agent.group?.isSome && v.src.lw == r.th.lw))
/-- Whether the access and a write that it does not know race (17 R363). -/
def Reader.races (r : Reader) (v : Version) : Bool := !r.knows v && !inScope r.scope r.th v.scope v.src

/-- The writes down to the newest that the reader knows. -/
def Reader.above (r : Reader) : List Version → List Version
  | [] => []
  | v :: vs => if r.knows v then [v] else v :: r.above vs
/-- The writes that a read of one byte may return (17 R355, R363). -/
def Reader.choices (r : Reader) (vs : List Version) : List Version :=
  let up := r.above vs
  up ++ (vs.drop up.length).filter r.races

def Order.versions (o : Order) (l : Loc) : List Version := (o.hist.lookup l).getD []

/-- The choices for one byte of an access that must take all its bytes from a write of its own address and size or none (17 R355): of such writes only those up to
`cut` count, and none that is older than the newest of them, but for the writes that race. -/
def Reader.within (r : Reader) (acc : Nat × Nat) (cut : Nat) (vs : List Version) : List Version :=
  let whole (v : Version) : Bool := v.acc == acc && !r.races v
  let seen := vs.filter fun v => !(whole v && cut < v.stamp)
  let floor := ((seen.filter whole).map Version.stamp).foldl max 0
  seen.filter fun v => floor ≤ v.stamp || r.races v
/-- The stamps at which an access may be cut: those of writes of its address and size that every byte allows. -/
def Reader.cuts (r : Reader) (acc : Nat × Nat) (bytes : List (List Version)) : List Nat :=
  let whole (v : Version) : Bool := v.acc == acc && !r.races v
  let floor := (bytes.filterMap fun vs => (vs.find? fun v => whole v && r.knows v).map Version.stamp).foldl max 0
  (((bytes.flatMap id).filter whole).map Version.stamp).eraseDups.filter (floor < ·) ++ [floor]

/-- One of several choices, by a free value; a single one is no choice. -/
def pickFrom {α : Type} (free salt : Nat) : List α → Option α
  | [] => none
  | [x] => some x
  | xs => xs[Config.stale free salt % max xs.length 1]?

/-- What an access of up to eight bytes returns at `locs`: of each byte the write, none where nothing has written it. -/
def Order.pick (o : Order) (r : Reader) (free salt : Nat) (acc : Nat × Nat) (locs : List Loc) : List (Option Version) :=
  if r.newest then locs.map fun l => (o.versions l).head?
  else
  let bytes := locs.map fun l => r.choices (o.versions l)
  let cut := (pickFrom free (salt + 8 * 2 ^ 20) (r.cuts acc bytes)).getD 0
  bytes.zipIdx.map fun b => pickFrom free (salt + b.2) (r.within acc cut b.1)

/-- The core on which a thread runs, none of one that is no stream of a group. -/
def Thread.onCore (t : Thread) : Option Nat := t.agent.group?.map fun _ => t.lcore
/-- A release sequence's message is taken by an acquire at a scope (17 R359); one of another core also where its release does not reach the acquirer (R361). -/
def takesMsg (t : Thread) (scope : Nat) (glob : Bool) (m : Msg) : Bool :=
  inScope scope t m.scope m.src || (glob && scopeDevice ≤ scope && m.src.onCore.isSome && t.onCore != m.src.onCore && inInstance scope t m.src)

/-- What a thread has met in a read: the bytes of writes, the messages that an acquire may take (17 R359), and for reads of global memory at scope .cluster or wider
the writes at such a scope, with their bytes, and the stamp found at every byte (R357); the bytes that a group of the core that holds the scratchpad has met there
(13 R279). -/
structure Seen where
  stamps : List (Nat × Loc)
  msgs   : List (Bool × Msg)
  obs    : List (Nat × Loc)
  found  : List (Loc × Nat)
  bank   : List (Nat × Loc)
deriving DecidableEq, Repr
def Seen.none : Seen := { stamps := [], msgs := [], obs := [], found := [], bank := [] }
def Seen.append (a b : Seen) : Seen :=
  { stamps := a.stamps ++ b.stamps, msgs := a.msgs ++ b.msgs, obs := a.obs ++ b.obs, found := a.found ++ b.found, bank := a.bank ++ b.bank }
/-- A byte and the others of its 4-byte word, which a bank serves together (13 R279). -/
def Loc.word (l : Loc) : List Loc := (List.range 4).map fun i => { l with at_ := l.at_ / 4 * 4 + i }
/-- The same, met by a group of the core that holds the scratchpad. -/
def Seen.banked (x : Seen) : Seen := { x with bank := x.stamps.flatMap fun y => y.2.word.map fun l => (y.1, l) }
/-- What a reader has seen in some writes of some bytes. -/
def Reader.seen (r : Reader) (glob : Bool) (xs : List (Loc × Option Version)) : Seen :=
  let vs := xs.filterMap Prod.snd
  let wide := scopeCluster ≤ r.scope && glob
  { stamps := ((vs.filter fun v => !r.races v && v.stamp != 0).map fun v => (v.stamp, v.loc)).eraseDups,
    msgs := (vs.flatMap fun v => v.rel.map fun m => (glob, m)).eraseDups,
    obs := if wide then xs.filterMap fun x => match x.2 with
      | some v => if scopeCluster ≤ v.scope && v.stamp != 0 then some (v.stamp, x.1) else none
      | none => none else [],
    found := if wide then xs.map fun x => (x.1, (x.2.map Version.stamp).getD 0) else [], bank := [] }

/-- The writes that a read of a thread at scope .cluster or wider comes after because another thread has observed them before an older state of a byte in which it
has observed a newer one (17 R357). -/
def Order.agreed (o : Order) (a : Agent) : List Nat :=
  let seen := (o.obs.lookup a).getD []
  (o.mca.filter fun x => seen.any fun y => y.2 == x.2.1 && x.2.2 < y.1).map Prod.fst
/-- The writes that a thread has observed before an acquire, and then the stamps that it finds (17 R357). -/
def Order.orderReads (o : Order) (a : Agent) (found : List (Loc × Nat)) : Order :=
  let seen := ((o.obs.lookup a).getD []).map Prod.fst
  { o with mca := (seen.flatMap fun x => found.map fun f => (x, f.1, f.2)).filter (fun x => !o.mca.contains x) ++ o.mca }
/-- What a thread has observed now comes before its later reads: it has acquired (17 R357). -/
def Order.observe (o : Order) (a : Agent) (xs : List (Nat × Loc)) : Order :=
  if xs.isEmpty then o else
  let old := (o.obs.lookup a).getD []
  { o with obs := assocPut a (old ++ xs.filter fun x => !old.contains x) o.obs }
/-- The lanes of a group have read some writes (13 R284). -/
def Order.noteCoh (o : Order) (gl : Nat × Nat) (xs : List (Nat × Loc)) : Order :=
  if xs.isEmpty then o else
  let old := (o.coh.lookup gl).getD []
  { o with coh := assocPut gl (old ++ xs.filter fun x => !old.contains x) o.coh }
/-- A group of the core that holds a scratchpad has read some writes there: they have been performed at its banks (13 R279). -/
def Order.noteBank (o : Order) (xs : List (Nat × Loc)) : Order :=
  if xs.isEmpty then o else { o with bank := o.bank ++ xs.filter fun x => !o.bank.contains x }

-- ### Writes

/-- How a write is made: the source that a doorbell names (03 R48), the thread, the scope, the messages of a release, whether it is an atomic. -/
structure Writer where
  bell  : Nat
  th    : Thread
  scope : Nat
  rel   : List Msg
  rmw   : Bool
deriving DecidableEq, Repr
def Writer.unit : Writer := { bell := 0xFFFF, th := unitThread, scope := scopeSystem, rel := [], rmw := false }
/-- A host processor behind a port: its writes hand on its earlier ones and what it has read (17 R366; DESIGN CHOICE, notes/assumptions/5). -/
def State.hostWriter (s : State) (port : Nat) : Writer :=
  { bell := port, th := hostThread port, scope := scopeSystem, rel := [{ src := hostThread port, scope := scopeSystem, view := s.order.hands (.host port) }], rmw := false }

/-- A byte's new write over what was there (17 R355, R358): an atomic goes on with the release sequences that its predecessor belongs to. -/
def Order.put (o : Order) (w : Writer) (acc : Nat × Nat) (l : Loc) (old new : Byte) : Order :=
  let vs := match o.hist.lookup l with
    | some vs => vs
    | none => [{ loc := l, stamp := 0, src := unitThread, scope := scopeSystem, rel := [], acc := (0, 0), val := old }]
  let go := if w.rmw then (vs.head?.map Version.rel).getD [] else []
  { o with hist := assocPut l ({ loc := l, stamp := o.stamp, src := w.th, scope := w.scope, rel := w.rel ++ go, acc := acc, val := new } :: vs) o.hist }
/-- The bytes of one write, each with what it replaces; the write takes the next stamp. -/
def Order.write (o : Order) (w : Writer) (acc : Nat × Nat) (bs : List (Loc × Byte × Byte)) : Order :=
  bs.foldl (fun o b => o.put w acc b.1 b.2.1 b.2.2) { o with stamp := o.stamp + 1 }
/-- The writes of the scratchpad of a workgroup forgotten: it is gone, or a save has left free values in it. -/
def Order.dropSpad (o : Order) (gid lw : Nat) : Order :=
  { o with hist := o.hist.filter fun x => x.1.spad != some (gid, lw), bank := o.bank.filter fun x => x.2.spad != some (gid, lw) }
/-- The stamps that writes have taken. -/
def stampsFrom (before after : Nat) : List Nat := (List.range (after - before)).map fun i => before + 1 + i

-- ### Translation entries

/-- The stamp of the newest completed invalidation that covers an address of a context (13 R276). -/
def Order.lastInval (o : Order) (ctx va : Nat) : Nat :=
  ((o.invals.filter fun i => i.ctx == ctx && i.lo ≤ va && va < i.hi).map Inval.stamp).foldl max 0
/-- An invalidation of a range of a context has completed. -/
def State.invalidate (s : State) (ctx lo hi : Nat) : State :=
  { s with order := { s.order with invals := { ctx := ctx, lo := lo, hi := hi, stamp := s.order.stamp } :: s.order.invals } }
/-- The values of a word of some bytes, whole, since a stamp: the one at the stamp, and every later one. -/
def Order.wordChoices (o : Order) (m : Memory) (floor : Nat) (as : List Nat) : List Nat :=
  let stamps := ((as.flatMap fun a => (o.versions { spad := none, at_ := a }).map Version.stamp).filter (floor < ·)).eraseDups
  let at_ (t : Nat) : Nat := leNat (as.map fun a =>
    match (o.versions { spad := none, at_ := a }).find? fun v => v.stamp ≤ t with
    | some v => v.val
    | none => memGet m a)
  at_ floor :: stamps.map at_
/-- The values of an entry that an access may use: the newest from before the last invalidation, and every later one. -/
def Order.entryChoices (o : Order) (m : Memory) (floor a : Nat) : List Nat := o.wordChoices m floor ((List.range 8).map (a + ·))
/-- The entry at an address as an access through a context uses it (13 R276): until an invalidation completes, the old one or the new one. -/
def State.pte (s : State) (ctx va a : Nat) : Nat :=
  let cs := s.order.entryChoices s.mem (s.order.lastInval ctx va) a
  (pickFrom s.free (16 * 2 ^ 20 + a) cs).getD (memNat s.mem a 8)
/-- Translation through a context as the tables and the TLBs have it (13 R275, R276). -/
def State.translate (s : State) (ctx need va : Nat) : Except Nat Nat := Machine.translate (s.pte ctx) (s.svc.ctx ctx).troot need va
def State.translateRange (s : State) (ctx need va n : Nat) : Except (Nat × Nat) (List Nat) :=
  Machine.translateRange (s.pte ctx) (s.svc.ctx ctx).troot need va n

end Sys2Proof.Machine
end

