-- ==== Sys2Proof/Machine/Access.lean ====
section
/-!
DEFINITION. Accesses of groups to global memory and scratchpads (13 R270-R275, R284-R286): checks by lane, loads and stores, the doorbell page
(03 R47), host memory with its link (20 R397-R399), the buffered stores of ordered tasks (19 R385-R388), code fetches (07 R462).
-/
namespace Sys2Proof.Machine

/-- A fault of a word: cause of 22 R418, FADDR, DETAIL, and FSPC (12 R266). -/
structure Flt where
  code   : Nat
  addr   : Nat
  detail : Nat := 0
  fspc   : Nat := 0
deriving DecidableEq, Repr

/-- The register designation of 12 R244. -/
def designation (kind idx : Nat) : Nat := 2 ^ 63 + kind * 2 ^ 16 + idx % 2 ^ 8

/-- The doorbell that a write of eight bytes at a physical address rings (03 R47). -/
def bellOf (s : State) (p n : Nat) : Option Nat :=
  if s.svc.dbbase ≠ 0 ∧ n = 8 ∧ s.svc.dbbase ≤ p ∧ p < s.svc.dbbase + 8 * 65536 ∧ (p - s.svc.dbbase) % 8 = 0 then some ((p - s.svc.dbbase) / 8)
  else none

/-- The address of an entry of a context's window table (20 R400). -/
def winEntry (c : Ctx) (w : Nat) : Nat := c.wint + 32 * w
/-- Whether a write sets VALID of the window of these counts, which sets them to 0 (20 R401). -/
def windowSet (ctxs : List (Nat × Ctx)) (old new : Memory) (p n : Nat) (w : WinCnt) : Bool :=
  match ctxs.lookup w.ctx with
  | none => false
  | some c =>
    let f := winEntry c w.win + 0x13
    c.wint != 0 && p ≤ f && f < p + n && !(memGet old f).getLsbD 0 && (memGet new f).getLsbD 0

/-- The bytes of a write at an address with what they replace. -/
def globBytes (m : Memory) (p : Nat) (bs : List Byte) : List (Loc × Byte × Byte) :=
  bs.zipIdx.map fun b => ({ spad := none, at_ := p + b.2 }, memGet m (p + b.2), b.1)

/-- Bytes written at a physical address: a doorbell, or memory. A write to host memory whose link is down is dropped (20 R399). -/
def State.putBytes (s : State) (w : Writer) (p : Nat) (bs : List Byte) : State :=
  match bellOf s p bs.length with
  | some q => { s with stoker := { s.stoker with bells := s.stoker.bells ++ [(q, BitVec.ofNat 64 (leNat bs), w.bell)] } }
  | none =>
    if isHost p && !((s.svc.ports.getD (hostPort p) Port.reset).up) then s
    else
      let mem := memWrite s.mem p bs
      { s with mem := mem, order := s.order.write w (p, bs.length) (globBytes s.mem p bs),
               eccBad := s.eccBad.filter fun a => !(p ≤ a && a < p + bs.length),
               svc := { s.svc with wins := s.svc.wins.filter fun w => !windowSet s.svc.ctxs s.mem mem p bs.length w } }

def linkUp (s : State) (p : Nat) : Bool := !isHost p || (s.svc.ports.getD (hostPort p) Port.reset).up

/-- Whether a range holds an uncorrectable error (1), or lies behind a link that is down (2). -/
def errOf (s : State) (p n : Nat) : Nat :=
  if !linkUp s p then 2 else if s.eccBad.any fun a => p ≤ a && a < p + n then 1 else 0

/-- The same of a read inside an ordered task: bytes that its buffer holds are not read from memory (19 R385). -/
def errIn (s : State) (t : Option Task) (p n : Nat) : Nat :=
  match t with
  | none => errOf s p n
  | some t =>
    let out := ((List.range n).map (p + ·)).filter fun a => (t.buf.lookup a).isNone
    if out.isEmpty then 0 else if !linkUp s p then 2 else if s.eccBad.any out.contains then 1 else 0

/-- The scratchpad of a workgroup. -/
def State.spadOf (s : State) (gid lw : Nat) : Memory := ((s.wg? gid lw).map Wg.spad).getD []
/-- Bytes written to a scratchpad. -/
def State.putSpad (s : State) (w : Writer) (gid lw off : Nat) (bs : List Byte) : State :=
  let old := s.spadOf gid lw
  { (s.modWg gid lw fun x => { x with spad := memWrite x.spad off bs }) with
    order := s.order.write w (off, bs.length) (bs.zipIdx.map fun b => ({ spad := some (gid, lw), at_ := off + b.2 }, memGet old (off + b.2), b.1)) }

/-- What a location holds now. -/
def State.byteNow (s : State) (l : Loc) : Byte :=
  match l.spad with
  | none => memGet s.mem l.at_
  | some x => memGet (s.spadOf x.1 x.2) l.at_
/-- What a write of a location left there: the newest is what the location holds. -/
def State.versionByte (s : State) (l : Loc) (v : Option Version) : Byte :=
  match v with
  | none => s.byteNow l
  | some v => if (s.order.versions l).head? = some v then s.byteNow l else v.val
/-- A byte as a read returns it: the task's own store, the write that the read picks, a free value for an uncorrectable error. -/
def State.byteOf (s : State) (t : Option Task) (salt : Nat) (l : Loc) (v : Option Version) : Byte :=
  let got := s.versionByte l v
  if l.spad.isSome then got
  else match t.bind fun t => t.buf.lookup l.at_ with
    | some b => b
    | none => if errOf s l.at_ 1 = 0 then got else Config.freeByte (s.free * 2 ^ 16 + salt)
/-- The writes that a read returns, up to eight bytes at a time (13 R285). -/
def State.pickAll (s : State) (r : Reader) (salt : Nat) (ls : List Loc) : List (Option Version) :=
  (List.range ((ls.length + 7) / 8)).flatMap fun i =>
    let c := (ls.drop (8 * i)).take 8
    s.order.pick r s.free (salt + 8 * i) ((c.head?.map Loc.at_).getD 0, c.length) c
/-- A read: its bytes, and what the reader has seen. -/
def State.readLocs (s : State) (t : Option Task) (r : Reader) (salt : Nat) (ls : List Loc) : List Byte × Seen :=
  let vs := s.pickAll r salt ls
  ((ls.zip vs).zipIdx.map fun x => s.byteOf t (salt + x.2) x.1.1 x.1.2, r.seen (ls.all fun l => l.spad.isNone) (ls.zip vs))

def globLocs (p n : Nat) : List Loc := (List.range n).map fun i => { spad := none, at_ := p + i }
/-- Bytes as the module and the host read them: the newest write. -/
def loadBytes (s : State) (salt p n : Nat) : List Byte := (s.readLocs none (Reader.latest unitThread) salt (globLocs p n)).1

/-- The task of a group's workgroup. -/
def State.taskOf (s : State) (g : Group) : Option Task := (s.wg? g.gid g.lw).bind Wg.task
def State.modTask (s : State) (g : Group) (f : Task → Task) : State := s.modWg g.gid g.lw fun w => { w with task := w.task.map f }

/-- The lines of an ordered task's store buffer (19 R385). -/
def bufLines (buf : List Host.Cell) : List Nat := (buf.map fun c => c.1 / 128).eraseDups
/-- The order of task keys (19 R380). -/
def keyLt (a b : BitVec 48 × Nat) : Bool := a.1 < b.1 || (a.1 == b.1 && a.2 < b.2)
def Task.key (t : Task) : BitVec 48 × Nat := (t.ts, t.seq)
/-- The keys of the uncommitted tasks of a set: not placed, resident, saved, resuming. -/
def State.taskKeys (s : State) (gid : Nat) : List (BitVec 48 × Nat) :=
  (((s.grid? gid).map Grid.tasks).getD []).map (fun k => (k.ts, k.seq))
    ++ (s.wgs.filter fun w => w.gid == gid).filterMap (fun w => w.task.map Task.key)
    ++ ((s.saved ++ s.resuming).filter fun r => r.wg.gid == gid).filterMap fun r => r.wg.task.map Task.key
/-- Whether a task is the head of its set (19 R380). -/
def State.isHead (s : State) (gid : Nat) (t : Task) : Bool := (s.taskKeys gid).all fun k => !keyLt k t.key

/-- A workgroup taken from the machine with its groups and without a save (19 R387, 26 CUT and ENDGRID). -/
def State.removeWg (s : State) (gid lw : Nat) : State :=
  let slots := (s.wgGroups gid lw).map Group.slot
  let s := slots.foldl State.removeGroup s
  { s with order := s.order.dropSpad gid lw, wgs := s.wgs.filter fun w => !w.is gid lw, saved := s.saved.filter fun r => !r.wg.is gid lw,
           resuming := s.resuming.filter fun r => !r.wg.is gid lw, jobs := s.jobs.filter fun j => !(j.gid == gid && j.lw == lw) }

/-- The abort of a task (19 R387): its workgroup is removed without a save, the task becomes a candidate again. -/
def State.abortTask (s : State) (gid : Nat) (lw : Nat) (t : Task) : State :=
  (s.removeWg gid lw).modGrid gid fun d => { d with tasks := d.tasks ++ [{ ts := t.ts, seq := t.seq, arg := t.arg }] }

/-- Every placed, uncommitted task of a higher key whose signature holds one of the lines is aborted (19 R387). -/
def State.abortReaders (s : State) (gid : Nat) (key : BitVec 48 × Nat) (lines : List Nat) : State :=
  let ws := s.wgs ++ (s.saved ++ s.resuming).map SavedWg.wg
  let hit := ws.filterMap fun w =>
    if w.gid == gid then w.task.bind fun t => if keyLt key t.key && t.reads.any lines.contains then some (w.lw, t) else none else none
  hit.foldl (fun s p => s.abortTask gid p.1 p.2) s

/-- Buffered cells as maximal stores of consecutive bytes, so that a buffered doorbell write stays one write of eight bytes. -/
def bufRuns (buf : List Host.Cell) : List (Nat × List Byte) :=
  buf.foldr (fun c runs => match runs with
    | (a, bs) :: rest => if c.1 + 1 = a && a % 8 ≠ 0 then (c.1, c.2 :: bs) :: rest else (c.1, [c.2]) :: runs
    | [] => [(c.1, [c.2])]) []

/-- The buffered lines performed in memory at device scope (19 R386, R388), and the readers of them aborted. It is a release of everything that the task has done: an
acquire that meets one of its bytes comes after all of them. -/
def State.performTask (s : State) (g : Group) (t : Task) : State :=
  let runs := bufRuns t.buf
  let a := s.scalarAgent g
  let msg : Msg := { src := s.scalarThread g, scope := scopeDevice, view := (s.groupHands g).withAll a (s.order.stamp + runs.length) }
  let w : Writer := { bell := 0xFFFF, th := s.scalarThread g, scope := scopeDevice, rel := [msg], rmw := false }
  (runs.foldl (fun s r => s.putBytes w r.1 r.2) s).abortReaders g.gid t.key (bufLines t.buf)

/-- Lines of tasks in the speculation store of a die (19 R385), those of saved tasks included (R390). A line stays in the store of the die on which the task ran when it
stored there first, also when the task goes on elsewhere (DESIGN CHOICE, notes/assumptions/67). -/
def State.specLines (s : State) (die : Nat) : Nat :=
  ((s.wgs ++ (s.saved ++ s.resuming).map SavedWg.wg).map fun w => match w.task with
    | some t => t.dies.countP fun x => x.2 == die
    | none => 0).sum
/-- A store into a task's buffer on a die. -/
def Task.store (t : Task) (die p : Nat) (bs : List Byte) : Task :=
  let buf := bufWrite t.buf p bs
  { t with buf := buf, dies := t.dies ++ ((bufLines buf).filter fun l => (t.dies.lookup l).isNone).map fun l => (l, die) }

/-- Whether a workgroup may store to these ranges now (19 R388): no task, or the lines fit; or the task is the head, whose lines are then
performed and whose stores are direct from here on; none while it must stall. -/
def State.storeRoom (s : State) (g : Group) (ranges : List (Nat × Nat)) : Option State :=
  match s.taskOf g with
  | none => some s
  | some t =>
    if t.direct then some s
    else
      let new := (ranges.flatMap fun r => [r.1 / 128, (r.1 + r.2 - 1) / 128]).eraseDups
      let have_ := bufLines t.buf
      let extra := (new.filter fun l => !have_.contains l).length
      if extra = 0 || (have_.length + extra ≤ 64 && s.specLines (coreDie g.core) + extra ≤ 2048) then some s
      else if s.isHead g.gid t then some ((s.performTask g t).modTask g fun t => { t with buf := [], dies := [], direct := true })
      else none

/-- A store of a group to a physical address: into its task's buffer, or performed; a direct store of the head is performed at device scope (19 R388) and
aborts the readers of its line. -/
def State.storeGlob (s : State) (g : Group) (w : Writer) (p : Nat) (bs : List Byte) : State :=
  match s.taskOf g with
  | none => s.putBytes w p bs
  | some t =>
    if t.direct then (s.putBytes { w with scope := scopeDevice } p bs).abortReaders g.gid t.key [p / 128, (p + bs.length - 1) / 128]
    else s.modTask g fun t => t.store (coreDie g.core) p bs

/-- The lines of loads enter the read signature of a task (19 R385). -/
def State.noteReads (s : State) (g : Group) (ps : List (Nat × Nat)) : State :=
  match s.taskOf g with
  | none => s
  | some _ => s.modTask g fun t => { t with reads := (t.reads ++ ps.flatMap fun (r : Nat × Nat) => [r.1 / 128, (r.1 + r.2 - 1) / 128]).eraseDups }

-- ### What the streams of a group know

/-- What the scalar stream knew at the LRUN of the group's run (17 R352). -/
def Group.runView (g : Group) : View :=
  match g.runq with
  | r :: _ => r.view
  | [] => View.fresh
/-- What a lane knows: what all lanes of its group know, what it knows besides, and what the scalar stream knew at the LRUN of their run (17 R352). -/
def State.laneView (s : State) (g : Group) (l : Nat) : View :=
  ((s.order.view (s.lanesAgent g)).join (s.order.view (s.laneAgent g l))).join g.runView
/-- What the lanes of a group know together. -/
def State.lanesView (s : State) (g : Group) : View := (s.order.lanesView g.gid (s.lg g)).join g.runView
/-- What every access of a group at device scope comes after: what had been performed before its last PIN (13 R297). -/
def State.pinView (s : State) (g : Group) : View := (s.order.devs.lookup (g.gid, s.lg g)).getD View.fresh
/-- What a read of the lanes comes after besides: their earlier reads (13 R284), and at device scope the last PIN. -/
def State.readView (s : State) (g : Group) (scope : Nat) (v : View) : View :=
  let v := v.withBytes ((s.order.coh.lookup (g.gid, s.lg g)).getD [])
  if scopeDevice ≤ scope then v.join (s.pinView g) else v
/-- A lane, and the scalar stream, as readers. Inside an ordered task every read returns the newest bytes (19 R385). -/
def State.laneReader (s : State) (g : Group) (l scope : Nat) : Reader :=
  let v := s.readView g scope (s.laneView g l)
  { th := s.laneThread g l, scope := scope, view := if scopeCluster ≤ scope then v.withSome (s.order.agreed (s.laneAgent g l)) else v, holes := [], own := false,
    newest := (s.taskOf g).isSome }
/-- A read that the group makes as a whole: an MMQ's (15 R328). -/
def State.lanesReader (s : State) (g : Group) (scope : Nat) : Reader :=
  { th := s.lanesThread g, scope := scope, view := s.readView g scope (s.lanesView g), holes := [], own := false, newest := (s.taskOf g).isSome }
def State.scalarReader (s : State) (g : Group) : Reader :=
  { th := s.scalarThread g, scope := scopeDevice,
    view := ((s.order.view (s.scalarAgent g)).join (s.pinView g)).withSome (s.order.agreed (s.scalarAgent g)), holes := [], own := false,
    newest := (s.taskOf g).isSome }

def View.isFresh (v : View) : Bool := v.base == 0 && v.upto.isEmpty && v.extra.isEmpty && v.bytes.isEmpty
/-- A thread comes to know something, or nothing. -/
def Order.learn (o : Order) (a : Agent) (v : View) : Order := if v.isFresh then o else o.joinView a v
/-- What a counted word of a number leaves for a WAITC to prove (17 R352, R357). -/
def Group.oweAs (g : Group) (id : Nat) (ctr : BitVec 4) (gain : View) (rels : List Msg) (obs : List (Nat × Loc)) : Group :=
  if ctr.toNat < 12 && !(gain.isFresh && rels.isEmpty && obs.isEmpty) then
    { g with slack := g.slack ++ [{ id := id, ctr := ctr, waited := false, stores := [], gain := gain, rels := rels, obs := obs }] }
  else g
/-- What the scalar stream had observed before the run of a word that acquires (17 R357). -/
def Group.acqObs (g : Group) (acq : Option Nat) : List (Nat × Loc) :=
  match acq, g.runq with
  | some _, r :: _ => r.obs
  | _, _ => []
/-- The same of the word that is about to issue, which acquires or not. -/
def Group.owe (g : Group) (ctr : BitVec 4) (acq : Option Nat) (gain : View) (rels : List Msg) : Group := g.oweAs g.nextId ctr gain rels (g.acqObs acq)
/-- Of what a task's read has met, the messages of the set's commits: reading what one has performed is an acquire (19 R386). -/
def State.commitMsgs (s : State) (g : Group) (ms : List (Bool × Msg)) : List (Bool × Msg) :=
  if (s.taskOf g).isSome then ms.filter fun m => (m.2.src.agent.group?.map Prod.fst) == some g.gid else []
/-- What some messages that a thread may take at a scope make known to it (17 R359, R361). -/
def gained (t : Thread) (scope : Nat) (ms : List (Bool × Msg)) (v : View) : View :=
  (ms.filter fun m => takesMsg t scope m.1 m.2).foldl (fun v m => v.join m.2.view) v

/-- The entry of acquire fences for what the group has read as a whole. -/
abbrev everyLane : Nat := 32
/-- A read of a lane recorded (17 R355, R357, R359): what it returned is known to the lane from now on; an acquire at a scope takes its messages, and a later
fence may. The last part is what it has made known. -/
def State.laneSaw (s : State) (g : Group) (acq : Option Nat) (l : Nat) (x : Seen) : State × Group × View :=
  let a := s.laneAgent g l
  let got := gained (s.laneThread g l) scopeDevice (s.commitMsgs g x.msgs) (View.fresh.withBytes x.stamps)
  let got := match acq with
    | none => got
    | some sc => gained (s.laneThread g l) sc x.msgs got
  let o := (((s.order.learn a got).noteCoh (g.gid, s.lg g) x.stamps).noteBank x.bank).orderReads a x.found
  let mine := (g.obsv.filter fun y => y.1 == l || y.1 == everyLane).map Prod.snd
  ({ s with order := if acq.isSome then o.observe a (mine ++ x.obs) else o },
   { g with acqv := g.acqv ++ (x.msgs.map fun m => (l, m)).filter (fun m => !g.acqv.contains m),
            obsv := if acq.isSome then g.obsv.filter fun y => y.1 != l else g.obsv ++ (x.obs.map fun y => (l, y)).filter fun y => !g.obsv.contains y }, got)
/-- The reads of the lanes of a word recorded, in lane order; `v` is what the word has learned before (17 R362). -/
def State.lanesSee (s : State) (g : Group) (acq : Option Nat) (v : View) (xs : List (Nat × Seen)) : State × Group × View :=
  xs.foldl (fun (a : State × Group × View) x => let b := a.1.laneSaw a.2.1 acq x.1 x.2; (b.1, b.2.1, a.2.2.join b.2.2)) (s, g, v)
/-- The same of the word that is about to issue on a counter. -/
def State.lanesSaw (s : State) (g : Group) (ctr : BitVec 4) (acq : Option Nat) (v : View) (xs : List (Nat × Seen)) : State × Group :=
  let r := s.lanesSee g acq v xs
  (r.1, r.2.1.owe ctr acq r.2.2 [])
/-- A read that the group makes as a whole recorded: it stands in the program order of every lane. -/
def State.groupSaw (s : State) (g : Group) (ctr : BitVec 4) (x : Seen) : State × Group :=
  let got := gained (s.lanesThread g) scopeDevice (s.commitMsgs g x.msgs) (View.fresh.withBytes x.stamps)
  let o := (s.order.learn (s.lanesAgent g) got).noteCoh (g.gid, s.lg g) x.stamps
  let o := if o.obs.isEmpty then o else (List.range 32).foldl (fun (o : Order) l => o.orderReads (s.laneAgent g l) x.found) o
  ({ s with order := o },
   { g with acqv := g.acqv ++ (x.msgs.map fun m => (everyLane, m)).filter (fun m => !g.acqv.contains m),
            obsv := g.obsv ++ (x.obs.map fun y => (everyLane, y)).filter fun y => !g.obsv.contains y }.owe ctr none got [])
/-- A read of the scalar stream recorded (17 R355, R357). -/
def State.scalarSaw (s : State) (g : Group) (x : Seen) : State × Group :=
  let a := s.scalarAgent g
  let got := gained (s.scalarThread g) scopeDevice (s.commitMsgs g x.msgs) (View.fresh.withBytes x.stamps)
  ({ s with order := (s.order.learn a got).orderReads a x.found },
   { g with heard := g.heard ++ x.msgs.filter (fun m => !g.heard.contains m), sobs := g.sobs ++ x.obs.filter fun y => !g.sobs.contains y })

/-- Release fences that the scalar stream now knows complete: its later stores hand them on (17 R358). -/
def Group.takeRels (g : Group) (ms : List Msg) : Group :=
  { g with srelv := ms.foldl (fun old m => m :: old.filter fun x => x.scope != m.scope) g.srelv }
/-- Whether a zero count of a counter proves a word complete to a WAITC (07 R140, 08 R164): not one that issues in the same FCLK. -/
def Group.proven (g : Group) (fclk : Nat) (k : BitVec 4) (x : Slack) : Bool :=
  x.ctr == k && !(x.id + 1 == g.nextId && g.last == some (fclk, k))
/-- The scalar stream comes to know what the words on a counter have learned and stored (17 R352, 08 R157, R164), and those words alone (13 R287); what it had observed
before one that acquires comes before its later reads (17 R357). -/
def State.awaited (s : State) (g : Group) (k : BitVec 4) : State × Group :=
  let done := g.slack.filter (g.proven s.fclk k)
  let v := done.foldl (fun (v : View) (x : Slack) => (v.join x.gain).withSome x.stores) View.fresh
  ({ s with order := (s.order.learn (s.scalarAgent g) v).observe (s.scalarAgent g) (done.flatMap Slack.obs) },
   { g with slack := g.slack.filter fun x => !g.proven s.fclk k x }.takeRels (done.flatMap Slack.rels))
/-- What the scalar stream had observed before its group's acquires comes before its later reads (17 R357): they are complete. -/
def State.scalarObserves (s : State) (g : Group) : State := { s with order := s.order.observe (s.scalarAgent g) (g.slack.flatMap Slack.obs) }
/-- The scalar stream comes to know every lane access so far (08 R165, 13 R297). -/
def State.allAwaited (s : State) (g : Group) : State × Group :=
  ((s.joinView (s.scalarAgent g) (s.lanesHands g)).scalarObserves g, { g with slack := [] }.takeRels (g.slack.flatMap Slack.rels))
/-- An acquire of a group as a whole: what its lanes and its scalar stream have observed comes before their later reads (17 R357). -/
def State.groupObserves (s : State) (g : Group) : State × Group :=
  let o := if g.obsv.isEmpty then s.order else (List.range 32).foldl (fun (o : Order) l =>
    o.observe (s.laneAgent g l) ((g.obsv.filter fun y => y.1 == l || y.1 == everyLane).map Prod.snd)) s.order
  ({ s with order := o.observe (s.scalarAgent g) g.sobs }, { g with obsv := [], sobs := [] })

/-- The message of a release of a lane at a scope (17 R358): what the lane knows, and every store of its group (13 R287). -/
def State.laneMsg (s : State) (g : Group) (l scope : Nat) : Msg :=
  { src := s.laneThread g l, scope := scope, view := (s.laneView g l).withAll (s.lanesAgent g) s.order.stamp }
/-- What a release fence hands on with a later store of a lane. -/
def State.fenceMsg (s : State) (g : Group) (l : Nat) (f : Fence) : Msg :=
  { src := s.laneThread g l, scope := f.scope, view := f.view.join ((f.priv.lookup l).getD View.fresh) }
/-- A lane as a writer: a release hands on its message, and so does every store after a release fence. -/
def State.laneWriter (s : State) (g : Group) (l scope : Nat) (rel rmw : Bool) : Writer :=
  { bell := 0xFFFF, th := s.laneThread g l, scope := scope, rel := (if rel then [s.laneMsg g l scope] else []) ++ g.relv.map (s.fenceMsg g l), rmw := rmw }
def State.scalarWriter (s : State) (g : Group) : Writer :=
  { bell := 0xFFFF, th := s.scalarThread g, scope := scopeDevice, rel := g.srelv, rmw := false }

-- ### The order S of the .sc words (17 R362)

/-- What the words of S so far tell a thread at a scope; of those of one scope below .group, which lanes learn each by itself, or of the others. -/
def Order.scView (o : Order) (t : Thread) (scope : Nat) (narrow : Bool) : View :=
  (o.scs.filter fun m => (decide (m.scope < 2) == narrow) && inScope scope t m.scope m.src).foldl (fun (v : View) m => v.join m.view) View.fresh
/-- What the lanes of a group learn each by itself from the words of S of narrow scopes or of wide ones. -/
def State.joinScLanes (s : State) (g : Group) (scope : Nat) (narrow : Bool) (v : View) : State × View :=
  (List.range 32).foldl (fun (a : State × View) l =>
    let v := a.1.order.scView (s.laneThread g l) scope narrow
    ({ a.1 with order := a.1.order.learn (s.laneAgent g l) v }, a.2.join v)) (s, v)
/-- An .sc word takes its ticket: the earlier words of S with which it is mutually in scope synchronise with it; the state, and what it has learned. The lanes of a
group learn together from words of a scope that holds the group, where their own does. -/
def State.joinSc (s : State) (g : Group) (scope : Nat) : State × View :=
  let common := if scope < 2 then View.fresh else s.order.scView (s.lanesThread g) scope false
  let s := { s with order := s.order.learn (s.lanesAgent g) common }
  if s.order.scs.isEmpty then (s, common)
  else
    let a := s.joinScLanes g scope true common
    if scope < 2 then a.1.joinScLanes g scope false a.2 else a
/-- It has acted: later words of S learn what its lanes know and have written, its own access among it, by quarters (a word of quarter scope is mutually in scope with
a wider one of its group). A scope of one lane tells no other thread. -/
def State.tellSc (s : State) (g : Group) (scope : Nat) : State :=
  let quarter (q : Nat) : View :=
    if scope = 1 then (List.range 8).foldl (fun (v : View) i => v.join (s.laneView g (8 * q + i))) View.fresh else s.lanesView g
  let msgs : List Msg := if scope = 0 then [] else (List.range 4).map fun q =>
    { src := s.laneThread g (8 * q), scope := scope, view := (quarter q).withAll (s.lanesAgent g) s.order.stamp }
  { s with order := { s.order with scs := s.order.scs ++ msgs } }

-- ### Places

/-- The locations of a place of a group's grid, and whether its own core holds it (13 R279). -/
def Place.locs (g : Group) (pl : Place) (n : Nat) : List Loc :=
  match pl with
  | .glob p => globLocs p n
  | .spad lw off => (List.range n).map fun i => { spad := some (g.gid, lw), at_ := off + i }
def State.ownPlace (s : State) (g : Group) (pl : Place) : Bool :=
  match pl with
  | .glob _ => false
  | .spad lw _ => (s.wg? g.gid lw).any fun w => w.core == g.core
/-- A read of a place: the groups of the core that holds a scratchpad read in the order of their issue, each other's writes and what has been read at its banks before
(13 R279). -/
def State.readPlace (s : State) (g : Group) (r : Reader) (salt : Nat) (pl : Place) (n : Nat) : List Byte × Seen :=
  if s.ownPlace g pl then
    let x := s.readLocs (s.taskOf g) { r with own := true, view := r.view.withBytes s.order.bank } salt (pl.locs g n)
    (x.1, x.2.banked)
  else s.readLocs (s.taskOf g) r salt (pl.locs g n)
/-- How the lanes of a load read: each by itself; where one address serves all of them, once for all, after everything that any of them comes after (13 R283). The lane
whose draw it is, and the reader. -/
def servedBy (one : Bool) (rd : Nat → Reader) (ls : List Nat) : Nat → Nat × Reader :=
  match if one then ls.head? else none with
  | none => fun l => (l, rd l)
  | some f =>
    let r := { rd f with view := ls.foldl (fun (v : View) l => v.join (rd l).view) View.fresh }
    fun _ => (f, r)
/-- A write of up to eight bytes at a place. -/
def State.writePlace (s : State) (g : Group) (w : Writer) (pl : Place) (bs : List Byte) : State :=
  match pl with
  | .glob p => s.storeGlob g w p bs
  | .spad lw off => s.putSpad w g.gid lw off bs
def Place.plus (pl : Place) (n : Nat) : Place :=
  match pl with
  | .glob p => .glob (p + n)
  | .spad lw off => .spad lw (off + n)
/-- A store, of sixteen bytes as two halves (13 R285, R286). -/
def State.storePlace (s : State) (g : Group) (w : Writer) (pl : Place) (bs : List Byte) : State :=
  if bs.length ≤ 8 then s.writePlace g w pl bs else (s.writePlace g w pl (bs.take 8)).writePlace g w (pl.plus 8) (bs.drop 8)

def Place.globals (pls : List Place) (n : Nat) : List (Nat × Nat) :=
  pls.filterMap fun pl => match pl with
    | .glob p => some (p, n)
    | .spad _ _ => none

/-- The checks of one lane's global access, in the order of 13 R275. -/
def checkPhys (s : State) (g : Group) (need align ea : Nat) : Except Nat Nat :=
  if 2 ^ 57 ≤ ea then .error causeAccess
  else if ea % align ≠ 0 then .error causeAlign
  else s.translate (s.ctxOfGrid g.gid) need ea
def checkGlob (s : State) (g : Group) (need align ea : Nat) : Except Nat Place := (checkPhys s g need align ea).map .glob

/-- The scratchpad tests of 13 R272, then alignment. -/
def checkSpad (s : State) (g : Group) (align ea : Nat) : Except Nat Place :=
  let d := s.desc g.gid
  let gb := bits ea 23 23
  let m := bits ea 22 21
  let off := bits ea 20 0
  if 2 ^ 24 ≤ ea || (gb == 0 && m != 0) || (gb == 1 && d.gang ≤ m) || d.spwg * 4096 ≤ off then .error causeAccess
  else if ea % align ≠ 0 then .error causeAlign
  else .ok (.spad (if gb = 1 then gangIdx d g.lw * d.gang + m else g.lw) off)

/-- The checks of the active lanes: the places, or the fault of the lowest failing lane with its address (13 R275). -/
def checkLanes {α : Type} (check : Nat → Except Nat α) (ea : Nat → Nat) : List Nat → Except Flt (List (Nat × α))
  | [] => .ok []
  | l :: ls =>
    match check (ea l) with
    | .error c => .error { code := c, addr := ea l }
    | .ok p => match checkLanes check ea ls with
      | .error f => .error f
      | .ok ps => .ok ((l, p) :: ps)

/-- What a read of a virtual range gives: its bytes, where they lie, what the reader has seen, and whether a byte has an uncorrectable error (1) or lies behind
a link that is down (2). -/
structure Got where
  bytes : List Byte
  phys  : List Nat
  seen  : Seen
  err   : Nat
deriving DecidableEq, Repr

/-- A read of a virtual range of a context, byte by byte: code, descriptors, blocks, scales, codebooks. The lowest failing address is the fault. -/
def readRange (s : State) (c : Nat) (t : Option Task) (r : Reader) (salt va n : Nat) : Except Flt Got :=
  match s.translateRange c needRead va n with
  | .error (e, a) => .error { code := e, addr := a }
  | .ok ps =>
    let x := s.readLocs t r salt (ps.map fun p => { spad := none, at_ := p })
    .ok { bytes := x.1, phys := ps, seen := x.2,
          err := if ps.any fun p => errIn s t p 1 = 2 then 2 else if ps.any fun p => errIn s t p 1 = 1 then 1 else 0 }
/-- The ECC trap of a read (22 R418, 20 R399): DETAIL 2 says that the link is down. -/
def eccFlt (va err : Nat) : Flt := { code := 11, addr := va, detail := if err = 2 then 2 else 0 }
/-- The same read where an error is a fault at the range's address. -/
def readVirt (s : State) (c : Nat) (t : Option Task) (r : Reader) (salt va n : Nat) : Except Flt Got :=
  match readRange s c t r salt va n with
  | .error f => .error f
  | .ok x => if x.err = 0 then .ok x else .error (eccFlt va x.err)

/-- What a fetch gives: a word, no word (at or past the section's end: ILLEGAL, 06 R124), or a fetch fault (07 R462), with FADDR the address
of the word's first byte and DETAIL 0. -/
inductive Fetched where
  | word (w : Nat)
  | beyond
  | fault (f : Flt)
deriving DecidableEq, Repr

/-- A code word is read as memory stands at the fetch, also where a program or the host has rewritten it (DESIGN CHOICE, notes/assumptions/56). -/
def fetchAt (s : State) (c va n : Nat) : Fetched :=
  match readVirt s c none (Reader.latest unitThread) 0 va n with
  | .ok x => .word (leNat x.bytes)
  | .error f => .fault { code := f.code, addr := va }

/-- Scalar word `i` of the object that the group runs (05 R105, 07 R127). -/
def fetchScalar (s : State) (g : Group) (i : Nat) : Fetched :=
  let k := s.codeObj g
  if k.slen / 4 ≤ i then .beyond else fetchAt s (s.ctxOfGrid g.gid) (k.addr + k.soff + 4 * i) 4

/-- Lane word `i` of an object (07 R127). -/
def fetchLane (s : State) (g : Group) (k : KObj) (i : Nat) : Fetched :=
  if k.llen / 12 ≤ i then .beyond else fetchAt s (s.ctxOfGrid g.gid) (k.addr + k.loff + 12 * i) 12

end Sys2Proof.Machine
end

