-- ==== Sys2Proof/Machine/Operands.lean ====
section
/-!
DEFINITION. Operand forms: scalar registers (06 R107), vector and accumulator registers by their place in the allotment (12 R242), the b operand and
its immediates (06 R116, 10 R214), the effective addresses of memory words (13 R283), masks and active lanes (07 R141), and what a read receives
while an earlier word's write is not visible (07 R131, R137).
-/
namespace Sys2Proof.Machine

/-- The effects of words that have issued and not completed, oldest first. -/
def Group.pending (g : Group) : List Eff := g.flights.flatMap Flight.effs

/-- The lanes in which a race of a draw goes to the new value. The salts tell apart the registers of a draw: places of the allotment from 0, scalar
registers from 256, masks from 512; from `waw` the races of two writes. -/
def raceMask (free : Nat) (salt : Nat) : W32 := maskOf fun l => Config.race (free * 2048 + salt) l
abbrev waw : Nat := 1024

/-- Scalar register `k`; s0 reads 0 (06 R107). A lane word's write that is not complete may or may not be seen (07 R131). -/
def Group.sreg (g : Group) (free : Nat) (k : BitVec 8) : W64 :=
  if k = 0 then 0
  else g.pending.foldl (fun v e => match e with
    | .sreg k' v' => if k' = k ∧ Config.race (free * 2048 + 256 + k.toNat) 0 then v' else v
    | _ => v) (g.sregs[k.toNat]'(k.isLt))

/-- A write of a scalar register; s0 discards it. -/
def Group.setSreg (g : Group) (k : BitVec 8) (v : W64) : Group :=
  if k = 0 then g else { g with sregs := g.sregs.set k.toNat v k.isLt }

/-- Mask register `k`; m0 is all ones (05 R87). -/
def Group.mask (g : Group) (free : Nat) (k : BitVec 3) : W32 :=
  if k = 0 then 0xFFFFFFFF
  else g.pending.foldl (fun v e => match e with
    | .mask k' on b =>
      if k' = k then
        let m := on &&& raceMask free (512 + k.toNat)
        (v &&& ~~~m) ||| (b &&& m)
      else v
    | _ => v) (g.masks[k.toNat]'(k.isLt))

/-- A write of a mask in the lanes of `on`; m0 discards it (10 R201). -/
def Group.setMask (g : Group) (k : BitVec 3) (on b : W32) : Group :=
  if k = 0 then g
  else { g with masks := g.masks.set k.toNat ((g.masks[k.toNat]'(k.isLt) &&& ~~~on) ||| (b &&& on)) k.isLt }

/-- A register name, with the numbers that a tile can reach past 255. -/
structure RName where
  acc : Bool
  k   : Nat
deriving DecidableEq, Repr

def regName (r : VReg) : RName := { acc := r.acc, k := r.k.toNat }
def vname (k : Nat) : RName := { acc := false, k := k }
def aname (k : Nat) : RName := { acc := true, k := k }

/-- The place of a register in the allotment (12 R242). -/
def Group.place (g : Group) (r : RName) : Nat := if r.acc then g.bound + r.k else r.k
/-- Whether the name lies inside the allotment and on its side of the boundary (12 R244). -/
def Group.inAllot (g : Group) (r : RName) : Bool := if r.acc then g.bound + r.k < g.regs.length else r.k < g.bound
/-- The designation of a register for FADDR (12 R244). -/
def RName.designation (r : RName) : Nat := Machine.designation (if r.acc then 1 else 0) r.k

/-- The contents of a place; VOID reads 0 in every lane (10 R200). -/
def Group.stored (g : Group) (p : Nat) : LaneVec :=
  match g.regs[p]? with
  | some r => if r.st = .void then zeroVec else r.val
  | none => zeroVec

/-- What a word that issues now reads from a register. -/
def Group.readReg (g : Group) (free : Nat) (r : RName) : LaneVec :=
  let p := g.place r
  g.pending.foldl (fun v e => match e with
    | .reg p' on x => if p' = p then laneMerge (on &&& raceMask free p) v (laneGet x) else v
    | _ => v) (g.stored p)

/-- A scalar word writes a register that lane words on their way write too: each of those writes is lost, or stays to come (07 R131). -/
def Group.raceSreg (g : Group) (free : Nat) (k : BitVec 8) : Group :=
  { g with flights := g.flights.map fun f => { f with effs := f.effs.filter fun e => match e with
    | .sreg k' _ => !(k' == k && Config.race (free * 2048 + waw + 256 + k.toNat) 0)
    | _ => true } }
/-- A write of a scalar register by a scalar word; s0 discards it. -/
def Group.writeSreg (g : Group) (free : Nat) (k : BitVec 8) (v : W64) : Group :=
  if k = 0 then g else (g.raceSreg free k).setSreg k v

/-- The lanes of a place, of a mask, that writes on their way name. -/
def Group.lanesOnWay (g : Group) (p : Nat) : W32 :=
  g.pending.foldl (fun m e => match e with
    | .reg p' on _ => if p' = p then m ||| on else m
    | _ => m) 0
def Group.maskOnWay (g : Group) (k : BitVec 3) : W32 :=
  g.pending.foldl (fun m e => match e with
    | .mask k' on _ => if k' = k then m ||| on else m
    | _ => m) 0
/-- What remains of the results of a word that issues while earlier writes of the same registers are not visible: where they meet, in each lane one of
the two values stays (07 R137, R131). -/
def Group.settle (g : Group) (free : Nat) (effs : List Eff) : List Eff :=
  if g.flights.isEmpty then effs
  else effs.filterMap fun e => match e with
    | .reg p on x => some (.reg p (on &&& ~~~(g.lanesOnWay p &&& raceMask free (waw + p))) x)
    | .mask k on b => some (.mask k (on &&& ~~~(g.maskOnWay k &&& raceMask free (waw + 512 + k.toNat))) b)
    | .sreg k v => if (g.pending.any fun e => match e with
        | .sreg k' _ => k' == k
        | _ => false) && Config.race (free * 2048 + waw + 256 + k.toNat) 0 then none else some (.sreg k v)
    | .ws t => some (.ws t)

/-- A write of the lanes of `on` of a place: the register becomes VALUE (12 R252). -/
def Group.writePlace (g : Group) (p : Nat) (on : W32) (x : LaneVec) : Group :=
  match g.regs[p]? with
  | some _ => { g with regs := g.regs.set p { st := .value, val := laneMerge on (g.stored p) (laneGet x) } }
  | none => g

/-- One effect made visible. -/
def Group.applyEff (g : Group) : Eff → Group
  | .reg p on x => g.writePlace p on x
  | .sreg k v => g.setSreg k v
  | .mask k on b => g.setMask k on b
  | .ws _ => g
def Group.applyEffs (g : Group) (es : List Eff) : Group := es.foldl Group.applyEff g

/-- The flight of a word that its unit has finished with: its results join it (15 R335, R343). -/
def Group.readyFlight (g : Group) (id : Nat) (effs : List Eff) : Group :=
  { g with flights := g.flights.map fun f => if f.id == id then { f with ready := true, effs := f.effs ++ effs } else f }

/-- The lanes that PRED selects (06 R114): bit 3 complements, bits 2-0 name the mask. -/
def predLanes (g : Group) (free : Nat) (pred : BitVec 4) : W32 :=
  let m := g.mask free (pred.setWidth 3)
  if pred.getLsbD 3 then ~~~m else m

/-- The active lanes of a word (07 R141). -/
def Group.active (g : Group) (free : Nat) (pred : BitVec 4) : W32 := g.exm &&& predLanes g free pred

/-- The tile size of TPART (07 R141). -/
def tileOf (tsize : BitVec 3) : Nat := 2 ^ tsize.toNat

/-- How IMM16 gives a 32-bit operand: a signed integer, the upper half of an FP32 pattern (06 R116), or the same pattern in both halves (10 R214). -/
inductive ImmKind where
  | int | fp | packed
deriving DecidableEq, Repr

def immValue (k : ImmKind) (i : BitVec 16) : W32 :=
  match k with
  | .int => i.signExtend 32
  | .fp => i.setWidth 32 <<< 16
  | .packed => i.setWidth 32 <<< 16 ||| i.setWidth 32

/-- A B operand as it is read: a value per lane. -/
def Group.readB (g : Group) (free : Nat) (kind : ImmKind) : BOpnd → LaneVec
  | .v r => g.readReg free (regName r)
  | .s k => Vector.replicate 32 (lo32 (g.sreg free k))
  | .imm i => Vector.replicate 32 (immValue kind i)

/-- The vector registers of a B operand. -/
def opndRegs : BOpnd → List RName
  | .v r => [regName r]
  | _ => []

/-- EA(l) of 13 R283: A + the offset of vb + DISP, modulo 2^64. -/
def eaOf (base : W64) (off : Option LaneVec) (disp : BitVec 14) (l : Nat) : Nat :=
  (base + (match off with
    | some v => (laneGet v l).signExtend 64
    | none => 0) + disp.signExtend 64).toNat

/-- The size in bytes of a data TYPE (13 R280). -/
def typeSize (type : BitVec 4) : Nat :=
  match type.toNat with
  | 0 | 1 => 1
  | 2 | 3 => 2
  | 4 => 4
  | 5 => 8
  | _ => 16
def typeSigned (type : BitVec 4) : Bool := type.toNat == 1 || type.toNat == 3
/-- The number of registers of a data TYPE. -/
def typeRegs (type : BitVec 4) : Nat := max 1 (typeSize type / 4)

/-- The 32-bit words that a loaded element gives its registers (13 R280), low word first. -/
def loadWords (type : BitVec 4) (bs : List Byte) : List W32 :=
  let x := leNat bs
  if typeSize type < 4 then [if typeSigned type then wrap 32 (sgn (8 * typeSize type) x) else BitVec.ofNat 32 x]
  else (List.range (typeRegs type)).map fun i => BitVec.ofNat 32 (x / 2 ^ (32 * i))

/-- The registers k, k + 1, ... of a group of `n`. -/
def vgroup (k n : Nat) : List RName := (List.range n).map fun i => vname (k + i)

/-- The register contents that per-lane word lists give: register `i` takes word `i` of each lane. -/
def columnOf (rows : List (Nat × List W32)) (i : Nat) : LaneVec :=
  Vector.ofFn fun l => ((rows.lookup l.val).bind fun ws => ws[i]?).getD 0

end Sys2Proof.Machine
end

