-- ==== Sys2Proof/Machine/Late.lean ====
section
/-!
DEFINITION. The accesses of the lanes of a word (13 R283-R291): what the lanes of a load read, a lane of a store or of an atomic, the errors of data (07 R145,
20 R399); and the words whose accesses are performed after their issue (17 R371).
-/
namespace Sys2Proof.Machine

/-- The scope of a lane word's acquire, none where it does not acquire (06 R117, 17 R359). -/
def acqScope (ord : BitVec 3) (scope : BitVec 4) : Option Nat := if ord == 1 || ord == 3 || ord == 4 then some scope.toNat else none
def ordReleases (ord : BitVec 3) : Bool := ord == 2 || ord == 3 || ord == 4
/-- The deferred error of an accepted word on a counter (07 R145, 20 R399): the first of those that its lanes have met, address and DETAIL. -/
def Group.deferErr (g : Group) (ctr : BitVec 4) (errs : List (Nat × Nat)) : Group :=
  match errs.head? with
  | some e => { g with deferred := g.deferred ++ [{ ctr := ctr, addr := BitVec.ofNat 64 e.1, detail := BitVec.ofNat 8 e.2 }] }
  | none => g
/-- The errors of what the lanes of a load read. -/
def loadErrs (s : State) (g : Group) (ea : Nat → Nat) (n : Nat) (pls : List (Nat × Place)) : List (Nat × Nat) :=
  (pls.map fun x => (ea x.1, match x.2 with
    | .glob p => errIn s (s.taskOf g) p n
    | .spad _ _ => 0)).filter fun e => e.2 != 0

/-- What the lanes of a load read, each a thread (17 R351): the bytes, and what each has seen; one address for all is served once (13 R283). -/
def State.readPlaces (s : State) (g : Group) (scope n : Nat) (one : Bool) (pls : List (Nat × Place)) : List (Nat × List Byte × Seen) :=
  let rd := servedBy one (fun l => s.laneReader g l scope) (pls.map Prod.fst)
  pls.map fun x => (x.1, s.readPlace g (rd x.1).2 (64 * (rd x.1).1) x.2 n)
def bytesBy (got : List (Nat × List Byte × Seen)) : List (Nat × List Byte) := got.map fun x => (x.1, x.2.1)
def seenBy (got : List (Nat × List Byte × Seen)) : List (Nat × Seen) := got.map fun x => (x.1, x.2.2)
/-- The registers that a load of a type gives from its lanes' bytes. -/
def loadCols (type : BitVec 4) (got : List (Nat × List Byte × Seen)) (i : Nat) : LaneVec := columnOf ((bytesBy got).map fun x => (x.1, loadWords type x.2)) i

/-- The bytes that a lane stores from its words: the low ones (13 R286). -/
def bytesOf (type : BitVec 4) (ws : List W32) : List Byte := (ws.flatMap fun x => leBytes 4 x.toNat).take (typeSize type)

/-- Bytes of an atomic, data registers at c, and registers written at d (13 R289). -/
def atomSize (type : BitVec 4) : Nat := if type = 0x1 ∨ type = 0xB ∨ type = 0xD then 8 else 4
def atomDataRegs (type : BitVec 4) : Nat :=
  match type.toNat with
  | 0x1 | 0xB | 0xC => 2
  | 0xD => 4
  | _ => 1
def atomOutRegs (type : BitVec 4) : Nat := atomSize type / 4

/-- The new value of an atomic (13 R289), `ws` the data words of the lane. -/
def atomNew (type : BitVec 4) (old : Nat) (ws : List W32) : Nat :=
  let w (i : Nat) : W32 := ws.getD i 0
  let pair (i : Nat) : Nat := (join64 (w i) (w (i + 1))).toNat
  let o : W32 := BitVec.ofNat 32 old
  match type.toNat with
  | 0x0 => (o + w 0).toNat
  | 0x1 => (old + pair 0) % 2 ^ 64
  | 0x2 => fAdd fp32 .rne old (w 0).toNat
  | 0x3 => (aluMin 0 o (w 0)).toNat
  | 0x4 => (aluMin 1 o (w 0)).toNat
  | 0x5 => (aluMax 0 o (w 0)).toNat
  | 0x6 => (aluMax 1 o (w 0)).toNat
  | 0x7 => (o &&& w 0).toNat
  | 0x8 => (o ||| w 0).toNat
  | 0x9 => (o ^^^ w 0).toNat
  | 0xA => (w 0).toNat
  | 0xB => pair 0
  | 0xC => if o = w 0 then (w 1).toNat else old
  | _ => if old = pair 0 then pair 2 else old

def State.det (s : State) (g : Group) : Bool := (s.desc g.gid).mode / 4 % 2 == 1
/-- What an atomic gives its registers: the old values (13 R289), zeros under DET (19 R378). -/
def State.atomOut (s : State) (g : Group) (got : List (Nat × List W32)) (i : Nat) : LaneVec := if s.det g then zeroVec else columnOf got i

/-- A word none of whose lanes has been performed. -/
def Mid.start (m : MemOp) (atom : Bool) (on : W32) (accs : List LaneAcc) : Mid :=
  { op := m, atom := atom, on := on, accs := accs, done := 0, got := [], stores := [], gain := View.fresh, errs := [] }
/-- One lane of a store or of an atomic (13 R286, R290). An atomic returns the newest write (17 R356), and its read is recorded. A store behind a link that is down is
dropped, and an error of the data of either is kept as it is met (20 R399). -/
def State.memLane (s : State) (g : Group) (w : Mid) (a : LaneAcc) : State × Group × Mid :=
  let wr := s.laneWriter g a.lane w.op.scope.toNat (ordReleases w.op.ord) w.atom
  let err : Nat := match a.place with
    | .glob p => if w.atom then errIn s (s.taskOf g) p (atomSize w.op.type) else if linkUp s p then 0 else 2
    | .spad _ _ => 0
  let after (s' : State) : Mid := { w with done := w.done + 1, stores := w.stores ++ stampsFrom s.order.stamp s'.order.stamp,
                                           errs := w.errs ++ if err = 0 then [] else [(a.ea, err)] }
  if w.atom then
    let n := atomSize w.op.type
    let got := s.readPlace g { s.laneReader g a.lane w.op.scope.toNat with newest := true } (32 * a.lane) a.place n
    let old := leNat got.1
    let s' := s.writePlace g wr a.place (leBytes n (atomNew w.op.type old a.data))
    let r := s'.laneSaw g (acqScope w.op.ord w.op.scope) a.lane got.2
    (r.1, r.2.1, { after s' with got := w.got ++ [(a.lane, [BitVec.ofNat 32 old, BitVec.ofNat 32 (old / 2 ^ 32)])], gain := w.gain.join r.2.2 })
  else
    let s' := s.storePlace g wr a.place (bytesOf w.op.type a.data)
    (s', g, after s')
/-- The lanes that are left, in ascending order (13 R284). -/
def State.memLanes (s : State) (g : Group) (w : Mid) : State × Group × Mid :=
  (w.accs.drop w.done).foldl (fun (x : State × Group × Mid) a => x.1.memLane x.2.1 x.2.2 a) (s, g, w)

def LaneAcc.placed (a : LaneAcc) : Nat × Place := (a.lane, a.place)

-- ### Words whose accesses are performed later

/-- Whether the accesses of two words meet in no byte of global memory. -/
def Mid.apart (x y : Mid) (n m : Nat) : Bool :=
  x.accs.all fun a => y.accs.all fun b => match a.place, b.place with
    | .glob p, .glob q => !overlaps p n q m
    | _, _ => true
/-- Bytes of an access of a word. -/
def Mid.size (w : Mid) : Nat := if w.atom then atomSize w.op.type else typeSize w.op.type
/-- The accesses of an issued word performed (17 R371): it acts as a word of its run, its results are ready, and what it has learned and stored stands on its counter. -/
def State.performWord (s : State) (g : Group) (x : Late) : State × Group :=
  let g' := { g with runq := x.run.toList, late := g.late.filter fun y => y.id != x.id }
  let m := x.word.op
  let back (g' : Group) (effs : List Eff) : Group := { g'.readyFlight x.id effs with runq := g.runq }
  let col (i : Nat) (v : LaneVec) : Eff := .reg (g.place (vname (x.d.toNat + i))) x.word.on v
  if x.load then
    let got := s.readPlaces g' m.scope.toNat x.word.size (!m.voff) (x.word.accs.map LaneAcc.placed)
    let errs := loadErrs s g (fun l => ((x.word.accs.find? fun a => a.lane == l).map LaneAcc.ea).getD 0) x.word.size (x.word.accs.map LaneAcc.placed)
    let r := s.lanesSee g' none View.fresh (seenBy got)
    (r.1.draw, back ((r.2.1.oweAs x.id x.ctr r.2.2 [] []).deferErr x.ctr errs) ((List.range (typeRegs m.type)).map fun i => col i (loadCols m.type got i)))
  else
    let r := s.memLanes g' x.word
    let effs := if x.word.atom then (List.range (atomOutRegs m.type)).map fun i => col i (s.atomOut g r.2.2.got i) else []
    let owed : Group := if r.2.2.stores.isEmpty && r.2.2.gain.isFresh then r.2.1
      else { r.2.1 with slack := r.2.1.slack ++ [{ id := x.id, ctr := x.ctr, waited := false, stores := r.2.2.stores, gain := r.2.2.gain, rels := [], obs := [] }] }
    (r.1.draw, back (owed.deferErr x.ctr r.2.2.errs) effs)
/-- Every such word of a group performed, oldest first. -/
def State.performAll (s : State) (g : Group) : State × Group := g.late.foldl (fun (x : State × Group) w => x.1.performWord x.2 w) (s, g)

end Sys2Proof.Machine
end

