-- ==== Sys2Proof/Machine/MatrixCore.lean ====
section
/-!
DEFINITION. The cluster matrix engine (15): format blocks, operands, tile records, the sums of a pass with their carries and cinders, drains, the
self-test, and the execution of the head of a queue. The words that feed the queues are in Machine/Matrix.lean.
-/
namespace Sys2Proof.Machine

/-- Bits of an element, and whether a format code is a float (15 R320). -/
def fmtBits (f : Nat) : Nat :=
  match f with
  | 0 => 32
  | 1 | 2 => 16
  | 3 | 4 | 6 | 7 => 8
  | _ => 4
def fmtFloat (f : Nat) : Bool := f ≤ 5
/-- NA, the A registers of a format, and the bytes of its B tile. -/
def fmtNA (f : Nat) : Nat := fmtBits f
def fmtBytes (f : Nat) : Nat := 128 * fmtBits f

/-- The fields of a format block of 32 bytes (15 R321). -/
def blockOf (bs : List Byte) : Block :=
  let w (i : Nat) := leNat ((bs.drop (8 * i)).take 8)
  { afmt := bits (w 0) 63 60, aklen := bits (w 0) 59 57, ascale := bits (w 0) 56 0,
    bfmt := bits (w 1) 63 60, bklen := bits (w 1) 59 57, bscale := bits (w 1) 56 0,
    depth := bits (w 2) 63 61, full := bits (w 2) 60 60 == 1, atab := bits (w 2) 56 0, btab := bits (w 3) 56 0 }
/-- The reserved fields of a block. -/
def blockReserved (bs : List Byte) : Bool :=
  let w (i : Nat) := leNat ((bs.drop (8 * i)).take 8)
  bits (w 2) 59 57 != 0 || bits (w 3) 63 57 != 0

/-- A malformed block (15 R322). -/
def blockBad (b : Block) : Bool :=
  let tab (f t : Nat) : Bool := if f = 5 then t == 0 || t % 32 != 0 else t != 0
  let scale (k a : Nat) : Bool := (k == 0) != (a == 0)
  9 < b.afmt || 9 < b.bfmt || 6 < b.aklen || 6 < b.bklen || 5 < b.depth
    || fmtFloat b.afmt != fmtFloat b.bfmt
    || (!fmtFloat b.afmt && (b.aklen != 0 || b.bklen != 0))
    || (fmtFloat b.afmt && (b.depth != 0 || b.full))
    || scale b.aklen b.ascale || scale b.bklen b.bscale || tab b.afmt b.atab || tab b.bfmt b.btab

/-- A block length by its code, unbounded for 0 (15 R321). -/
def klenOf (c : Nat) : Option Nat := if c = 0 then none else some (2 ^ (c + 4))
/-- The interval I of a record (15 R326). -/
def intervalOf (float : Bool) (aklen bklen depth : Nat) : Nat :=
  if float then min 128 (min ((klenOf aklen).getD 128) ((klenOf bklen).getD 128)) else 2 ^ (depth + 5)
def Tile.interval (t : Tile) : Nat := intervalOf (fmtFloat t.afmt) t.aklen t.bklen t.depth
def Tile.scaled (t : Tile) : Bool := t.aklen != 0 || t.bklen != 0
/-- The number of registers that a tile owns from ad up (15 R325). -/
def tileSpan (scaled : Bool) : Nat := if scaled then 34 else 32

def zeroCells : Vector LaneVec 32 := Vector.replicate 32 zeroVec

/-- A fresh record (15 R326). -/
def newTile (m : Mmq) : Tile :=
  { d := m.d, afmt := m.afmt, bfmt := m.blk.bfmt, aklen := m.blk.aklen, bklen := m.blk.bklen, depth := m.blk.depth, full := m.blk.full,
    kw := 0, rows := 0, cells := zeroCells, asc := none, bsc := none, ccount := 0, resv := 0, subs := [], folded := zeroCells }

/-- Element kk of row l of A: register kk / (32/w), element kk mod (32/w) (15 R323). -/
def aElem (w : Nat) (a : List LaneVec) (l kk : Nat) : Nat :=
  elem w (laneGet (a.getD (kk / (32 / w)) zeroVec) l) (kk % (32 / w))
/-- Element (kk, n) of the B tile (15 R324). -/
def bElem (w : Nat) (bs : List Byte) (kk n : Nat) : Nat :=
  let off := kk * 4 * w + n * w / 8
  if w < 8 then bits (bs.getD off 0).toNat (n * w % 8 + w - 1) (n * w % 8)
  else leNat ((List.range (w / 8)).map fun i => bs.getD (off + i) 0)

/-- An element as a float encoding with its format; a CB4 code takes its codebook entry (09 R178). -/
def floatElem (f : Nat) (cb : List W16) (x : Nat) : Fmt × Nat :=
  match f with
  | 0 => (fp32, x)
  | 1 => (fp16, x)
  | 2 => (bf16, x)
  | 3 => (e4m3, x)
  | 4 => (e5m2, x)
  | _ => (bf16, (cb.getD x 0).toNat)

/-- An integer element (15 R320). -/
def intElem (f x : Nat) : Int :=
  match f with
  | 6 => sgn 8 x
  | 8 => sgn 4 x
  | _ => x

/-- One product of a float pass: a NaN as FP32, or a value (15 R330). When both are CB4 it is the FP32 entry of the product table (09 R178). -/
def floatProduct (fa fb : Nat) (x y : Fmt × Nat) : Nat ⊕ FVal :=
  if fa = 5 ∧ fb = 5 then
    let p := fMul fp32 .rne (fConv bf16 fp32 .rne x.2) (fConv bf16 fp32 .rne y.2)
    match fp32.read p with
    | .nan _ _ => .inl p
    | v => .inr v
  else
    let va := x.1.read x.2
    let vb := y.1.read y.2
    if va.isNan then .inl (fConv x.1 fp32 .rne x.2)
    else if vb.isNan then .inl (fConv y.1 fp32 .rne y.2)
    else match va.mul vb with
      | some v => .inr v
      | none => .inl fp32.nan

/-- P + S with one rounding (15 R329, R330): P's NaN first, then the products' in ascending kk, then infinities. -/
def floatCell (p : Nat) (ps : List (Nat ⊕ FVal)) : Nat :=
  let vp := fp32.read p
  if vp.isNan then fp32.quiet p
  else match ps.findSome? fun x => match x with
      | .inl q => some q
      | .inr _ => none with
    | some q => fp32.quiet q
    | none =>
      let vs := vp :: ps.filterMap fun x => match x with
        | .inr v => some v
        | .inl _ => none
      let pos := vs.any fun v => v.isInf && !v.neg
      let neg := vs.any fun v => v.isInf && v.neg
      if pos && neg then fp32.nan
      else if pos then fp32.inf false
      else if neg then fp32.inf true
      else fp32.round .rne (vs.all FVal.neg) (vs.foldl (fun t v => t.add v.dy) Dy.zero)

/-- The cells after a float MMQ, in the active rows. -/
def floatPass (m : Mmq) (b : List Byte) (cells : Vector LaneVec 32) : Vector LaneVec 32 :=
  let wa := fmtBits m.afmt
  let wb := fmtBits m.blk.bfmt
  Vector.ofFn fun n => Vector.ofFn fun l =>
    if m.act.getLsbD l.val then
      w32 (floatCell (cells[n][l]).toNat ((List.range 32).map fun kk =>
        floatProduct m.afmt m.blk.bfmt (floatElem m.afmt m.acb (aElem wa m.a l.val kk)) (floatElem m.blk.bfmt m.bcb (bElem wb b kk n.val))))
    else cells[n][l]

/-- An integer pass under way: the cells (16-bit values, sign-extended), the cluster's cinder entries, CCOUNT, what early drains have folded into
the tile, how many were forced, and whether a carry found the buffer full under TRAP. -/
structure IntPass where
  cells  : Vector LaneVec 32
  cinder : List Cinder
  ccount : Nat
  folded : Vector LaneVec 32
  early  : Nat
  stuck  : Bool

def cinderIs (slot : Nat) (d : BitVec 8) (l n : Nat) (e : Cinder) : Bool := e.slot == slot && e.d == d && e.l == l && e.n == n
def cinderCount (cs : List Cinder) (slot : Nat) (d : BitVec 8) (l n : Nat) : Int :=
  match cs.find? (cinderIs slot d l n) with
  | some e => e.count
  | none => 0
def dropCinders (cs : List Cinder) (slot : Nat) (d : BitVec 8) : List Cinder := cs.filter fun e => !(e.slot == slot && e.d == d)

def cellInt (cells : Vector LaneVec 32) (l n : Nat) : Int := (laneGet (cells.getD n zeroVec) l).toInt
def setCell (cells : Vector LaneVec 32) (l n : Nat) (v : Int) : Vector LaneVec 32 :=
  cells.setIfInBounds n ((cells.getD n zeroVec).setIfInBounds l (wrap 32 v))

/-- What a drain adds to each cell of an integer tile (15 R332). -/
def drainSums (cells : Vector LaneVec 32) (cs : List Cinder) (slot : Nat) (d : BitVec 8) : Vector LaneVec 32 :=
  Vector.ofFn fun n => Vector.ofFn fun l => wrap 32 ((cells[n][l]).toInt + 65536 * cinderCount cs slot d l.val n.val)
def addCells (x y : Vector LaneVec 32) : Vector LaneVec 32 := Vector.ofFn fun n => Vector.ofFn fun l => x[n][l] + y[n][l]

/-- Carry(l, n, step) of 15 R337, with the cell's unreduced value `c`: an entry takes it, or the buffer is full and R338 (early drain) or
R339 applies. -/
def carry (slot : Nat) (d : BitVec 8) (full : Bool) (l n : Nat) (c : Int) (step : Int) (p : IntPass) : IntPass :=
  let reduced := c - 65536 * step
  if p.cinder.any (cinderIs slot d l n) then
    { p with cells := setCell p.cells l n reduced,
             cinder := p.cinder.map fun e => if cinderIs slot d l n e then { e with count := e.count + step } else e }
  else if p.cinder.length < 4096 then
    { p with cells := setCell p.cells l n reduced,
             cinder := p.cinder ++ [{ slot := slot, d := d, l := l, n := n, count := step }],
             ccount := min (p.ccount + 1) (2 ^ 32 - 1) }
  else if full then { p with stuck := true }
  else
    let cells := setCell p.cells l n c
    { p with early := p.early + 1, folded := addCells p.folded (drainSums cells p.cinder slot d), cells := zeroCells, cinder := dropCinders p.cinder slot d }

/-- The products of one cell in ascending kk (15 R329). -/
def intCell (slot : Nat) (d : BitVec 8) (full : Bool) (l n : Nat) (p : IntPass) (prods : List Int) : IntPass :=
  prods.foldl (fun p x =>
    if p.stuck then p
    else
      let c := cellInt p.cells l n + x
      if 32767 < c then carry slot d full l n c 1 p
      else if c < -32768 then carry slot d full l n c (-1) p
      else { p with cells := setCell p.cells l n c }) p

def intPass (slot : Nat) (m : Mmq) (b : List Byte) (p : IntPass) : IntPass :=
  let wa := fmtBits m.afmt
  let wb := fmtBits m.blk.bfmt
  (laneList m.act).foldl (fun p l => (List.range 32).foldl (fun p n =>
    intCell slot m.d m.blk.full l n p ((List.range 32).map fun kk =>
      intElem m.afmt (aElem wa m.a l kk) * intElem m.blk.bfmt (bElem wb b kk n))) p) p

/-- The registers ad to ad + 31 written by a function of old contents, in the lanes of `on`. -/
def writeTile (g : Group) (d : BitVec 8) (on : W32) (f : Nat → LaneVec → LaneVec) : Group :=
  (List.range 32).foldl (fun g n =>
    let p := g.place (aname (d.toNat + n))
    g.writePlace p on (f n (g.stored p))) g

/-- Whether a place is a register of the tile at d, of a scaled one the side-band registers included (15 R325). -/
def Group.inTile (g : Group) (scaled : Bool) (d : BitVec 8) (p : Nat) : Bool := g.bound + d.toNat ≤ p && p < g.bound + d.toNat + tileSpan scaled
/-- Whether a block scales an operand. -/
def Block.scaled (b : Block) : Bool := b.aklen != 0 || b.bklen != 0
/-- Whether the tile at d is scaled: by its record, or the MMQs that will open it. -/
def Group.tileScaled (g : Group) (d : BitVec 8) : Bool :=
  (g.tiles.any fun t => t.d == d && t.scaled) || (g.trial.any fun t => t.m.d == d && t.m.blk.scaled) || g.mq.any fun w => match w.2 with
    | .mmq m => m.d == d && m.blk.scaled
    | _ => false
/-- Whether the window of the tile at d has had an MMQ and is not drained (15 R336). -/
def Group.inWindow (g : Group) (d : BitVec 8) : Bool :=
  (g.tiles.any fun t => t.d == d && t.kw != 0) || (g.trial.any fun t => t.m.d == d) || g.mq.any fun w => match w.2 with
    | .mmq m => m.d == d
    | _ => false
/-- The tiles that may have an open window. -/
def Group.windowTiles (g : Group) : List (BitVec 8) :=
  ((g.tiles.map Tile.d ++ (g.trial.toList.map fun t => t.m.d) ++ g.mq.filterMap fun w => match w.2 with
    | .mmq m => some m.d
    | _ => none).filter g.inWindow).eraseDups
/-- What early drains have folded into a register of a tile in its window. -/
def Group.foldedAt (g : Group) (d : BitVec 8) (p : Nat) : LaneVec :=
  match g.tiles.find? fun t => t.d == d with
  | some t => t.folded.getD (p - (g.bound + d.toNat)) zeroVec
  | none => zeroVec
/-- The writes of a lane word to registers of open windows noted, with what stood there but for early drains (15 R336). -/
def Group.noteRaces (g : Group) (effs : List Eff) : Group :=
  let ds := g.windowTiles
  if ds.isEmpty then g
  else { g with races := g.races ++ effs.filterMap fun e => match e with
    | .reg p on x => (ds.find? fun d => g.inTile (g.tileScaled d) d p).map fun d =>
        (p, on, Vector.ofFn fun l => (g.stored p)[l] - (g.foldedAt d p)[l], x)
    | _ => none }
/-- The writes to a tile that are on their way, made visible. -/
def Group.landTile (g : Group) (scaled : Bool) (d : BitVec 8) : Group :=
  let mine (e : Eff) : Bool := match e with
    | .reg p _ _ => g.inTile scaled d p
    | _ => false
  let g' := g.applyEffs (g.pending.filter mine)
  { g' with flights := g'.flights.map fun f => { f with effs := f.effs.filter fun e => !mine e } }

/-- A drain's write of a register, by what it makes of the register and what the drains of the window make of it together: a lane that a lane word has written in
the window holds the written value, or the drain's result from the old or from the new value (15 R336); which of them is a free value. -/
def Group.drainReg (g : Group) (free p : Nat) (on : W32) (f total : LaneVec → LaneVec) : Group :=
  let out := f (g.stored p)
  let rs := g.races.filter fun r => r.1 == p
  let cell (l : Nat) : W32 :=
    match rs.find? fun r => r.2.1.getLsbD l with
    | none => laneGet out l
    | some r =>
      let new := ((rs.reverse.find? fun r => r.2.1.getLsbD l).getD r).2.2.2
      match Config.drainRace free (32 * p + l) % 3 with
      | 0 => laneGet new l
      | 1 => laneGet (total r.2.2.1) l
      | _ => laneGet (total new) l
  g.writePlace p on (Vector.ofFn fun l => cell l.val)
/-- A drain's write of the registers ad to ad + 31. -/
def Group.drainRegs (g : Group) (free : Nat) (d : BitVec 8) (on : W32) (f total : Nat → LaneVec → LaneVec) : Group :=
  (List.range 32).foldl (fun g n => g.drainReg free (g.place (aname (d.toNat + n))) on (f n) (total n)) g
/-- The sums of an early drain added to the registers of a tile, but where a lane word has written in the window: there the last drain decides (15 R336, R338). -/
def Group.foldRegs (g : Group) (d : BitVec 8) (sums : Vector LaneVec 32) : Group :=
  (List.range 32).foldl (fun (g : Group) n =>
    let p := g.place (aname (d.toNat + n))
    let raced := (g.races.filter fun r => r.1 == p).foldl (fun (m : W32) r => m ||| r.2.1) 0
    g.writePlace p (~~~raced) (Vector.ofFn fun l => (g.stored p)[l] + (sums.getD n zeroVec)[l])) g
/-- The noted writes of a tile forgotten: its window is drained. -/
def Group.clearRaces (g : Group) (scaled : Bool) (d : BitVec 8) : Group := { g with races := g.races.filter fun r => !g.inTile scaled d r.1 }

/-- The scale of a lane or column as FP32, 1.0 when the operand is unscaled (15 R332). -/
def scaleLanes (sc : Option (List Byte)) : LaneVec :=
  match sc with
  | none => Vector.replicate 32 0x3F800000
  | some bs => Vector.ofFn fun i => scaleValue (bs.getD i.val 0)

/-- Drain(rec) of 15 R332: the tile, the side-band, the record with its window closed. The caller releases the cinder entries. -/
def drainTile (free : Nat) (cs : List Cinder) (g : Group) (t : Tile) : Group × Tile :=
  let g := g.landTile t.scaled t.d
  let g :=
    if fmtFloat t.afmt then g.drainRegs free t.d t.rows (fun n _ => t.cells.getD n zeroVec) fun n _ => t.cells.getD n zeroVec
    else
      let sums := drainSums t.cells cs g.slot t.d
      let all := addCells sums t.folded
      g.drainRegs free t.d t.rows (fun n old => Vector.ofFn fun l => old[l] + (sums.getD n zeroVec)[l]) fun n old =>
        Vector.ofFn fun l => old[l] + (all.getD n zeroVec)[l]
  let g :=
    if fmtFloat t.afmt && t.scaled then
      let g := g.drainReg free (g.place (aname (t.d.toNat + 32))) t.rows (fun _ => scaleLanes t.asc) fun _ => scaleLanes t.asc
      g.drainReg free (g.place (aname (t.d.toNat + 33))) 0xFFFFFFFF (fun _ => scaleLanes t.bsc) fun _ => scaleLanes t.bsc
    else g
  (g.clearRaces t.scaled t.d, { t with kw := 0, rows := 0, cells := zeroCells, asc := none, bsc := none, resv := 0, subs := [], folded := zeroCells })

def Group.tile? (g : Group) (d : BitVec 8) : Option Tile := g.tiles.find? fun t => t.d == d
def Group.setTile (g : Group) (t : Tile) : Group :=
  if g.tiles.any (fun x => x.d == t.d) then { g with tiles := g.tiles.map fun x => if x.d == t.d then t else x } else { g with tiles := g.tiles ++ [t] }

/-- A record after one MMQ's products, before any drain: the group (tile registers change only by early drains), the record, the cinder entries, and how many
early drains were forced (15 R338); none when a carry found the buffer full under TRAP (R339). `subs` are the sub-arrays of the pass. -/
def mmqProducts (cs : List Cinder) (g : Group) (m : Mmq) (b : List Byte) (subs : List Nat) : Option (Group × Tile × List Cinder × Nat) :=
  let t := (g.tile? m.d).getD (newTile m)
  let t := if t.kw = 0 then { t with asc := m.asc, bsc := m.bsc, resv := m.resv, subs := [], folded := zeroCells } else t
  let t := { t with subs := (t.subs ++ subs).eraseDups }
  if fmtFloat t.afmt then
    some (g, { t with cells := floatPass m b t.cells, rows := t.rows ||| m.act, kw := t.kw + 32 }, cs, 0)
  else
    let p := intPass g.slot m b { cells := t.cells, cinder := cs, ccount := t.ccount, folded := zeroCells, early := 0, stuck := false }
    if p.stuck then none
    else
      let g := if p.early = 0 then g else (g.landTile t.scaled t.d).foldRegs t.d p.folded
      some (g, { t with cells := p.cells, rows := t.rows ||| m.act, kw := t.kw + 32, ccount := p.ccount, folded := addCells t.folded p.folded }, p.cinder, p.early)

/-- The bytes of the B tile of an MMQ, each old or new as the group's knowledge at the issue allows (15 R334), and what the read has seen. The group's own stores that
have been performed since the issue race with the read, as do those that no wait had covered. -/
def bTile (s : State) (g : Group) (m : Mmq) : List Byte × Seen :=
  let r : Reader := { th := s.lanesThread g, scope := scopeCluster, view := m.view, holes := m.holes ++ stampsFrom m.stamp s.order.stamp, own := false, newest := false }
  let got := (List.range (fmtBytes m.blk.bfmt)).map fun i => s.readLocs none r i [{ spad := some (g.gid, m.blw), at_ := m.boff + i }]
  (got.flatMap Prod.fst, got.foldl (fun (a : Seen) x => a.append x.2) Seen.none)

/-- The working sub-arrays of an engine: 0-15 but for the fenced, then the spares that replace one (15 R342, 26 R456). -/
def workingSubs (s : State) (e : Nat) : List Nat :=
  let fenced := (s.clusterAt e).fenced
  ((List.range 16).filter fun x => !fenced.contains x)
    ++ ([16, 17].filter fun x => slotWorks s.svc (0x20 + 8 * e + 4 * (x - 16)) && !fenced.contains x)

/-- A sub-array fenced (15 R342): the first unused spare of its engine takes its place, none that of sub-array 17, which no slot may name (26 R456); the event is logged
(R452 code 3). -/
def State.fence (s : State) (e sub : Nat) : State :=
  let s := s.modCluster e fun c => { c with fenced := c.fenced ++ [sub], tests := c.tests.filter fun x => x.1 != sub }
  match if sub ≤ 16 then [0x20 + 8 * e, 0x24 + 8 * e].find? fun off => !slotUsed s.svc off else none with
  | some off =>
    ({ s with svc := { s.svc with repairMap := memWrite s.svc.repairMap off (leBytes 4 (2 ^ 31 + sub)), inEffect := s.svc.inEffect ++ [off] } }).log
      3 e sub 0 off
  | none => s.log 3 e sub 0 0xFFFFFFFF

/-- A sub-array's good tests in a row. -/
def Cluster.testsOf (c : Cluster) (sub : Nat) : Nat := (c.tests.lookup sub).getD 0
/-- Whether matrix self-test signs off (26 R458): every active sub-array has passed twice in a row, and SFUOK is 1. -/
def State.signedOff (s : State) : Bool :=
  s.svc.sfuok && (List.range 104).all fun c =>
    (s.logicalOf (4 * c)).isNone || (workingSubs s c).all fun x => 2 ≤ (s.clusterAt c).testsOf x
/-- The known-pattern test of some sub-arrays of an engine (15 R342): a wrong one is fenced. The cells are recomputed, so the results do not change. -/
def State.selfTest (s : State) (e : Nat) (subs : List Nat) : State :=
  let subs := subs.filter (workingSubs s e).contains
  let bad := subs.filter fun x => !Config.selfTest e x s.free
  let good := subs.filter fun x => Config.selfTest e x s.free
  let s := bad.foldl (fun s x => s.fence e x) s.draw
  let s := s.modCluster e fun c => { c with tests := good.foldl (fun ts x => assocSet x (min 2 ((ts.lookup x).getD 0 + 1)) ts) c.tests }
  { s with svc := { s.svc with mxok := s.svc.mxok || s.signedOff } }

/-- A drain within the state: self-test of the sub-arrays that served the window, the tile written, entries released. -/
def State.drain (s : State) (g : Group) (t : Tile) : State × Group :=
  let cs := (s.clusterAt g.cluster).cinder
  let (g, t') := drainTile s.free cs g t
  let s := (s.selfTest g.cluster t.subs).modCluster g.cluster fun c => { c with cinder := dropCinders c.cinder g.slot t.d }
  (s, g.setTile t')

/-- The record that the products of an MMQ give on some sub-arrays, with its automatic drain when KW reaches I (15 R331); none for CARRY_FULL. -/
def State.mmqPass (s : State) (g : Group) (m : Mmq) (subs : List Nat) : Option (State × Group) :=
  let b := bTile s g m
  match mmqProducts (s.clusterAt g.cluster).cinder g m b.1 subs with
  | none => none
  | some (g, t, cs, early) =>
    let (s, g) := s.groupSaw g 15 b.2
    let s := s.draw.modCluster g.cluster fun c => { c with cinder := cs }
    let s := (List.range early).foldl (fun (s : State) _ => s.selfTest g.cluster t.subs) s
    if t.kw = t.interval then some (s.drain g t) else some (s, g.setTile t)

/-- The head of a group's matrix queue performed (15 R329, R343-R345), or the pass of an MMQ that waits for it under TRAP (R339). -/
def State.matrixHead (s : State) (g : Group) (subs : List Nat) : State × Group :=
  match g.mq with
  | [] => match g.trial with
    | none => (s, g)
    | some t => match s.mmqPass g t.m subs with
      | some (s, g) => (s, { g with trial := some { t with res := some true } })
      | none => (s, { g with trial := some { t with res := some false } })
  | (id, w) :: rest =>
    let g := { g with mq := rest }
    match w with
    | .mwait => (s, g.readyFlight id [])
    | .mzero d =>
      let s := s.modCluster g.cluster fun c => { c with cinder := dropCinders c.cinder g.slot d }
      let scaled := g.tileScaled d
      let g := ({ g with tiles := g.tiles.filter fun t => t.d != d }.landTile scaled d).clearRaces scaled d
      (s, (writeTile g d 0xFFFFFFFF fun _ _ => zeroVec).readyFlight id [])
    | .mdrain d sk =>
      match g.tile? d with
      | none => (s, g.readyFlight id [.sreg sk 0])
      | some t =>
        let (s, g) := if t.kw = 0 then (s, g) else s.drain g t
        (s, ({ g with tiles := g.tiles.filter fun t => t.d != d }).readyFlight id [.sreg sk (BitVec.ofNat 64 t.ccount)])
    | .mmq m =>
      match s.mmqPass g m subs with
      | some (s, g) => (s, g.readyFlight id [])
      | none => (s, g.readyFlight id [])

-- ### Passes

/-- The queue number of a group in its cluster (15 R319). -/
def Group.queue (g : Group) : Nat := g.slot % 192
/-- Whether the head of a group's queue can run: a queued word, or an MMQ under TRAP whose pass is to come. -/
def Group.hasHead (g : Group) : Bool := !g.mq.isEmpty || g.trial.any fun t => t.res.isNone
/-- The groups of a cluster with a head that can run, in ascending queue number after PTR with wrap-around (15 R340). -/
def State.queuesFrom (s : State) (cluster ptr : Nat) : List Group :=
  (List.range 192).filterMap fun i =>
    s.groups.find? fun g => g.slot == 192 * cluster + (ptr + 1 + i) % 192 && g.hasHead

/-- The active quarters of an MMQ (15 R323). -/
def quarters (act : W32) : Nat := (List.range 4).countP fun q => act.toNat / 2 ^ (8 * q) % 2 ^ 8 != 0
def Group.headMmq (g : Group) : Option Mmq :=
  match g.mq with
  | (_, .mmq m) :: _ => some m
  | [] => g.trial.map Trial.m
  | _ => none

/-- The further queues whose heads fuse with the first (15 R340), with their quarters: same resolved B, same block address, quarters that fit. -/
def fuse (gid : Nat) (m : Mmq) : List Group → Nat → List (Nat × Nat)
  | [], _ => []
  | g :: gs, room =>
    match g.headMmq with
    | some x =>
      if g.gid == gid && x.blw == m.blw && x.boff == m.boff && x.blkAddr == m.blkAddr && quarters x.act ≤ room then
        (g.slot, quarters x.act) :: fuse gid m gs (room - quarters x.act)
      else fuse gid m gs room
    | none => fuse gid m gs room

/-- The sub-arrays of the queues of a pass, in turn: `per` for each quarter, from a list of free ones. -/
def placeQuarters (per : Nat) : List (Nat × Nat) → List Nat → List (Nat × List Nat)
  | [], _ => []
  | x :: xs, ws => (x.1, ws.take (per * x.2)) :: placeQuarters per xs (ws.drop (per * x.2))
/-- The working sub-arrays of an engine from the one with which its next pass begins: the spec leaves the placement open (a free value, notes/assumptions/57). -/
def State.freeSubs (s : State) (cluster : Nat) : List Nat :=
  let ws := (workingSubs s cluster).take 16
  let n := Config.placement s.free % max ws.length 1
  ws.drop n ++ ws.take n

/-- The head of a slot's queue performed in the state. Until self-test signs off, the two results of a quarter are compared; where they differ, its
sub-arrays are tested (01 R25, 15 R342). -/
def State.passSlot (s : State) (x : Nat × List Nat) : State :=
  match s.group? x.1 with
  | some g =>
    let s := if !s.svc.mxok && g.headMmq.isSome && !Config.duplicate g.cluster s.free then s.selfTest g.cluster x.2 else s
    let r := s.matrixHead g x.2
    r.1.setGroup r.2
  | none => s

/-- Queues that wait for admission and lie between the old PTR and the new one have been passed over once more (15 R337). -/
def Group.passedOver (old new : Nat) (x : Group) : Bool := x.passed != 0 && (x.queue + 191 - old) % 192 < (new + 191 - old) % 192

/-- One pass of a cluster's engine (15 R340). Until self-test signs off, every quarter takes two sub-arrays (01 R25). The quarters of the first MMQ are placed
whatever is left of a worn engine (DESIGN CHOICE, notes/assumptions/57). -/
def State.matrixPass (s : State) (cluster : Nat) : State :=
  let ptr := (s.clusterAt cluster).ptr
  match s.queuesFrom cluster ptr with
  | [] => s
  | g :: gs =>
    let s := s.modCluster cluster fun c => { c with ptr := g.queue }
    let per := if s.svc.mxok then 1 else 2
    let subs := s.freeSubs cluster
    let slots := match g.headMmq with
      | some m => (g.slot, quarters m.act) :: fuse g.gid m gs (subs.length / per - quarters m.act)
      | none => [(g.slot, 0)]
    let s := (placeQuarters per slots subs).foldl State.passSlot s.draw
    { s with groups := s.groups.map fun x => if x.cluster == cluster && x.passedOver ptr g.queue then { x with passed := x.passed + 1 } else x }

/-- Passes of a cluster until a slot's queue is empty (07 R144, 15 R346); the fuel counts passes. -/
def State.emptyQueue (s : State) (slot : Nat) : Nat → State
  | 0 => s
  | n + 1 => if (s.group? slot).any fun g => !g.mq.isEmpty then (s.matrixPass (coreCluster (slotCore slot))).emptyQueue slot n else s
/-- Every word that a cluster's queues hold. -/
def State.queuedWords (s : State) (cluster : Nat) : Nat :=
  ((s.groups.filter fun g => g.cluster == cluster).map fun g => g.mq.length + g.trial.toList.length).sum
/-- A group's matrix queue run to its end. -/
def State.matrixAll (s : State) (g : Group) : State × Group :=
  let s := s.setGroup g
  let s := s.emptyQueue g.slot (s.queuedWords g.cluster)
  (s, (s.group? g.slot).getD g)

/-- The tile records as they will stand when a word that joins the queue now reaches its pass (15 R328 step 7). -/
def predictTiles (g : Group) : List Tile :=
  g.mq.foldl (fun ts w => match w.2 with
    | .mwait => ts
    | .mzero d => ts.filter fun t => t.d != d
    | .mdrain d _ => ts.filter fun t => t.d != d
    | .mmq m =>
      let t := (ts.find? fun t => t.d == m.d).getD (newTile m)
      let t := { t with kw := if t.kw + 32 = t.interval then 0 else t.kw + 32 }
      if ts.any (fun x => x.d == m.d) then ts.map fun x => if x.d == m.d then t else x else ts ++ [t]) g.tiles

/-- Reservations held in a cluster (15 R337): by open windows and by queued MMQs that will open one. -/
def State.reserved (s : State) (cluster : Nat) : Nat :=
  ((s.groups.filter fun g => g.cluster == cluster).map fun g =>
    (g.tiles.map Tile.resv).sum + (g.mq.map fun w => match w.2 with
      | .mmq m => m.resv
      | _ => 0).sum + (g.trial.toList.map fun t => if t.res.isNone then t.m.resv else 0).sum).sum

end Sys2Proof.Machine
end

