-- ==== Sys2Proof/Machine/Slice.lean ====
section
/-!
DEFINITION. Kindling slices (12 R253-R260): which words a slice may hold, the snapshot slots, and running a slice in the lanes of a mask. KDEF and
every rekindling share it. A slice word computes with the same lane functions as the full word.
-/
namespace Sys2Proof.Machine

/-- What a lane word computes lane by lane: control, destination, the operands it has and the function of lane number and A, B, C. -/
structure AluForm where
  ctl  : LaneCtl
  d    : VReg
  a    : Option VReg
  b    : Option BOpnd
  c    : Option VReg
  kind : ImmKind
  op   : Nat → W32 → W32 → W32 → W32

def form1 (h : LaneCtl) (d a : VReg) (op : W32 → W32) : AluForm :=
  { ctl := h, d := d, a := some a, b := none, c := none, kind := .int, op := fun _ x _ _ => op x }
def form2 (k : ImmKind) (h : LaneCtl) (d a : VReg) (b : BOpnd) (op : W32 → W32 → W32) : AluForm :=
  { ctl := h, d := d, a := some a, b := some b, c := none, kind := k, op := fun _ x y _ => op x y }
def form3 (k : ImmKind) (h : LaneCtl) (d a : VReg) (b : BOpnd) (c : VReg) (op : W32 → W32 → W32 → W32) : AluForm :=
  { ctl := h, d := d, a := some a, b := some b, c := some c, kind := k, op := fun _ x y z => op x y z }

/-- LANEID (10 R222). -/
def laneidOp (f : BitVec 4) (tsize : BitVec 3) (l : Nat) : W32 := BitVec.ofNat 32 (if f = 0 then l else l % tileOf tsize)

/-- The lane function of a word that R253 allows in a slice, LDK apart: chapter 10 but for ICMP, FCMP, ISEL, CVTEF, CBDEC, CBENC and the mask words,
and the SFU words. -/
def sliceForm (tsize : BitVec 3) : Instr → Option AluForm
  | .iadd h d a b f => some (form2 .int h d a b (aluAdd f))
  | .isub h d a b f => some (form2 .int h d a b (aluSub f))
  | .iadd3 h d a b c f => some (form3 .int h d a b c (aluAdd3 f))
  | .imul h d a b _ => some (form2 .int h d a b aluMul)
  | .imulh h d a b f => some (form2 .int h d a b (aluMulh f))
  | .imad h d a b c f => some (form3 .int h d a b c (aluMad f))
  | .iwadd h d a b f => some (form2 .int h d a b (aluWadd f))
  | .idp4 h d a b c f => some (form3 .int h d a b c (aluDp4 f))
  | .imin h d a b f => some (form2 .int h d a b (aluMin f))
  | .imax h d a b f => some (form2 .int h d a b (aluMax f))
  | .iabs h d a f => some (form1 h d a (aluAbs f))
  | .iand h d a b _ => some (form2 .int h d a b (· &&& ·))
  | .ior h d a b _ => some (form2 .int h d a b (· ||| ·))
  | .ixor h d a b _ => some (form2 .int h d a b (· ^^^ ·))
  | .inot h d a _ => some (form1 h d a (~~~ ·))
  | .ishl h d a b f => some (form2 .int h d a b (aluShl f))
  | .ishr h d a b f => some (form2 .int h d a b (aluShr f))
  | .isra h d a b f => some (form2 .int h d a b (aluSra f))
  | .ibfe h d a b f => some (form2 .int h d a b (aluBfe f))
  | .ibfi h d a b c _ => some (form3 .int h d a b c aluBfi)
  | .ipopc h d a _ => some (form1 h d a aluPopc)
  | .iclz h d a _ => some (form1 h d a aluClz)
  | .fadd h d a b f => some (form2 .fp h d a b (aluFadd f))
  | .fsub h d a b f => some (form2 .fp h d a b (aluFsub f))
  | .fmul h d a b f => some (form2 .fp h d a b (aluFmul f))
  | .ffma h d a b c f => some (form3 .fp h d a b c (aluFfma f))
  | .fmin h d a b _ => some (form2 .fp h d a b aluFmin)
  | .fmax h d a b _ => some (form2 .fp h d a b aluFmax)
  | .fclass h d a _ => some (form1 h d a aluFclass)
  | .fscale h d a b f => some (form2 .int h d a b (aluFscale f))
  | .frnd h d a f => some (form1 h d a (aluFrnd f))
  | .hadd2 h d a b f => some (form2 .packed h d a b (aluAdd2 fp16 f))
  | .hmul2 h d a b f => some (form2 .packed h d a b (aluMul2 fp16 f))
  | .hfma2 h d a b c f => some (form3 .packed h d a b c (aluFma2 fp16 f))
  | .badd2 h d a b f => some (form2 .packed h d a b (aluAdd2 bf16 f))
  | .bmul2 h d a b f => some (form2 .packed h d a b (aluMul2 bf16 f))
  | .bfma2 h d a b c f => some (form3 .packed h d a b c (aluFma2 bf16 f))
  | .cvt h d a f => some (form1 h d a (aluCvt f))
  | .pack h d a b f => some (form2 .int h d a b (aluPack f))
  | .unpack h d a f => some (form1 h d a (aluUnpack f))
  | .vmov h d a _ => some (form1 h d a id)
  | .vmovi h d i => some { ctl := h, d := { acc := false, k := d }, a := none, b := none, c := none, kind := .int, op := fun _ _ _ _ => i }
  | .laneid h d f => some { ctl := h, d := d, a := none, b := none, c := none, kind := .int, op := fun l _ _ _ => laneidOp f tsize l }
  | .frcp h d a => some (form1 h d a sfuRcp)
  | .frsq h d a => some (form1 h d a sfuRsq)
  | .fsqrt h d a => some (form1 h d a sfuSqrt)
  | .fexp2 h d a => some (form1 h d a sfuExp2)
  | .flog2 h d a => some (form1 h d a sfuLog2)
  | .fsin h d a => some (form1 h d a sfuSin)
  | .fcos h d a => some (form1 h d a sfuCos)
  | .ftanh h d a => some (form1 h d a sfuTanh)
  | _ => none

/-- A slice word: a lane computation, or a load. -/
inductive SliceWord where
  | alu (f : AluForm)
  | ldk (h : LaneCtl) (d : BitVec 8) (m : MemOp)

def sliceWordOf (tsize : BitVec 3) : Instr → Option SliceWord
  | .ldk h d m => some (.ldk h d m)
  | i => (sliceForm tsize i).map .alu

/-- The destination registers, the source registers and the scalar registers (true for an LDK base) of a slice word, in field order a, b, c. -/
def SliceWord.dsts : SliceWord → List VReg
  | .alu f => [f.d]
  | .ldk _ d m => (List.range (typeRegs m.type)).map fun i => { acc := false, k := d + BitVec.ofNat 8 i }
def SliceWord.srcs : SliceWord → List VReg
  | .alu f => f.a.toList ++ (match f.b with
      | some (.v r) => [r]
      | _ => []) ++ f.c.toList
  | .ldk _ _ m => if m.voff then [{ acc := false, k := m.b }] else []
def SliceWord.scalars : SliceWord → List (BitVec 8 × Bool)
  | .alu f => match f.b with
      | some (.s k) => [(k, false)]
      | _ => []
  | .ldk _ _ m => [(m.a, true)]
def SliceWord.ctl : SliceWord → LaneCtl
  | .alu f => f.ctl
  | .ldk h _ _ => h

/-- The conditions of 12 R253 and R254 on one word, for the inputs that VIN marks. -/
def sliceWordOk (vin : BitVec 3) (w : SliceWord) : Bool :=
  let h := w.ctl
  !h.sw && h.dist == 0 && h.wait == 0 && h.setc == 15 && h.pred == 0
    && w.dsts.all (fun r => !r.acc && 3 ≤ r.k.toNat && r.k.toNat ≤ 7)
    && w.srcs.all fun r => !r.acc && r.k.toNat ≤ 7 && (3 ≤ r.k.toNat || vin.getLsbD r.k.toNat)

/-- The scalar registers of a slice in the order of their slots: register, first slot, and whether it takes two (12 R254). -/
def sliceSlots (ws : List SliceWord) : List (BitVec 8 × Nat × Bool) :=
  let refs := ws.flatMap SliceWord.scalars
  let wide (k : BitVec 8) : Bool := refs.any fun r => r.1 == k && r.2
  let ks := ((refs.map Prod.fst).filter fun k => k != 0).eraseDups
  (ks.foldl (fun acc k => (acc.1 ++ [(k, acc.2, wide k)], acc.2 + if wide k then 2 else 1)) (([] : List (BitVec 8 × Nat × Bool)), 0)).1
def slotCount (ls : List (BitVec 8 × Nat × Bool)) : Nat := ls.foldl (fun n x => n + if x.2.2 then 2 else 1) 0

/-- SLOTS of the record (12 R258) from the scalar registers at issue. -/
def packSlots (ls : List (BitVec 8 × Nat × Bool)) (val : BitVec 8 → W64) : BitVec 128 :=
  ls.foldl (fun (acc : BitVec 128) x => acc ||| (((if x.2.2 then val x.1 else (lo32 (val x.1)).setWidth 64).setWidth 128 : BitVec 128) <<< (32 * x.2.1))) 0
/-- A scalar register of a slice as its slots hold it; s0 reads 0. -/
def slotValue (ls : List (BitVec 8 × Nat × Bool)) (slots : BitVec 128) (k : BitVec 8) : W64 :=
  match ls.find? fun x => x.1 == k with
  | some x => if x.2.2 then (slots >>> (32 * x.2.1)).setWidth 64 else ((slots >>> (32 * x.2.1)).setWidth 32).setWidth 64
  | none => 0

/-- The words of a slice as fetched from an object. -/
def sliceFetch (s : State) (g : Group) (obj : Bool) (slice len : Nat) : List Fetched :=
  (List.range (len + 1)).map fun i => fetchLane s g (s.objOf g obj) (slice + i)

/-- A slice word as fetched: a word, a fetch fault, or ILLEGAL where it breaks R253 or R254 or lies past the section's end. -/
def sliceItem (vin : BitVec 3) (tsize : BitVec 3) : Fetched → Except Flt SliceWord
  | .fault f => .error f
  | .beyond => .error { code := 1, addr := 0 }
  | .word w =>
    match (decodeLane w).bind (sliceWordOf tsize) with
    | some x => if sliceWordOk vin x then .ok x else .error { code := 1, addr := 0 }
    | none => .error { code := 1, addr := 0 }
def sliceItems (vin : BitVec 3) (tsize : BitVec 3) (fs : List Fetched) : List (Except Flt SliceWord) := fs.map (sliceItem vin tsize)
/-- The words among them. -/
def sliceOk (xs : List (Except Flt SliceWord)) : List SliceWord :=
  xs.filterMap fun x => match x with
    | .ok w => some w
    | .error _ => none
/-- Whether a word breaks R253 or R254 (a word that failed its fetch faults when it is reached). -/
def sliceIllegal (xs : List (Except Flt SliceWord)) : Bool :=
  xs.any fun x => match x with
    | .ok _ => false
    | .error f => f.code == 1

/-- What running a slice needs: the lanes, the scalars of the slots, the task of the group, a place among the free values, whether an uncorrectable error
is a fault at once, as in a rekindling (12 R266), or deferred, as in a KDEF (R257). -/
structure SliceEnv where
  on     : W32
  scalar : BitVec 8 → W64
  task   : Option Task
  salt   : Nat
  strict : Bool

/-- The result of a slice so far: v0-v7, the ranges its loads read, what they have seen by lane, the addresses with uncorrectable errors. -/
structure SliceRun where
  regs  : List LaneVec
  reads : List (Nat × Nat)
  seen  : List (Nat × Seen)
  bad   : List (Nat × Nat)

def SliceRun.reg (r : SliceRun) (k : BitVec 8) : LaneVec := r.regs.getD k.toNat zeroVec
def SliceRun.write (r : SliceRun) (on : W32) (k : Nat) (x : LaneVec) : SliceRun :=
  { r with regs := listMod r.regs k fun old => laneMerge on old (laneGet x) }

/-- One slice word (12 R256), or the fault of its lowest failing lane. A later load of the slice returns nothing older than an earlier one (17 R355, R369). -/
def sliceStep (s : State) (g : Group) (e : SliceEnv) (r : SliceRun) : SliceWord → Except Flt SliceRun
  | .alu f =>
    let a := match f.a with
      | some x => r.reg x.k
      | none => zeroVec
    let b := match f.b with
      | some (.v x) => r.reg x.k
      | some (.s k) => Vector.replicate 32 (lo32 (e.scalar k))
      | some (.imm i) => Vector.replicate 32 (immValue f.kind i)
      | none => zeroVec
    let z := match f.c with
      | some x => r.reg x.k
      | none => zeroVec
    .ok (r.write e.on f.d.k.toNat (Vector.ofFn fun l => f.op l.val a[l] b[l] z[l]))
  | .ldk _ d m =>
    let n := typeSize m.type
    let ea := eaOf (e.scalar m.a) (if m.voff then some (r.reg m.b) else none) m.disp
    match checkLanes (checkPhys s g needRead n) ea (laneList e.on) with
    | .error f => .error f
    | .ok phys =>
      let earlier := r.seen.flatMap fun x => x.2.stamps
      let reader (l : Nat) : Reader := let q := s.laneReader g l m.scope.toNat; { q with view := q.view.withBytes earlier }
      let rd := servedBy (!m.voff) reader (phys.map Prod.fst)
      let got := phys.map fun x => (x.1, s.readLocs e.task (rd x.1).2 (e.salt + 32 * (rd x.1).1) (globLocs x.2 n))
      let rows := got.map fun x => (x.1, loadWords m.type x.2.1)
      let r := { r with reads := r.reads ++ phys.map (fun x => (x.2, n)), seen := r.seen ++ got.map fun x => (x.1, x.2.2),
                        bad := r.bad ++ (phys.filter fun x => errIn s e.task x.2 n ≠ 0).map fun x => (ea x.1, errIn s e.task x.2 n) }
      .ok ((List.range (typeRegs m.type)).foldl (fun r i => r.write e.on (d.toNat + i) (columnOf rows i)) r)

/-- The words of a slice in order; a fault names the word's index (12 R257, R266) and leaves what the earlier words have read. -/
def sliceWords (s : State) (g : Group) (e : SliceEnv) : Nat → List (Except Flt SliceWord) → SliceRun → Except (Flt × Nat × SliceRun) SliceRun
  | _, [], r => .ok r
  | i, .error f :: _, r => .error (f, i, r)
  | i, .ok w :: ws, r =>
    match sliceStep s g e r w with
    | .error f => .error (f, i, r)
    | .ok r' =>
      match if e.strict then r'.bad.head? else none with
      | some x => .error ({ code := 11, addr := x.1, detail := x.2 }, i, r')
      | none => sliceWords s g { e with salt := e.salt + 1024 } (i + 1) ws r'

/-- FSPC (12 R266). -/
def fspcOf (d : BitVec 8) (word : Nat) : Nat := d.toNat * 2 ^ 32 + word % 2 ^ 19

/-- Running a slice with inputs v0-v2: the run, or the fault with FSPC and the run so far. -/
def runSlice (s : State) (g : Group) (e : SliceEnv) (d : BitVec 8) (slice : Nat) (ws : List (Except Flt SliceWord)) (ins : List LaneVec) :
    Except (Flt × SliceRun) SliceRun :=
  match sliceWords s g e slice ws { regs := ins ++ List.replicate 5 zeroVec, reads := [], seen := [], bad := [] } with
  | .ok r => .ok r
  | .error (f, i, r) => .error ({ f with fspc := fspcOf d i }, r)

/-- The slots of a recipe: by a scan of the words, or as the KDEF found them where a word cannot be fetched now (12 R254). -/
def slotsOf (rc : Recipe) (ws : List (Except Flt SliceWord)) : List (BitVec 8 × Nat × Bool) :=
  if rc.lay.isEmpty || ws.all (fun w => w.isOk) then sliceSlots (sliceOk ws) else rc.lay
/-- The rekindled value of a recipe (12 R262): all lanes, the held inputs as they stand, scalars from the slots, the object of OBJ. A word that no longer
decodes (the object was written, 02 R30) faults as ILLEGAL when it is reached. -/
def kindle (s : State) (g : Group) (rc : Recipe) : Except (Flt × SliceRun) SliceRun :=
  let ws := sliceItems rc.vin rc.tsz (sliceFetch s g rc.obj rc.slice.toNat rc.len.toNat)
  let e : SliceEnv := { on := 0xFFFFFFFF, scalar := slotValue (slotsOf rc ws) rc.slots, task := s.taskOf g, salt := 0, strict := true }
  let input (i : Nat) (k : BitVec 8) : LaneVec := if rc.vin.getLsbD i then g.stored k.toNat else zeroVec
  runSlice s g e rc.dst rc.slice.toNat ws [input 0 rc.ina, input 1 rc.inb, input 2 rc.inc]

/-- The reads of a slice recorded, of a KDEF on a counter (17 R369, 19 R385). -/
def State.sliceReads (s : State) (g : Group) (ctr : BitVec 4) (r : SliceRun) : State × Group := (s.noteReads g r.reads).lanesSaw g ctr none View.fresh r.seen

end Sys2Proof.Machine
end

