-- ==== Sys2Proof/Machine/Ops.lean ====
section
/-!
DEFINITION. The shared operations of the words: taking a trap (22 R418-R424, 07 R144) and returning from it (R423), the quiet points, rekindling and
the recipes of written registers (12 R252, R261-R266), the issue of a lane word (07 R129-R141), the issue of a scalar word (08 R148-R149).
-/
namespace Sys2Proof.Machine

abbrev Out := Host.Outcome State Fault Refusal

/-- The word leaves the run, which remembers it; a run without words leaves the queue (07 R128). -/
def Group.popRun (g : Group) : Group :=
  match g.runq with
  | [] => g
  | r :: rs => { g with runq := if r.buf.length ≤ 1 then rs else { r with next := r.next + 1, buf := r.buf.drop 1, prev := r.buf.head?.join } :: rs }

/-- SKIP is spent when the word it names issues outside a handler (22 R425). -/
def Group.clearSkip (g : Group) (lane : Bool) : Option (Bool × Nat) :=
  if !g.inh && (g.skip.map Prod.fst == some lane) then none else g.skip

/-- An MMQ under TRAP when its group is stopped (15 R339): one that waits for its pass is given up; one whose pass has placed its carries has issued. -/
def Group.endTrial (g : Group) : Group :=
  match g.trial with
  | none => g
  | some t => if t.res = some true then { g.popRun with latch := t.latch, trial := none, skip := g.clearSkip true } else { g with trial := none }

/-- Whether an effect is a WSW that has not had its two FCLK (11 R239). -/
def Eff.early (fclk : Nat) : Eff → Bool
  | .ws t => fclk < t + 2
  | _ => false
/-- The counters of some words on their way. -/
def countsOf (fs : List Flight) : Vector (BitVec 8) 12 := Vector.ofFn fun k => BitVec.ofNat 8 (fs.countP fun f => f.ctr.toNat == k.val)
/-- Every issued word of a group runs to completion (07 R144): its accesses, its matrix queue, its results, c0-c11. A load of the scalar stream gives its value,
an SDIV or SREM is abandoned (08 R149): the scalar stream resumes at it. A WSW keeps its FCLK (11 R239): what follows waits for it. An MMQ waits for its admission no
longer (15 R337). -/
def State.finish (s : State) (g : Group) : State × Group :=
  let (s, g) := s.performAll g
  let (s, g) := s.matrixAll g.endTrial
  let left := g.flights.filter fun f => f.effs.any (Eff.early s.fclk)
  let (s, g) : State × Group := match g.spend with
    | none => (s, g)
    | some p => if p.div then (s, { g with spc := p.idx, spend := none, skip := p.skip }) else (s.draw, { (g.writeSreg s.free p.d p.v) with spend := none })
  (s, { (g.applyEffs g.pending) with flights := left, ctrs := countsOf left, parked := false, passed := 0 })

/-- LPC: the next word of the oldest run, 0 while the queue is empty (07 R128, 22 R419). -/
def Group.lpc (g : Group) : BitVec 19 :=
  match g.runq with
  | r :: _ => BitVec.ofNat 19 r.next
  | [] => 0

/-- CAUSE (22 R419). -/
def causeWord (inh lane : Bool) (f : Flt) : W64 :=
  BitVec.ofNat 64 (inh.toNat * 2 ^ 31 + lane.toNat * 2 ^ 24 + f.detail % 256 * 2 ^ 8 + f.code % 256)

/-- Whether a trap of this code goes to the handler object (22 R422, R424). -/
def toHandler (c : Ctx) (inh : Bool) (code : Nat) : Bool :=
  !inh && code != 8 && c.hobj != 0 && c.hk.isSome && !c.hmask.getLsbD code

/-- The handler entered in an FCLK: what it sets aside, INH, EXM, TPART, SPC (22 R422); the watchdog keeps the microseconds that have counted (R426). -/
def Group.enterHandler (g : Group) (fclk us : Nat) (hk : KObj) : Group :=
  { g with trapAt := some fclk, watch := us - g.watch,
           aside := some { runq := g.runq, exm := g.exm, tpart := g.tpart }, runq := [], exm := 0xFFFFFFFF, tpart := 5,
           cause := g.cause ||| BitVec.ofNat 64 (2 ^ 31), spc := BitVec.ofNat 32 hk.entry }

/-- Which of two requests the save carries out (21 R417, 22 R438): one that holds before one that does not, a trap before a quota. A host's HOLD and a
quota stand beside it, and so does a STEP that the gang has reached. -/
def stopRank : StopReason → Nat
  | .trapHost => 3
  | .quota => 2
  | .hostHold => 1
  | _ => 0
def Wg.askStop (w : Wg) (fclk : Nat) (why : StopReason) : Wg :=
  { w with hold := w.hold || why == .hostHold, quota := w.quota || why == .quota, stopAt := if w.stop.isSome then w.stopAt else fclk, stop := match w.stop with
    | some y => if stopRank y < stopRank why then some why else some y
    | none => some why }
/-- A workgroup asked to stop (22 R427), resident or placed again and not yet restored. -/
def State.requestStop (s : State) (gid lw : Nat) (why : StopReason) : State :=
  { s with wgs := s.wgs.map fun w => if w.is gid lw then w.askStop s.fclk why else w,
           resuming := s.resuming.map fun r => if r.wg.is gid lw then { r with wg := r.wg.askStop s.fclk why } else r }

/-- Taking a trap (22 R419-R424): every issued word completes, CAUSE, EPC, ELPC, FADDR and FSPC are written together, and the group enters the
handler object, or its workgroup is to be saved and held for the host, which the error log records. `epc` is the index that EPC holds: of the
trapping scalar word, or of the next scalar word not yet issued. -/
def State.trapAt (s : State) (g : Group) (lane : Bool) (f : Flt) (next : Bool) : State :=
  let (s, g) := s.finish g
  let epc := if next then g.spc + 1 else g.spc
  let c := s.gctx g
  let inh := g.inh
  let g := { g with cause := causeWord inh lane f, epc := epc, elpc := g.lpc, faddr := BitVec.ofNat 64 f.addr, fspc := BitVec.ofNat 64 f.fspc,
                    spc := epc }
  match if toHandler c inh f.code then c.hk else none with
  | some hk => s.setGroup (g.enterHandler s.fclk s.us hk)
  | none =>
    (((s.setGroup { g with double := g.double || inh, toHost := true }).requestStop g.gid g.lw .trapHost).log
      8 (s.ctxOfGrid g.gid) (f.code + (if inh then 256 else 0)) (s.gridName g.gid) g.lw)

/-- A trap of the word at hand. -/
def State.trapLane (s : State) (g : Group) (f : Flt) : Out := .next (s.trapAt g true f false)
def State.trapScalar (s : State) (g : Group) (f : Flt) : Out := .next (s.trapAt g false f false)
def illegal : Flt := { code := 1, addr := 0 }

/-- What remains of the oldest run after RETT (22 R423): it resumes at ELPC when that lies between its current and its last word, else it is dropped. -/
def resumeRunq (elpc : BitVec 19) : List Run → List Run
  | [] => []
  | r :: rs =>
    let k := elpc.toNat - r.next
    if r.next ≤ elpc.toNat ∧ k < r.left then { r with next := elpc.toNat, buf := r.buf.drop k } :: rs else rs

/-- The return from a handler (22 R423): EXM, TPART and the run queue as set aside, LPC from ELPC, SPC from EPC, INH cleared. -/
def Group.returnFromHandler (g : Group) : Group :=
  let g := match g.aside with
    | some a => { g with exm := a.exm, tpart := a.tpart, runq := resumeRunq g.elpc a.runq, aside := none }
    | none => g
  { g with spc := g.epc, cause := g.cause &&& ~~~(BitVec.ofNat 64 (2 ^ 31)) }

/-- c0-c11 all zero, and the lane run queue empty (08 R168, 12 R245). -/
def Group.countersZero (g : Group) : Bool := g.ctrs.all (· == 0)
def Group.quiet (g : Group) : Bool := g.runq.isEmpty && g.countersZero
/-- c0-c11 all zero, and every in-order result written (07 R139). -/
def Group.drained (g : Group) : Bool := g.countersZero && g.flights.all fun f => f.cls != .inOrder

-- ### Recipes

def Recipe.inputs (r : Recipe) : List (BitVec 8) :=
  (if r.vin.getLsbD 0 then [r.ina] else []) ++ (if r.vin.getLsbD 1 then [r.inb] else []) ++ (if r.vin.getLsbD 2 then [r.inc] else [])
def Group.recipe? (g : Group) (d : Nat) : Option Recipe := g.recipes.find? fun r => r.dst.toNat == d
/-- Whether a vector register is an input of a live recipe (12 R252). -/
def Group.held (g : Group) (k : Nat) : Bool := g.recipes.any fun r => r.inputs.any fun i => i.toNat == k
def Group.isEmber (g : Group) (k : Nat) : Bool := (g.regs[k]?.map Reg.st) == some .ember

/-- One register rekindled (12 R262): the group with its value, or the fault of the slice as REGEN (12 R266). What the slice has read is recorded
either way (17 R369, 19 R385). -/
def State.rekindle (s : State) (g : Group) (k : Nat) : Except (State × Group × Flt) (State × Group) :=
  if g.isEmber k then
    match g.recipe? k with
    | none => .ok (s, g)
    | some rc =>
      match kindle s g rc with
      | .error (f, r) => let x := s.sliceReads g 15 r; .error (x.1, x.2, { f with code := 7, detail := f.code })
      | .ok r => let x := s.sliceReads g 15 r; .ok (x.1, x.2.writePlace k 0xFFFFFFFF (r.reg 3))
  else .ok (s, g)

def State.rekindleAll (s : State) (g : Group) : List Nat → Except (State × Group × Flt) (State × Group)
  | [] => .ok (s, g)
  | k :: ks =>
    match s.rekindle g k with
    | .error e => .error e
    | .ok (s, g) => s.rekindleAll g ks

/-- The EMBER registers whose recipes name a register, in ascending number (12 R264). -/
def Group.embersOn (g : Group) (k : Nat) : List Nat :=
  (List.range g.bound).filter fun d => g.isEmber d && (g.recipe? d).any fun r => r.inputs.any fun i => i.toNat == k

def vecNumbers (rs : List RName) : List Nat := (rs.filter fun r => !r.acc).map RName.k
/-- The EMBER registers that a word rekindles before it issues (12 R252, R262, R264): operands and partly written destinations in field order; then those that
depend on a written register. -/
def Group.toRekindle (g : Group) (reads writes : List RName) (on : W32) : List Nat :=
  ((if on = 0xFFFFFFFF then [] else vecNumbers writes) ++ vecNumbers reads).filter g.isEmber ++ (vecNumbers writes).flatMap g.embersOn
/-- They are rekindled before the word issues. -/
def State.prepare (s : State) (g : Group) (reads writes : List RName) (on : W32) : Except (State × Group × Flt) (State × Group) :=
  s.rekindleAll g (g.toRekindle reads writes on)

/-- The recipes that a write of these registers drops: their own, and those that hold them as inputs (12 R252, R264). -/
def Group.dropRecipes (g : Group) (writes : List RName) : Group :=
  let ks := (writes.filter fun r => !r.acc).map RName.k
  { g with recipes := g.recipes.filter fun r => !(ks.contains r.dst.toNat) && !(r.inputs.any fun i => ks.contains i.toNat),
           regs := g.regs.zipIdx.map fun r => if r.1.st = .ember ∧ ks.contains r.2 then { r.1 with st := .value } else r.1 }

-- ### Lane words

def WordClass.isMemory : WordClass → Bool
  | .memory _ => true
  | _ => false
/-- A memory word that acquires holds every later memory word of its lane stream until it is complete (13 R287, R292). -/
def WordClass.acquires : WordClass → Bool
  | .memory k => k.acq
  | _ => false
def WordClass.releases : WordClass → Bool
  | .memory k => k.rel
  | _ => false
/-- Whether a word completes only after an earlier word of its group: a release after every access (13 R287, R292), the read of a B tile by an MMQ among them
(15 R334); a FENCE that acquires after every load, KDEF and atomic (R292). -/
def WordClass.after (x y : WordClass) : Bool :=
  match x, y with
  | .memory k, .memory j => k.rel || (k.fence && k.acq && j.load)
  | .memory k, .kdef => k.rel || (k.fence && k.acq)
  | .memory k, .mmq => k.rel
  | _, _ => false
/-- Whether a release itself waits before it is performed: a B tile is still to be read (13 R287, 15 R334). A FENCE issues, and completes later. -/
def Group.holdsRelease (g : Group) (c : WordClass) : Bool :=
  match c with
  | .memory k => k.rel && !k.fence && g.flights.any fun f => f.cls == .mmq
  | _ => false
/-- A word that accesses nothing orders nothing (07 R141). -/
def WordClass.idle : WordClass → WordClass
  | .memory _ => .memory { load := false, fence := false, acq := false, rel := false }
  | c => c
/-- A memory word of the group that acquires is not complete. -/
def Group.acquiring (g : Group) : Bool := g.flights.any fun f => f.cls.acquires

/-- The counters of WAIT that are not zero hold the word back (07 R133); so do a full SETC counter and the park of a switch point (R139). -/
def Group.laneReady (g : Group) (h : LaneCtl) : Bool :=
  (List.finRange 12).all (fun k => !h.wait.getLsbD k.val || g.ctrs[k] == 0)
    && (match g.ctrs[h.setc.toNat]? with
      | some c => c != 255
      | none => true)
    && (!g.parked || g.drained)

/-- E(j) of 07 R135, in FCLK, at a ratio in halves of FCLK. -/
def issueGap (ratio : Nat) (dist : BitVec 4) : Nat :=
  match ratio with
  | 1 => 2 * max dist.toNat 1
  | 4 => max ((dist.toNat + 1) / 2) 1
  | _ => max dist.toNat 1
/-- The distance to the group's preceding lane word is met (07 R135). -/
def State.spaced (s : State) (g : Group) (h : LaneCtl) : Bool :=
  match g.last with
  | none => true
  | some x => x.1 + issueGap (s.clusterAt g.cluster).ratio h.dist ≤ s.fclk
/-- A lane word is eligible (07 R133). -/
def State.laneReady (s : State) (g : Group) (h : LaneCtl) : Bool := g.laneReady h && s.spaced g h

/-- The deferred load error that a wait takes: of those whose counters it covers, the one noted first (07 R145; DESIGN CHOICE, notes/assumptions/65). -/
def Group.deferredIn (g : Group) (waits : BitVec 12) : Option Deferred :=
  g.deferred.find? fun d => d.ctr.toNat < 12 && waits.getLsbD d.ctr.toNat
def Group.dropDeferred (g : Group) (d : Deferred) : Group := { g with deferred := g.deferred.erase d }
def Deferred.flt (d : Deferred) : Flt := { code := 11, addr := d.addr.toNat, detail := d.detail.toNat }

/-- The results whose latency the distance of this word completes are visible to it (07 R136). -/
def Group.ageFlights (g : Group) (dist : BitVec 4) : Group :=
  let n := max dist.toNat 1
  let due (f : Flight) : Bool := f.lat != 0 && f.lat ≤ f.age + n
  let g' := g.applyEffs ((g.flights.filter due).flatMap Flight.effs)
  { g' with flights := (g.flights.filter fun f => !(due f && f.ctr == 15)).map fun f =>
      if due f then { f with age := f.age + n, effs := [] } else { f with age := f.age + n } }

def Group.countUp (g : Group) (setc : BitVec 4) : Group :=
  if h : setc.toNat < 12 then { g with ctrs := g.ctrs.set setc.toNat (g.ctrs[setc.toNat] + 1) } else g

/-- The record of an issued word: a flight while it has results or a counter to move, holds later words, or its unit has not finished. -/
def Group.fly (g : Group) (h : LaneCtl) (cls : WordClass) (lat : Nat) (ready : Bool) (effs : List Eff) : Group :=
  if h.setc = 15 ∧ effs = [] ∧ ready ∧ !cls.acquires then { g with nextId := g.nextId + 1 }
  else { g with nextId := g.nextId + 1,
                flights := g.flights ++ [{ id := g.nextId, ctr := h.setc, cls := cls, lat := lat, age := 0, ready := ready, effs := effs }] }

/-- The lane stores on the counters that a word awaited are complete (15 R334). -/
def Group.laneWaited (g : Group) (wait : BitVec 12) : Group :=
  { g with slack := g.slack.map fun x => if x.ctr.toNat < 12 && wait.getLsbD x.ctr.toNat then { x with waited := true } else x }

/-- The counters that a word has awaited: those of WAIT, and all of them behind a switch point (07 R139). -/
def Group.awaits (g : Group) (h : LaneCtl) : BitVec 12 := if g.parked then 0xFFF else h.wait
/-- Issue itself in an FCLK (07 R138, R139): the counter, the flight, the run, the park, the SKIP of a breakpoint; writes to registers of open windows are
noted (15 R336); an MMQ waits for its admission no longer (R337). -/
def Group.issued (g : Group) (fclk : Nat) (h : LaneCtl) (cls : WordClass) (lat : Nat) (ready : Bool) (effs : List Eff) : Group :=
  { ((((g.noteRaces effs).countUp h.setc).fly h cls lat ready effs).popRun.laneWaited (g.awaits h)) with
    parked := h.sw, skip := g.clearSkip true, last := some (fclk, h.setc), passed := 0 }

/-- The stores of a lane word that has issued, by their stamps: the scalar stream does not know them complete yet (13 R157). -/
def Group.tookStores (g : Group) (h : LaneCtl) (stores : List Nat) : Group :=
  if stores.isEmpty then g
  else { g with slack := g.slack ++ [{ id := g.nextId - 1, ctr := h.setc, waited := false, stores := stores, gain := View.fresh, rels := [], obs := [] }] }
/-- The stores of a word of which some lanes have been performed. -/
def Group.midStores (g : Group) : List Nat := (g.mid.map Mid.stores).getD []

/-- What the body of a lane word answers: it traps, it waits (and issues at a later turn), or it has its effect. -/
inductive LaneRes where
  | trap (s : State) (g : Group) (f : Flt)
  | wait (s : State) (mark : Group → Group)
  | done (s : State) (g : Group) (effs : List Eff) (ready : Bool)

/-- The issue of a lane word. A word that is not eligible changes nothing and waits, and so does a memory word behind an acquire (13 R287). A word that traps
in its body leaves what it has read recorded. `whole` words (06 R119, no PRED) act on the lanes of EXM and
always check their registers; the others, without an active lane, move only their counter. A word of which some lanes have been performed has passed all that. `writes` and `reads` are the registers of the fields in
order dst, a, b, c. The recipes that the writes drop are gone when the body runs. The order of causes is that of 22 R420. -/
def laneIssue (s : State) (h : LaneCtl) (whole : Bool) (cls : WordClass) (lat : Nat) (writes reads : List RName) (body : State → Group → W32 → LaneRes) : Out :=
  onGroup s fun g =>
    if !s.laneReady g h || (cls.isMemory && g.acquiring) || g.holdsRelease cls then .next s
    else match g.deferredIn h.wait with
      | some d => s.trapLane (g.dropDeferred d) d.flt
      | none =>
        let aged := if g.mid.isSome then g else g.ageFlights h.dist
        let on := match g.mid with
          | some m => m.on
          | none => if whole then aged.exm else aged.active s.free h.pred
        if on = 0 ∧ !whole then .next (s.draw.setGroup (aged.issued s.fclk h cls.idle lat true []))
        else match s.prepare aged reads writes on with
          | .error (s', g', f) => s'.trapLane g' f
          | .ok (s', g') =>
            match (writes ++ reads).find? fun r => !g'.inAllot r with
            | some r => s'.trapLane g' { code := causeAccess, addr := r.designation }
            | none =>
              match body s' (g'.dropRecipes writes) on with
              | .trap s'' g'' f => s''.trapLane { g' with acqv := g''.acqv, obsv := g''.obsv } f
              | .wait s'' mark => .next (s''.setGroup (mark g))
              | .done s'' g'' effs ready =>
                .next (s''.draw.setGroup ((g''.issued s.fclk h cls lat ready (g'.settle s.free effs)).tookStores h
                  (g.midStores ++ stampsFrom s'.order.stamp s''.order.stamp)))

/-- The value that a word leaves in a register, as an effect. -/
def regEff (g : Group) (r : RName) (on : W32) (x : LaneVec) : Eff := .reg (g.place r) on x

/-- The latencies of 07 R136. -/
abbrev latB : Nat := 4
abbrev latA : Nat := 6

/-- A lane arithmetic word that writes one register (10 R201). -/
def laneAlu (s : State) (h : LaneCtl) (lat : Nat) (d : VReg) (srcs : List RName) (f : Group → W32 → LaneVec) : Out :=
  laneIssue s h false .inOrder lat [regName d] srcs fun s g on => .done s g [regEff g (regName d) on (f g on)] true

def alu1 (s : State) (h : LaneCtl) (lat : Nat) (d a : VReg) (op : W32 → W32) : Out :=
  laneAlu s h lat d [regName a] fun g _ => (g.readReg s.free (regName a)).map op
def alu2 (s : State) (h : LaneCtl) (lat : Nat) (k : ImmKind) (d a : VReg) (b : BOpnd) (op : W32 → W32 → W32) : Out :=
  laneAlu s h lat d (regName a :: opndRegs b) fun g _ =>
    let va := g.readReg s.free (regName a)
    let vb := g.readB s.free k b
    Vector.ofFn fun l => op va[l] vb[l]
def alu3 (s : State) (h : LaneCtl) (lat : Nat) (k : ImmKind) (d a : VReg) (b : BOpnd) (c : VReg) (op : W32 → W32 → W32 → W32) : Out :=
  laneAlu s h lat d (regName a :: opndRegs b ++ [regName c]) fun g _ =>
    let va := g.readReg s.free (regName a)
    let vb := g.readB s.free k b
    let vc := g.readReg s.free (regName c)
    Vector.ofFn fun l => op va[l] vb[l] vc[l]

/-- A compare that writes a mask (10 R208, R212). -/
def aluMask (s : State) (h : LaneCtl) (lat : Nat) (k : ImmKind) (m : BitVec 3) (a : VReg) (b : BOpnd) (op : W32 → W32 → Bool) : Out :=
  laneIssue s h false .inOrder lat [] (regName a :: opndRegs b) fun s g on =>
    let va := g.readReg s.free (regName a)
    let vb := g.readB s.free k b
    .done s g [.mask m on (maskOf fun l => op (laneGet va l) (laneGet vb l))] true

-- ### Scalar words

/-- A scalar word that writes `d` waits while a queued run reads it (07 R130), and every scalar word waits for a result on its way (08 R148). In a trap handler the runs
that it has set aside hold no write back (DESIGN CHOICE, notes/assumptions/42). -/
def Group.scalarStalls (g : Group) (d : BitVec 8) : Bool :=
  g.spend.isSome || (d != 0 && g.runq.any fun r => r.reads.contains d)

/-- The scalar stream goes on to a word index. -/
def Group.goto (g : Group) (pc : W32) : Group := { g with spc := pc, skip := g.clearSkip false, stepHeld := false }
def Group.advance (g : Group) : Group := g.goto (g.spc + 1)

/-- A scalar word that writes `d` (0: none): it waits, or acts. -/
def scalarWord (s : State) (d : BitVec 8) (f : Group → Out) : Out :=
  onGroup s fun g => if g.scalarStalls d then .next s else f g

/-- A scalar word that computes a register (08 R147). -/
def scalarAlu (s : State) (d : BitVec 8) (f : Group → W64) : Out :=
  scalarWord s d fun g => .next (s.draw.setGroup ((g.writeSreg s.free d (f g)).advance))

/-- The watchdog's count starts anew (22 R426). -/
def Group.touch (g : Group) (s : State) : Group := { g with watch := if g.inh then 0 else (s.us : Int) }

/-- A waiting word completes (22 R426 lists which restart the watchdog). -/
def State.waitDone (s : State) (g : Group) : State := s.setGroup ((g.touch s).advance)

end Sys2Proof.Machine
end

