-- ==== Sys2Proof/Machine/ScalarMem.lean ====
section
/-!
DEFINITION. SLD, SST and SLDC (08 R156-R158).
-/
namespace Sys2Proof.Machine

/-- Bytes and sign of an SLD (08 R156): 0 .u8, 1 .s8, 2 .u16, 3 .s16, 4 .u32, 5 .s32, 6 .u64. -/
def sldSize (t : BitVec 3) : Nat := 2 ^ (t.toNat / 2)
def sldValue (t : BitVec 3) (x : Nat) : W64 := if t.toNat % 2 = 1 then wrap 64 (sgn (8 * sldSize t) x) else BitVec.ofNat 64 x

/-- The address of SLD and SST. -/
def scalarEa (g : Group) (free : Nat) (a : BitVec 8) (i : BitVec 9) : Nat := (g.sreg free a + i.signExtend 64).toNat

/-- Whether the group runs an ordered task (19 R382). -/
def State.inTask (s : State) (g : Group) : Bool := (s.taskOf g).isSome

/-- SLD: checks, then the load, whose value SCALAR_RESULT_READY writes (08 R148). An uncorrectable error or a link that is down traps with ECC
at the word itself (20 R399); what it has read counts for a task's signature either way (19 R385). -/
def execSld (t : BitVec 3) (d a : BitVec 8) (i : BitVec 9) (s : State) : Out :=
  scalarWord s d fun g =>
    let n := sldSize t
    let ea := scalarEa g s.free a i
    match checkPhys s g needRead n ea with
    | .error c => s.trapScalar g { code := c, addr := ea }
    | .ok p =>
      let e := errIn s (s.taskOf g) p n
      let s' := s.noteReads g [(p, n)]
      if e ≠ 0 then s'.trapScalar g (eccFlt ea e)
      else
        let got := s.readLocs (s.taskOf g) (s.scalarReader g) 0 (globLocs p n)
        let r := s'.draw.scalarSaw g got.2
        .next (r.1.setGroup { r.2.advance with spend := some { idx := g.spc, d := d, v := sldValue t (leNat got.1), div := false, skip := none } })

/-- SST: the low bytes of sb (08 R156). -/
def execSst (t : BitVec 2) (b a : BitVec 8) (i : BitVec 9) (s : State) : Out :=
  scalarWord s 0 fun g =>
    let n := 2 ^ t.toNat
    let ea := scalarEa g s.free a i
    match checkPhys s g needWrite n ea with
    | .error c => s.trapScalar g { code := c, addr := ea }
    | .ok p =>
      if !linkUp s p then s.trapScalar g (eccFlt ea 2)
      else match s.storeRoom g [(p, n)] with
        | none => .next s
        | some s' => .next ((s'.draw.setGroup g.advance).storeGlob g (s.scalarWriter g) p (leBytes n (g.sreg s.free b).toNat))

/-- The word that a constant read returns (08 R158, 02 R30): inside a task as memory stands (19 R385), else the word of the launch or of any time since, whole. -/
def State.constant (s : State) (g : Group) (x : Got) : Nat :=
  if (s.taskOf g).isSome then leNat x.bytes
  else (pickFrom s.free 0 (s.order.wordChoices s.mem (((s.grid? g.gid).map Grid.born).getD 0) x.phys)).getD (leNat x.bytes)
/-- SLDC (08 R158): the 64-bit word of the data section of the object at hand (22 R422). -/
def execSldc (d : BitVec 8) (i : BitVec 17) (s : State) : Out :=
  scalarWord s d fun g =>
    let k := s.codeObj g
    let ea := k.addr + k.doff + 8 * i.toNat
    if k.doff = 0 ∨ k.dlen < 8 * i.toNat + 8 then s.trapScalar g { code := causeAccess, addr := ea }
    else match readRange s (s.ctxOfGrid g.gid) (s.taskOf g) (s.scalarReader g) 0 ea 8 with
      | .error f => s.trapScalar g { f with addr := ea }
      | .ok x =>
        let s' := s.noteReads g (x.phys.map fun p => (p, 1))
        if x.err ≠ 0 then s'.trapScalar g (eccFlt ea x.err)
        else .next (s'.draw.setGroup { g.advance with spend := some { idx := g.spc, d := d, v := BitVec.ofNat 64 (s.constant g x), div := false, skip := none } })

end Sys2Proof.Machine
end

