-- ==== Sys2Proof/Machine/Flags.lean ====
section
/-!
DEFINITION. Conditions of the scalar stream: SBC (06 R110, 08 R160) and BRL (07 R142). The hardware has no flags: compares write registers or masks.
-/
namespace Sys2Proof.Machine

/-- The SBC conditions on Signed(A). -/
def sbcCond (c : Nat) (a : W64) : Bool :=
  match c with
  | 0 => a == 0
  | 1 => a != 0
  | 2 => a.toInt < 0
  | 3 => 0 ≤ a.toInt
  | 4 => 0 < a.toInt
  | _ => a.toInt ≤ 0

/-- BRL over the lanes of EXM (07 R142): taken, not taken, or none for UNIFORMITY. `neg` tests the complement (08 R161). -/
def brlTaken (u neg : Bool) (exm mk : W32) : Option Bool :=
  let t := exm &&& (if neg then ~~~mk else mk)
  if u then (if t = 0 then some false else if t = exm then some true else none) else some (t != 0)

end Sys2Proof.Machine
end

