-- ==== Sys2Proof/Machine/ScalarCtl.lean ====
section
/-!
DEFINITION. Branches, runs, waits, barriers and step boundaries of the scalar stream (08 R159-R169).
-/
namespace Sys2Proof.Machine

/-- The word index SPC + OFF13 (08 R159). -/
def Group.target (g : Group) (o : BitVec 13) : W32 := g.spc + o.signExtend 32

def execSbr (o : BitVec 13) (s : State) : Out := scalarWord s 0 fun g => .next (s.setGroup (g.goto (g.target o)))
def execSbc (c : BitVec 4) (a : BitVec 8) (o : BitVec 13) (s : State) : Out :=
  scalarWord s 0 fun g => .next (s.draw.setGroup (if sbcCond c.toNat (g.sreg s.free a) then g.goto (g.target o) else g.advance))

/-- BRL (07 R142, 08 R161). -/
def execBrl (u n : Bool) (k : BitVec 3) (o : BitVec 13) (s : State) : Out :=
  scalarWord s 0 fun g =>
    match brlTaken u n g.exm (g.mask s.free k) with
    | some t => .next (s.draw.setGroup (if t then g.goto (g.target o) else g.advance))
    | none => s.trapScalar g { code := 2, addr := 0 }

def execScall (d : BitVec 8) (o : BitVec 13) (s : State) : Out :=
  scalarWord s d fun g => .next (s.draw.setGroup ((g.writeSreg s.free d ((g.spc + 1).setWidth 64)).goto (g.target o)))
def execSret (a : BitVec 8) (s : State) : Out := scalarWord s 0 fun g => .next (s.draw.setGroup (g.goto (lo32 (g.sreg s.free a))))

/-- SLOOP (08 R160). -/
def execSloop (a : BitVec 8) (o : BitVec 13) (s : State) : Out :=
  scalarWord s a fun g =>
    let x := g.sreg s.free a
    .next (s.draw.setGroup (if x = 0 then g.advance
      else
        let g' := g.writeSreg s.free a (x - 1)
        if x - 1 ≠ 0 then g'.goto (g.target o) else g'.advance))

/-- The scalar registers that a lane word reads (07 R130). -/
def opndScalars : BOpnd → List (BitVec 8)
  | .s k => [k]
  | _ => []
def laneScalars : Instr → List (BitVec 8)
  | .iadd _ _ _ b _ | .isub _ _ _ b _ | .iadd3 _ _ _ b _ _ | .imul _ _ _ b _ | .imulh _ _ _ b _ | .imad _ _ _ b _ _ => opndScalars b
  | .iwadd _ _ _ b _ | .idp4 _ _ _ b _ _ | .imin _ _ _ b _ | .imax _ _ _ b _ | .iand _ _ _ b _ | .ior _ _ _ b _ => opndScalars b
  | .ixor _ _ _ b _ | .ishl _ _ _ b _ | .ishr _ _ _ b _ | .isra _ _ _ b _ | .ibfe _ _ _ b _ | .ibfi _ _ _ b _ _ => opndScalars b
  | .icmp _ _ _ b _ | .isel _ _ _ b _ _ | .fadd _ _ _ b _ | .fsub _ _ _ b _ | .fmul _ _ _ b _ | .ffma _ _ _ b _ _ => opndScalars b
  | .fmin _ _ _ b _ | .fmax _ _ _ b _ | .fcmp _ _ _ b _ | .fscale _ _ _ b _ | .hadd2 _ _ _ b _ | .hmul2 _ _ _ b _ => opndScalars b
  | .hfma2 _ _ _ b _ _ | .badd2 _ _ _ b _ | .bmul2 _ _ _ b _ | .bfma2 _ _ _ b _ _ | .pack _ _ _ b _ | .shfl _ _ _ b _ => opndScalars b
  | .vtos _ _ _ b _ _ => opndScalars b
  | .mset _ _ a => [a]
  | .stov _ _ a _ => [a]
  | .ldk _ _ m | .ld _ _ m | .st _ _ m | .lds _ _ m | .sts _ _ m | .ldt _ _ m | .atom _ _ _ m | .atoms _ _ _ m | .pref _ m => [m.a]
  | .mmq _ _ _ _ sb sc => [sb, sc]
  | .dualWord _ x y => (if x.bs then [x.b] else []) ++ (if y.bs then [y.b] else [])
  | _ => []

/-- The scalar registers of the slice that a KDEF names. -/
def kdefScalars (s : State) (g : Group) : Instr → List (BitVec 8)
  | .kdef _ _ _ _ _ len slice =>
    (sliceFetch s g g.inh slice.toNat len.toNat).flatMap fun f => match f with
      | .word w => (((decodeLane w).bind (sliceWordOf 5)).map fun x => x.scalars.map Prod.fst).getD []
      | _ => []
  | _ => []

/-- The run that LRUN fetches (07 R128, R130, R462), with what its LRUN hands to the lanes (17 R352), what the scalar stream's reads have met and what it has observed
(R359, R357). A word that cannot be fetched now adds nothing to the registers that the run reads, also when it is fetched and issues later (DESIGN CHOICE,
notes/assumptions/42). -/
def fetchRun (s : State) (g : Group) (view : View) (target count : Nat) : Run :=
  let ws := (List.range count).map fun i => match fetchLane s g (s.codeObj g) (target + i) with
    | .word w => some w
    | _ => none
  { next := target, buf := ws, prev := none, view := view, heard := g.heard, obs := g.sobs,
    reads := (ws.flatMap fun w => match w.bind decodeLane with
      | some i => laneScalars i ++ kdefScalars s g i
      | none => []).eraseDups }

/-- LRUN (08 R162): it waits while the queue holds four runs. -/
def execLrun (count : BitVec 6) (target : BitVec 19) (s : State) : Out :=
  scalarWord s 0 fun g =>
    if 4 ≤ g.runq.length then .next s
    else .next (s.setGroup { g.advance with runq := g.runq ++ [fetchRun s g (s.order.hands (s.scalarAgent g)) target.toNat (count.toNat + 1)] })

/-- LSYNC (08 R163). -/
def execLsync (s : State) : Out := scalarWord s 0 fun g => .next (if g.runq.isEmpty then s.setGroup g.advance else s)

/-- A wait of the scalar stream that covers some counters (07 R145): a deferred load error is taken before the word completes. -/
def scalarWait (s : State) (covers : BitVec 12) (ready : Group → Bool) (f : Group → Out) : Out :=
  scalarWord s 0 fun g =>
    if !ready g then .next s
    else match g.deferredIn covers with
      | some d => s.trapScalar (g.dropDeferred d) d.flt
      | none => f g

abbrev allCounters : BitVec 12 := 0xFFF

/-- A counter as WAITC reads it: without the increment of a lane word that issues in the same FCLK (08 R164). -/
def Group.countNow (g : Group) (fclk : Nat) (k : Nat) : BitVec 8 :=
  let c := g.ctrs[k]?.getD 0
  if g.last.any fun x => x.1 == fclk && x.2.toNat == k then c - 1 else c

/-- WAITC (08 R164). A deferred error of a load that issues in the same FCLK counts for it, though its count does not (DESIGN CHOICE, notes/assumptions/65). A zero count proves the lane accesses on the counter complete (07 R140), also to the scalar stream (17 R352), but for a word that issues in the
same FCLK. -/
def execWaitc (k : BitVec 4) (n : BitVec 8) (s : State) : Out :=
  scalarWait s (1 <<< k.toNat) (fun g => g.countNow s.fclk k.toNat ≤ n) fun g =>
    let r := if g.countNow s.fclk k.toNat = 0 then s.awaited g k else (s, g)
    .next (r.1.setGroup r.2.advance)

/-- The lane run queue is empty and every lane memory word has completed (08 R165). -/
def Group.memoryDone (g : Group) : Bool := g.runq.isEmpty && g.flights.all fun f => !f.cls.isMemory
/-- The same, and every B tile has been read: every access of the group is performed (13 R297, 15 R334). -/
def Group.accessesDone (g : Group) : Bool := g.memoryDone && g.flights.all fun f => f.cls != .mmq

/-- Bit of a barrier arrival (22 R431 BARS): BARW [3:0], BARG [7:4]. -/
def barBit (gang : Bool) (id : BitVec 2) : Nat := id.toNat + if gang then 4 else 0

/-- BARW and BARG (08 R165, R166): ILLEGAL past NBAR (02 R35); the group waits for its memory words, arrives, and waits for the release. -/
def barrier (s : State) (gang : Bool) (id : BitVec 2) : Out :=
  onGroup s fun g =>
    if (s.desc g.gid).nbar ≤ id.toNat then s.trapScalar g illegal
    else if g.bars.getLsbD (barBit gang id) then .next s
    else scalarWait s allCounters Group.memoryDone fun g => .next (s.setGroup { g with bars := g.bars ||| BitVec.ofNat 8 (2 ^ barBit gang id) })
def execBarw (id : BitVec 2) (s : State) : Out := barrier s false id
def execBarg (id : BitVec 2) (s : State) : Out := barrier s true id

/-- The groups that a barrier counts: those of the workgroup, or of the gang, that have not exited (08 R165-R167). -/
def State.barrierGroups (s : State) (g : Group) (gang : Bool) : List Group :=
  if gang then s.gangGroups g.gid (gangIdx (s.desc g.gid) g.lw) else s.wgGroups g.gid g.lw

/-- What the groups of a barrier hand on to each other (08 R165, 17 R360). -/
def State.meet (s : State) (gs : List Group) : State :=
  let v := gs.foldl (fun (v : View) g => v.join (s.groupHands g)) View.fresh
  gs.foldl (fun s g => s.groupJoin g v) s
/-- The release of a barrier: every group counted has arrived; each goes on, and the barrier resets (08 R165, R167). -/
def execBarrierRelease (slot : Nat) (gang : Bool) (id : BitVec 2) (s : State) : Out :=
  withGroup s slot fun g =>
    let gs := s.barrierGroups g gang
    let bit := barBit gang id
    if gs.all fun x => x.bars.getLsbD bit then
      gs.foldl (fun s x => (s.scalarObserves x).setGroup ({ (x.touch s).advance with bars := x.bars &&& ~~~(BitVec.ofNat 8 (2 ^ bit)), slack := [] }.takeRels (x.slack.flatMap Slack.rels))) (s.meet gs)
    else s

/-- Whether a gang is asked to stop or to move (22 R427, R435, R436). -/
def State.gangStop (s : State) (gid gang : Nat) : Option StopReason :=
  s.wgs.findSome? fun w => if w.gid == gid && gangIdx (s.desc gid) w.lw == gang then w.stop else none
/-- Whether that request came in an earlier FCLK: in its own, the words and traps of the gang's groups still come first (22 R438). -/
def State.gangHalted (s : State) (gid gang : Nat) : Bool :=
  s.wgs.any fun w => w.gid == gid && gangIdx (s.desc gid) w.lw == gang && w.stop.isSome && w.stopAt < s.fclk
def State.gangMigrates (s : State) (gid gang : Nat) : Bool :=
  s.wgs.any fun w => w.gid == gid && gangIdx (s.desc gid) w.lw == gang && w.migr
def State.cutting (s : State) (gid : Nat) : Bool := (s.grid? gid).any fun d => !d.cut.isEmpty
/-- Whether a STEP holds the group for a cut or a migration (08 R168). -/
def State.stepStops (s : State) (g : Group) : Bool := s.cutting g.gid || s.gangMigrates g.gid (gangIdx (s.desc g.gid) g.lw)

/-- STEPN (08 R168, R171). -/
def stepnNext (x : W64) (n : BitVec 16) : W64 := (x >>> 16 + 1) <<< 16 ||| n.setWidth 64

/-- Once every group of the gang stands at a completed STEP, the gang is to be saved, whatever else asks for the save (22 R435, R436). A migration that is asked for
then is carried out: the request has been met and can be withdrawn no longer (DESIGN CHOICE, notes/assumptions/68). -/
def State.stopAtStep (s : State) (gid gang : Nat) : State :=
  let gs := s.gangGroups gid gang
  if gs.all Group.stepHeld then
    let moving := s.gangMigrates gid gang
    let s := (gangOf (s.desc gid) gang).foldl (fun s lw => s.requestStop gid lw (if s.cutting gid then .cut else .migration)) s
    { s with wgs := s.wgs.map fun (w : Wg) =>
      if w.gid == gid && gangIdx (s.desc gid) w.lw == gang then { w with atStep := true, moves := w.moves || moving } else w }
  else s

/-- STEP (08 R168). -/
def execStep (n : BitVec 16) (s : State) : Out :=
  scalarWait s allCounters Group.quiet fun g =>
    let held := s.stepStops g
    let s' := s.setGroup { (g.touch s).advance with stepn := stepnNext g.stepn n, stepHeld := held }
    .next (if held then s'.stopAtStep g.gid (gangIdx (s.desc g.gid) g.lw) else s')

/-- PHINT (08 R169): it holds the group when a pre-emption is requested, and has no effect otherwise. -/
def execPhint (_n : BitVec 16) (s : State) : Out :=
  scalarWord s 0 fun g => .next (if (s.gangStop g.gid (gangIdx (s.desc g.gid) g.lw)).isSome then s else s.setGroup g.advance)

-- ### What holds a stream

/-- A breakpoint that names a word (22 R421): [31] VALID, [30] STREAM, [29:0] the index. -/
def brkMatches (b : W32) (lane : Bool) (idx : Nat) : Bool := b.getLsbD 31 && b.getLsbD 30 == lane && b.toNat % 2 ^ 30 == idx
/-- Whether BREAK is raised before a word issues (22 R425): not in a handler, not at the word that SKIP names, not at a word that has begun to wait or of which lanes
have been performed. -/
def breaks (s : State) (g : Group) (lane : Bool) (idx : Nat) : Bool :=
  !g.inh && g.skip != some (lane, idx) && (s.gctx g).brk.toList.any (fun b => brkMatches b lane idx)
    && (if lane then g.mid.isNone else g.bars == 0 && g.growAsk.isNone)

/-- PHINT n when it is the group's next scalar word (22 R428, 08 R169). -/
def State.atPhint (s : State) (g : Group) : Option Nat :=
  match fetchScalar s g g.spc.toNat with
  | .word w => match decodeScalar w with
    | some (.phint n) => some n.toNat
    | _ => none
  | _ => none
/-- A group that its PHINT holds stops only once its lane run queue is empty and its counters are zero (22 R428, 08 R169). -/
def State.phintWaits (s : State) (g : Group) : Bool := !g.toHost && (s.atPhint g).isSome && !g.quiet

/-- A group whose scalar stream does not issue: its trap waits for the host, a STEP holds it (22 R435, R436), or its gang is to be saved (R428). -/
def State.frozen (s : State) (g : Group) : Bool := g.toHost || g.stepHeld || s.gangHalted g.gid (gangIdx (s.desc g.gid) g.lw)
/-- Whether a group that has entered its handler waits for a WSW that it had issued before: every issued word completes first (07 R144, 11 R239). -/
def Group.entryWaits (g : Group) (fclk : Nat) : Bool :=
  g.inh && g.trapAt.any fun t => g.flights.any fun f => f.effs.any fun e => match e with
    | .ws u => u ≤ t && fclk < u + 2
    | _ => false
/-- Whether a group may have a scalar word now: nothing holds its stream, no scalar result is on its way (08 R148), and no lane word has lanes left to perform
(notes/assumptions/5). -/
def State.scalarOpen (s : State) (g : Group) : Bool := !(s.frozen g || g.spend.isSome || g.mid.isSome || g.entryWaits s.fclk)
/-- The scalar word at which a group waits, for a unit that ends the wait: none while the group may have no scalar word, or where BREAK comes first (22 R425). -/
def State.waitingWord (s : State) (g : Group) : Option Instr :=
  if !s.scalarOpen g || breaks s g false g.spc.toNat then none
  else match fetchScalar s g g.spc.toNat with
    | .word w => decodeScalar w
    | _ => none
/-- A group whose lane stream does not issue: the same, but a PHINT lets the queued runs end (22 R428), and a word of which lanes have been performed ends; and a
cluster that changes its ratio (21 R411). -/
def State.laneFrozen (s : State) (g : Group) : Bool := (s.frozen g && !s.phintWaits g && g.mid.isNone) || (s.clusterAt g.cluster).switching

end Sys2Proof.Machine
end

