-- ==== Sys2Proof/Machine/ScalarSys.lean ====
section
/-!
DEFINITION. Special registers (06 R112, 08 R170-R171, 02 R37), TRAP and RETT, GROW, SHRINK and SETBND with the register pool of a core
(12 R245-R250, 04 R67), and the progress watchdog (22 R426).
-/
namespace Sys2Proof.Machine

/-- HEAD of a vault band, in GB/s (21 R408). -/
def bandHead (band : Nat) : Nat :=
  match band with
  | 0 => 182
  | 1 => 172
  | 2 => 153
  | _ => 0
/-- TALW(i) (21 R409): BAND 3, TEMP 0, HEAD 0 until the first sample (R407). -/
def State.talw (s : State) (i : Nat) : W64 :=
  let v := s.units.vaultSens.getD i Sensor.reset
  BitVec.ofNat 64 (v.band * 2 ^ 32 + (wrap 16 v.temp).toNat * 2 ^ 16 + bandHead v.band)

/-- EQUOTA (21 R415): LEFT is [62:0] of what is left; of a descriptor's quota of 2^63 or more all 64 bits count (DESIGN CHOICE, notes/assumptions/63). -/
def State.equota (s : State) (gid : Nat) : W64 :=
  match s.grid? gid with
  | some d => if d.unl then BitVec.ofNat 64 (2 ^ 63) else BitVec.ofNat 64 (d.left % 2 ^ 63)
  | none => 0

/-- VBND (12 R243). -/
def Group.vbnd (g : Group) : W64 := BitVec.ofNat 64 (g.regs.length / 8 * 2 ^ 16 + g.bound)

/-- CLKL: LCLK cycles of a cluster (08 R171). -/
def State.clkl (s : State) (cluster : Nat) : W64 := BitVec.ofNat 64 ((s.clusterAt cluster).halves / 2)

/-- WPk of a core (14 R309). -/
def State.wp (s : State) (core k : Nat) : BitVec 57 := ((s.units.wp.find? fun w => w.1 == core && w.2.1 == k).map fun w => w.2.2).getD 0

/-- The value that SGET gives for a special register (06 R112). -/
def State.special (s : State) (g : Group) (r : Nat) : W64 :=
  let d := s.desc g.gid
  let task := ((s.grid? g.gid).map Grid.isTask).getD false
  let gang := if task then 0 else gangIdx d g.lw
  match r with
  | 0x00 => BitVec.ofNat 64 (g.lw % max d.gang 1 * 2 ^ 8 + g.k)
  | 0x01 => BitVec.ofNat 64 (gang % max d.gridx 1)
  | 0x02 => BitVec.ofNat 64 (gang / max d.gridx 1 % max d.gridy 1)
  | 0x03 => BitVec.ofNat 64 (gang / max d.gridx 1 / max d.gridy 1)
  | 0x04 => BitVec.ofNat 64 d.gridx
  | 0x05 => BitVec.ofNat 64 d.gridy
  | 0x06 => BitVec.ofNat 64 d.gridz
  | 0x07 => BitVec.ofNat 64 (((s.wg? g.gid g.lw).map Wg.lcore).getD 0)
  | 0x08 => BitVec.ofNat 64 g.core
  | 0x09 => g.exm.setWidth 64
  | 0x0A => g.tpart.setWidth 64
  | 0x0B => g.vbnd
  | 0x0C => s.equota g.gid
  | 0x0D => g.stepn
  | 0x0E => g.cause
  | 0x0F => g.epc.setWidth 64
  | 0x10 => g.elpc.setWidth 64
  | 0x11 => g.faddr
  | 0x12 => g.fspc
  | 0x13 => g.progto.setWidth 64
  | 0x14 => BitVec.ofNat 64 s.fclk
  | 0x15 => s.clkl g.cluster
  | _ => if 0x40 ≤ r then s.talw (r - 0x40) else (s.wp g.core (r - 0x18)).setWidth 64

/-- SGET (08 R170). -/
def execSget (d r : BitVec 8) (s : State) : Out := scalarAlu s d fun g => s.special g r.toNat

/-- The tile codes of TPART that are not reserved (07 R141). -/
def tsizeOk (x : W64) : Bool := let t := x.toNat % 8; t != 0 && t != 6 && t != 7

/-- SSET (08 R170): EXM and TPART once the lane run queue is empty (07 R130); PROGTO restarts the watchdog; read-only registers ignore it. -/
def execSset (r a : BitVec 8) (s : State) : Out :=
  scalarWord s 0 fun g =>
    let x := g.sreg s.free a
    match r.toNat with
    | 0x09 => .next (if g.runq.isEmpty then s.draw.setGroup { g.advance with exm := lo32 x } else s)
    | 0x0A => .next (if g.runq.isEmpty then s.draw.setGroup { g.advance with tpart := if tsizeOk x then x.setWidth 3 else g.tpart } else s)
    | 0x0F => .next (s.draw.setGroup { g.advance with epc := lo32 x })
    | 0x10 => .next (s.draw.setGroup { g.advance with elpc := x.setWidth 19 })
    | 0x13 => .next (s.draw.setGroup { (g.touch s).advance with progto := lo32 x })
    | _ => .next (s.draw.setGroup g.advance)

/-- TRAP (08 R172): TRAPI with FADDR n; EPC is the next word, so the word counts as issued (22 R425). -/
def execTrap (n : BitVec 16) (s : State) : Out :=
  scalarWord s 0 fun g => .next (s.trapAt { g with skip := g.clearSkip false } false { code := 13, addr := n.toNat } true)

/-- RETT (08 R173, 22 R423): ILLEGAL outside a handler; it waits for the quiet point, then everything is restored in one step. -/
def execRett (s : State) : Out :=
  onGroup s fun g =>
    if !g.inh then s.trapScalar g illegal
    else scalarWait s allCounters Group.quiet fun g =>
      let g' := g.returnFromHandler.touch s
      let keep (x : Bool × Nat) : Bool := if x.1 then g'.lpc.toNat == x.2 && !g'.runq.isEmpty else g'.spc.toNat == x.2
      .next (s.setGroup { g' with skip := if (g.skip.map keep).getD false then g.skip else none })

-- ### The register pool of a core

/-- The partition word of a core: that of its resident workgroups, 0 when it is empty (02 R34, 26 R453). -/
def State.corePart (s : State) (core : Nat) : Nat :=
  match s.coreTenants core with
  | w :: _ => (s.desc w.1.gid).part
  | [] => 0
/-- Granules of a core that no group holds (12 R249): RPG units of 64 granules, less the allotments. -/
def State.freeGranules (s : State) (core : Nat) : Nat :=
  s.corePart core / 2 ^ 8 * 64 - ((s.coreTenants core).map fun w => (w.2.map fun g => g.regs.length / 8).sum).sum

/-- An allotment that grows: accumulators at the top, VOID (12 R246). -/
def Group.grow (g : Group) (n : Nat) : Group := { g with regs := g.regs ++ List.replicate (8 * n) Reg.fresh, growAsk := none }

/-- The fault of an allotment request (12 R244, R245). -/
def askFault (n : Nat) : Flt := { code := causeAccess, addr := designation 2 n }

/-- The waiting GROWs of a core, oldest first, then the lowest slot (12 R246). -/
def olderAsk (a b : Group) : Bool :=
  match a.growAsk, b.growAsk with
  | some (_, t), some (_, u) => t < u || (t == u && a.slot ≤ b.slot)
  | _, _ => false
def State.firstAsk (s : State) (core : Nat) : Option Group :=
  let asks := s.groups.filter fun g => g.core == core && g.growAsk.isSome
  asks.find? fun g => asks.all fun x => olderAsk g x
/-- The granules that waiting GROWs of a core ask for; how many of the free ones have become free while one waited, and do not reach the dispatcher (12 R246). -/
def State.askedGranules (s : State) (core : Nat) : Nat :=
  ((s.groups.filter fun g => g.core == core).map fun g => match g.growAsk with
    | some (n, _) => n
    | none => 0).sum
def State.withheld (s : State) (core : Nat) : Nat := min ((s.units.withheld.lookup core).getD 0) (s.askedGranules core)
def State.setWithheld (s : State) (core n : Nat) : State := { s with units := { s.units with withheld := assocSet core n s.units.withheld } }
/-- The oldest GROW of a core granted when its granules are free. -/
def State.grantGrow (s : State) (core : Nat) : State :=
  match s.firstAsk core with
  | some g => match g.growAsk with
    | some (n, _) => if n ≤ s.freeGranules core then (s.setGroup ((g.grow n).touch s).advance).setWithheld core (s.withheld core - n) else s
    | none => s
  | none => s
def State.grantGrows (s : State) (core : Nat) : Nat → State
  | 0 => s
  | n + 1 => (s.grantGrow core).grantGrows core n
/-- `n` granules of a core have become free: its waiting GROWs are served first (12 R246). -/
def State.freed (s : State) (core n : Nat) : State := (s.setWithheld core (s.withheld core + n)).grantGrows core 48

/-- GROW (12 R246): granted at once when no other GROW waits and the granules are free; else it waits for its grant. -/
def execGrow (n : BitVec 6) (s : State) : Out :=
  onGroup s fun g =>
    if g.growAsk.isSome then .next s
    else scalarWait s allCounters Group.quiet fun g =>
      if 32 < g.regs.length / 8 + n.toNat then s.trapScalar g (askFault n.toNat)
      else if (s.firstAsk g.core).isNone ∧ n.toNat ≤ s.freeGranules g.core then .next (s.setGroup ((g.grow n.toNat).touch s).advance)
      else .next ((s.setWithheld g.core (s.withheld g.core)).setGroup { g with growAsk := some (n.toNat, s.fclk) })
def execGrowGrant (core : Nat) (s : State) : Out := .next (s.grantGrow core)

/-- Whether a tile record of the group owns a register at or above a place (12 R250). -/
def Group.tileAbove (g : Group) (p : Nat) : Bool := g.tiles.any fun t => p < g.bound + t.d.toNat + tileSpan t.scaled

/-- SHRINK (12 R247, R250). -/
def execShrink (n : BitVec 6) (s : State) : Out :=
  scalarWait s allCounters Group.quiet fun g =>
    let top := g.regs.length / 8
    if top < n.toNat + g.bound / 8 ∨ g.tileAbove (8 * (top - n.toNat)) then s.trapScalar g (askFault n.toNat)
    else .next ((s.setGroup { g.advance with regs := g.regs.take (8 * (top - n.toNat)) }).freed g.core n.toNat)

/-- SETBND (12 R248, R250): recipes that the boundary cuts are dropped, their EMBER destinations rekindled first, in the order in which the recipes were made
(DESIGN CHOICE, notes/assumptions/65). An LDK then reads as an LD in SETBND's place would (R260), after everything that the scalar stream knows and has written. -/
def execSetbnd (n : BitVec 6) (s : State) : Out :=
  scalarWait s allCounters Group.quiet fun g =>
    let b := 8 * n.toNat
    if g.regs.length / 8 < n.toNat ∨ !g.tiles.isEmpty then s.trapScalar g (askFault n.toNat)
    else
      let cut (r : Recipe) : Bool := b ≤ r.dst.toNat || r.inputs.any fun i => b ≤ i.toNat
      let known := if g.recipes.any cut then s.joinView (s.lanesAgent g) (s.order.hands (s.scalarAgent g)) else s
      match known.rekindleAll g ((g.recipes.filter cut).map fun r => r.dst.toNat) with
      | .error (s', g', f) => s'.trapScalar g' f
      | .ok (s', g') => .next (s'.setGroup { g'.advance with recipes := g'.recipes.filter fun r => !cut r, bound := b })

-- ### The watchdog

/-- A waiting word abandoned (08 R149): its barrier arrival and its GROW request are withdrawn. -/
def Group.abandonWait (g : Group) : Group := { g with bars := 0, growAsk := none }

/-- PROGRESS (22 R426; the count is of whole ticks of the microsecond clock, wherever in a microsecond it began: DESIGN CHOICE, notes/assumptions/8): when the count has reached a PROGTO.INTERVAL that is not 0, outside a handler, a group that is neither waiting for the host nor
asked to stop traps at its next scalar word. -/
def execProgress (slot : Nat) (s : State) : Out :=
  withGroup s slot fun g =>
    if g.progto != 0 && !g.inh && !g.toHost && g.mid.isNone && !s.gangHalted g.gid (gangIdx (s.desc g.gid) g.lw) && g.watch + g.progto.toNat ≤ s.us then
      s.trapAt g.abandonWait false { code := 9, addr := 0 } false
    else s

end Sys2Proof.Machine
end

