-- ==== Sys2Proof/Machine/Pins.lean ====
section
/-!
DEFINITION. Pins and deferred reclaim (13 R296-R302) and the ordered-append unit (13 R294-R295).
-/
namespace Sys2Proof.Machine

/-- Whether any pin of a resident group or of a saved one holds a name (13 R299, R301). -/
def State.pinned (s : State) (name : W64) : Bool :=
  let holds (g : Group) : Bool := g.pins.any (· == name)
  s.groups.any holds || (s.saved ++ s.resuming).any fun r => r.groups.any holds

/-- Entry `i` of a deferred-reclaim list: NAME and STATE (13 R300). -/
def deflName (m : Memory) (defl i : Nat) : Nat := memNat m (defl + 16 * i) 8
def deflState (m : Memory) (defl i : Nat) : Nat := memNat m (defl + 16 * i + 8) 1
def deflEcc (s : State) (defl : Nat) : Option Nat := (List.range 256).find? fun i => errOf s (defl + 16 * i) 16 ≠ 0

/-- The retry of one entry of a list at a drop: WAITING with a name that nothing pins, it becomes FREED, with release at device scope of what the drops knew; an
entry with an ECC error is logged (26 R452 code 7) and matches nothing. -/
def State.retryEntry (name : W64) (v : View) (c : Nat × Ctx) (s : State) (i : Nat) : State :=
  let defl := c.2.defl
  let w := { Writer.unit with scope := scopeDevice, rel := [{ src := unitThread, scope := scopeDevice, view := v }] }
  if errOf s (defl + 16 * i) 16 ≠ 0 then s.log 7 c.1 0 (defl + 16 * i) 0
  else if deflName s.mem defl i = name.toNat ∧ deflState s.mem defl i = 1 ∧ !s.pinned name then s.putBytes w (defl + 16 * i + 8) [2] else s
/-- The retry of a list at a drop. -/
def State.retryList (s : State) (name : W64) (v : View) (c : Nat × Ctx) : State :=
  if c.2.defl = 0 then s else (List.range 256).foldl (State.retryEntry name v c) s

/-- What the drops of a name so far knew (17 R360). -/
def Order.dropView (o : Order) (name : W64) : View := (o.drops.lookup name).getD View.fresh
/-- A name leaves a pin register of a thread that knows `v` (13 R300): it is matched against the WAITING entries of every list. -/
def State.dropName (s : State) (v : View) (name : W64) : State :=
  if name = 0 then s
  else
    let v := (s.order.dropView name).join v
    let s := { s with order := { s.order with drops := assocPut name v s.order.drops } }
    s.svc.ctxs.foldl (fun s c => s.retryList name v c) s
/-- Every pin of a group that leaves. -/
def State.dropNames (s : State) (v : View) (names : List W64) : State := names.foldl (fun s n => s.dropName v n) s

/-- Every write of a group so far has been performed at device scope (13 R297). -/
def State.performed (s : State) (g : Group) : State :=
  { s with order := { s.order with pub := (s.order.pub.withAll (s.lanesAgent g) s.order.stamp).withAll (s.scalarAgent g) s.order.stamp } }
/-- Step 1 of 13 R297, and ILLEGAL inside an ordered task (19 R382). The scalar stream then knows every lane access of the group. -/
def pinWait (s : State) (d : BitVec 8) (f : State → Group → Out) : Out :=
  onGroup s fun g =>
    if s.inTask g then s.trapScalar g illegal
    else if g.scalarStalls d then .next s
    else scalarWait s allCounters Group.accessesDone fun g => let r := s.allAwaited g; f (r.1.performed r.2) r.2

/-- A pin register set to a name. -/
def State.setPin (s : State) (g : Group) (k : BitVec 3) (a : W64) : State :=
  let old := g.pins[k.toNat]'(k.isLt)
  let s' := s.setGroup { g with pins := g.pins.set k.toNat a k.isLt }
  if old ≠ 0 ∧ old ≠ a then s'.dropName (s.groupHands g) old else s'

/-- The accesses that a group issues from now on at device scope come after everything that has been performed there (13 R297, R302). -/
def State.afterPin (s : State) (g : Group) : State :=
  { s with order := { s.order with devs := assocPut (g.gid, s.lg g) s.order.pub s.order.devs } }
/-- PIN (13 R297). -/
def execPin (k : BitVec 3) (a : BitVec 8) (s : State) : Out :=
  pinWait s 0 fun s g => .next ((s.draw.afterPin g).setPin (g.touch s).advance k (g.sreg s.free a))
/-- UNPIN (13 R298). -/
def execUnpin (k : BitVec 3) (s : State) : Out := pinWait s 0 fun s g => .next (s.setPin g.advance k 0)

/-- RECLAIM (13 R299): 0 FREED, an acquire of the drops of the name; 1 DEFERRED; or PINLIST. -/
def execReclaim (d a : BitVec 8) (s : State) : Out :=
  pinWait s d fun s g =>
    let x := g.sreg s.free a
    let answer (s : State) (v : W64) : Out := .next (s.draw.setGroup ((g.writeSreg s.free d v).touch s).advance)
    let defl := (s.gctx g).defl
    if x = 0 then answer s 0
    else if !s.pinned x then answer (s.groupJoin g (s.order.dropView x)) 0
    else if defl = 0 then s.trapScalar g { code := 10, addr := x.toNat }
    else match deflEcc s defl with
      | some i => s.trapScalar g { code := 11, addr := defl + 16 * i }
      | none =>
        if (List.range 256).any fun i => deflName s.mem defl i = x.toNat ∧ deflState s.mem defl i = 1 then answer s 1
        else match (List.range 256).find? fun i => deflState s.mem defl i = 0 with
          | some i => answer (s.putBytes Writer.unit (defl + 16 * i) (leBytes 8 x.toNat ++ [1])) 1
          | none => s.trapScalar g { code := 10, addr := x.toNat }

-- ### Ordered append

/-- Whether a stream is closed by every group of lower LG (13 R294). -/
def Grid.lowerClosed (d : Grid) (lg q : Nat) : Bool := d.closed.countP (fun c => c.1 < lg && c.2.getLsbD q) == lg
/-- A group's closed streams recorded in its grid. -/
def Grid.close (d : Grid) (lg : Nat) (qs : BitVec 16) : Grid := { d with closed := assocSet lg ((d.closed.lookup lg).getD 0 ||| qs) d.closed }

/-- The stream of OAPP and ODECL: bits [35:32]. -/
def streamOf (a : W64) : BitVec 4 := (a >>> 32).setWidth 4

/-- A group closes a stream of its grid: it knows what the lower groups knew, and hands its own on (17 R360). -/
def State.passStream (s : State) (g : Group) (q : Nat) : State :=
  let lower := s.order.appends.filter fun x => x.1.1 == g.gid && x.1.2.1 == q && x.1.2.2 < s.lg g
  let v := lower.foldl (fun (v : View) x => v.join x.2) View.fresh
  let s := s.groupJoin g v
  { s with order := { s.order with appends := assocPut (g.gid, q, s.lg g) (s.groupHands g) s.order.appends } }

/-- OAPP and ODECL (13 R294): ILLEGAL on a closed stream and in a task, which awaits nothing but the scalar stream's own results (06 R125); they wait for the lower
groups, then take n slots or none. -/
def append (s : State) (d : Option (BitVec 8)) (a : BitVec 8) : Out :=
  onGroup s fun g =>
    let x := g.sreg s.free a
    let q := streamOf x
    if g.spend.isSome then .next s
    else if s.inTask g || g.oclosed.getLsbD q.toNat then s.trapScalar g illegal
    else if g.scalarStalls (d.getD 0) then .next s
    else match s.grid? g.gid with
      | none => .next s
      | some gr =>
        if !gr.lowerClosed (s.lg g) q.toNat then .next s
        else
          let base := gr.obase[q.toNat]'(q.isLt)
          let gr' := { gr.close (s.lg g) (BitVec.ofNat 16 (2 ^ q.toNat)) with
                       obase := if d.isSome then gr.obase.set q.toNat (base + (lo32 x).setWidth 48) q.isLt else gr.obase }
          let g' := (g.touch s).advance
          let g' := match d with
            | some d => g'.writeSreg s.free d (base.setWidth 64)
            | none => g'
          .next (((s.passStream g q.toNat).draw.setGrid gr').setGroup { g' with oclosed := g'.oclosed ||| BitVec.ofNat 16 (2 ^ q.toNat) })

def execOapp (d a : BitVec 8) (s : State) : Out := append s (some d) a
def execOdecl (a : BitVec 8) (s : State) : Out := append s none a

/-- A waiting OAPP or ODECL of a slot is granted (13 R294): it acts as the word does once its lower groups have closed the stream; a trap to the host, a STEP or a
request to stop has ended the wait (08 R149). -/
def execOappGrant (slot : Nat) (s : State) : Out :=
  match s.group? slot with
  | none => .next s
  | some g => match s.waitingWord g with
    | some (.oapp d a) => append { s with cur := slot } (some d) a
    | some (.odecl a) => append { s with cur := slot } none a
    | _ => .next s

end Sys2Proof.Machine
end

