-- ==== Sys2Proof/Machine/Fabric.lean ====
section
/-!
DEFINITION. PUT and WCWAIT, and what the Carelle fabric delivers and answers (20 R400-R405).
-/
namespace Sys2Proof.Machine

/-- FLAGS of a window entry: VALID, EXPORT, IMPORT (20 R400). -/
def winFlags (s : State) (c : Ctx) (w : Nat) : Nat := if c.wint = 0 then 0 else memNat s.mem (winEntry c w + 0x13) 1
def winValid (s : State) (c : Ctx) (w : Nat) : Bool := winFlags s c w % 2 == 1
def winExport (s : State) (c : Ctx) (w : Nat) : Bool := winValid s c w && winFlags s c w / 2 % 2 == 1
def winImport (s : State) (c : Ctx) (w : Nat) : Bool := winValid s c w && winFlags s c w / 4 % 2 == 1

/-- WCNT and WERR of a window (20 R401). -/
def Svc.win (v : Svc) (c w : Nat) : WinCnt := (v.wins.find? fun x => x.ctx == c && x.win == w).getD { ctx := c, win := w, wcnt := 0, werr := 0 }
def State.setWin (s : State) (x : WinCnt) : State :=
  { s with svc := { s.svc with wins := x :: s.svc.wins.filter fun y => !(y.ctx == x.ctx && y.win == x.win) } }
def State.countWin (s : State) (c w : Nat) (ok : Bool) : State :=
  let x := s.svc.win c w
  s.setWin (if ok then { x with wcnt := x.wcnt + 1 } else { x with werr := x.werr + 1 })

/-- The fields of a PUT descriptor (20 R402), none where one breaks its limits. -/
structure PutDesc where
  src : Nat
  len : Nat
  win : Nat
  off : Nat
def putDesc (bs : List Byte) : Option PutDesc :=
  let f (o n : Nat) := leNat ((bs.drop o).take n)
  if 2 ^ 57 ≤ f 0 8 || f 8 4 == 0 || 65536 < f 8 4 || f 0xD 3 != 0 || f 0x18 8 != 0 then none
  else some { src := f 0 8, len := f 8 4, win := f 0xC 1, off := f 0x10 8 }

/-- An error in what PUT reads is that of a load without a counter (07 R145, 20 R399): it is kept for the group's EXIT. -/
def Group.putErr (g : Group) (va : Nat) (x : Got) : Group :=
  if x.err = 0 then g else { g with deferred := g.deferred ++ [{ ctr := 15, addr := BitVec.ofNat 64 va, detail := BitVec.ofNat 8 x.err }] }

/-- PUT (20 R403): a release at system scope, the checks in order, fewer than 64 PUTs outstanding, then the source is read. What it has read the scalar stream knows
(17 R355). -/
def execPut (a : BitVec 8) (s : State) : Out :=
  pinWait s 0 fun s g =>
    let ea := (g.sreg s.free a).toNat
    let c := s.gctx g
    let ctx := s.ctxOfGrid g.gid
    let r := s.scalarReader g
    match checkPhys s g needRead 32 ea, readRange s ctx none r 0 ea 32 with
    | .error e, _ => s.trapScalar g { code := e, addr := ea }
    | .ok _, .error f => s.trapScalar g f
    | .ok _, .ok x =>
      let a := s.scalarSaw g x.seen
      match putDesc x.bytes with
      | none => a.1.trapScalar a.2 { code := causeAccess, addr := ea }
      | some d =>
        if !winImport s c d.win then a.1.trapScalar a.2 { code := causeAccess, addr := winEntry c d.win }
        else match readRange s ctx none (a.1.scalarReader a.2) 64 d.src d.len with
        | .error f => a.1.trapScalar a.2 f
        | .ok y =>
          if 64 ≤ g.puts then .next s
          else
            let b := a.1.scalarSaw a.2 y.seen
            let s := b.1
            let g := b.2
            let e := winEntry c d.win
            let r : PutRec := { id := s.nextName, ctx := ctx, win := d.win, slot := g.slot, gid := g.gid, lg := s.lg g,
                                peer := memNat s.mem (e + 0x10) 2, pwin := memNat s.mem (e + 0x12) 1, off := d.off, data := y.bytes, sent := s.us }
            .next (({ s.draw with nextName := s.nextName + 1, svc := { s.svc with puts := s.svc.puts ++ [r] } }).setGroup
              { ((g.putErr ea x).putErr d.src y).advance with puts := g.puts + 1 })

/-- What the fabric delivers through a window, as a thread: a WCWAIT acquires it (17 R367, 20 R404). -/
def windowThread (ctx win : Nat) : Thread := { agent := .window ctx win, lw := 0, lcore := 0 }

/-- WCWAIT (20 R404): an acquire at system scope. -/
def execWcwait (a b : BitVec 8) (s : State) : Out :=
  onGroup s fun g =>
    if s.inTask g then s.trapScalar g illegal
    else scalarWord s 0 fun g =>
      let w := (g.sreg s.free a).toNat % 256
      let n := (g.sreg s.free b).toNat % 2 ^ 48
      let c := s.gctx g
      let x := s.svc.win (s.ctxOfGrid g.gid) w
      if !winValid s c w then s.trapScalar g { code := causeAccess, addr := winEntry c w }
      else if x.wcnt.toNat + x.werr.toNat < n then .next s
      else if x.werr ≠ 0 then (s.setWin { x with werr := 0 }).trapScalar g { code := causeAccess, addr := winEntry c w }
      else
        let o := s.groupObserves g
        .next ((o.1.groupJoin o.2 (s.order.hands (.window (s.ctxOfGrid g.gid) w))).draw.waitDone o.2)

/-- How it writes (20 R403, 17 R367): the bytes in any order, which only the counter of the window shows performed; a thread of another module lies in no scope of this
one. -/
def windowWriter (ctx win : Nat) : Writer := { Writer.unit with th := windowThread ctx win, scope := 0 }
/-- A PUT of another module arrives (20 R403): performed whole and counted, or refused. Bytes for host memory whose link is down are dropped (R399), and then the PUT is
never performed whole and not counted (R401). Without verified firmware nothing is delivered (26 R459). -/
def execPutDelivery (ctx win off : Nat) (data : List Byte) (s : State) : Out :=
  let c := s.svc.ctx ctx
  let base := memNat s.mem (winEntry c win) 8
  let len := memNat s.mem (winEntry c win + 8) 8
  .next (if !s.svc.fwok || !winExport s c win || len < off + data.length then s
    else match s.translateRange ctx needWrite (base + off) data.length with
      | .error _ => s
      | .ok ps =>
        let t := (ps.zip data).foldl (fun s x => s.putBytes (windowWriter ctx win) x.1 [x.2]) s
        if ps.all (linkUp s) then t.countWin ctx win true else t)

/-- A PUT of this module is answered: counted in its import window, no longer outstanding in its group, running or saved. -/
def State.putDone (s : State) (id : Nat) (ok : Bool) : State :=
  match s.svc.puts.find? fun r => r.id == id with
  | none => s
  | some r =>
    let less (g : Group) : Group := if g.gid == r.gid && s.lg g == r.lg then { g with puts := g.puts - 1 } else g
    let lessIn (w : SavedWg) : SavedWg := { w with groups := w.groups.map less }
    { (s.countWin r.ctx r.win ok) with
      svc := { (s.countWin r.ctx r.win ok).svc with puts := s.svc.puts.filter fun x => x.id != id },
      groups := s.groups.map less, saved := s.saved.map lessIn, resuming := s.resuming.map lessIn }
/-- Whether a PUT has had no answer for 1 ms (20 R403). -/
def State.putLate (s : State) (r : PutRec) : Bool := r.sent + 1000 ≤ s.us
/-- PUT_ACK (20 R403): an answer after 1 ms comes too late, and the PUT counts as refused. -/
def execPutAck (id : Nat) (ok : Bool) (s : State) : Out := .next (s.putDone id (ok && !(s.svc.puts.any fun r => r.id == id && s.putLate r)))
/-- PUT_TIMEOUT (20 R403): such a PUT counts as refused. -/
def execPutTimeout (id : Nat) (s : State) : Out := .next (if s.svc.puts.any fun r => r.id == id && s.putLate r then s.putDone id false else s)

end Sys2Proof.Machine
end

