-- ==== Sys2Proof/Machine/CrossLane.lean ====
section
/-!
DEFINITION. Moves, lane numbers and masks (10 R222-R224), votes, shuffles, scans and reductions (11 R230-R234), lane-scalar transfer (R235-R236),
workgroup-shared registers (R237-R240), special functions (R241).
-/
namespace Sys2Proof.Machine

def execVmov (h : LaneCtl) (d a : VReg) (_f : BitVec 4) (s : State) : Out := alu1 s h latB d a id
/-- VMOVI (10 R222). -/
def execVmovi (h : LaneCtl) (d : BitVec 8) (i : W32) (s : State) : Out := laneAlu s h latB { acc := false, k := d } [] fun _ _ => Vector.replicate 32 i
/-- LANEID (10 R222). -/
def execLaneid (h : LaneCtl) (d : VReg) (f : BitVec 4) (s : State) : Out :=
  laneAlu s h latB d [] fun g _ => Vector.ofFn fun l => laneidOp f g.tpart l.val

/-- A mask word (10 R223). -/
def maskWord (s : State) (h : LaneCtl) (lat : Nat) (d : BitVec 3) (f : Group → W32) : Out :=
  laneIssue s h false .inOrder lat [] [] fun _ g on => .done s g [.mask d on (f g)] true
def execMand (h : LaneCtl) (d a b : BitVec 3) (s : State) : Out := maskWord s h latB d fun g => g.mask s.free a &&& g.mask s.free b
def execMor (h : LaneCtl) (d a b : BitVec 3) (s : State) : Out := maskWord s h latB d fun g => g.mask s.free a ||| g.mask s.free b
def execMnot (h : LaneCtl) (d a : BitVec 3) (s : State) : Out := maskWord s h latB d fun g => ~~~(g.mask s.free a)
/-- MGET (10 R224): only a counter makes its scalar visible (07 R131). -/
def execMget (h : LaneCtl) (d : BitVec 8) (a : BitVec 3) (s : State) : Out :=
  laneIssue s h false .inOrder 0 [] [] fun s g on => .done s g [.sreg d ((g.mask s.free a &&& on).setWidth 64)] true
/-- MSET (10 R223). -/
def execMset (h : LaneCtl) (d : BitVec 3) (a : BitVec 8) (s : State) : Out := maskWord s h 0 d fun g => lo32 (g.sreg s.free a)

/-- VOTE (11 R230). -/
def execVote (h : LaneCtl) (d : BitVec 8) (a : VReg) (f : BitVec 4) (s : State) : Out :=
  laneIssue s h false .inOrder 0 [] [regName a] fun s g on =>
    .done s g [.sreg d (aluVote f.toNat (tileOf g.tpart) on (g.readReg s.free (regName a)))] true
/-- SHFL (11 R231). -/
def execShfl (h : LaneCtl) (d a : VReg) (b : BOpnd) (f : BitVec 4) (s : State) : Out :=
  laneAlu s h 0 d (regName a :: opndRegs b) fun g _ =>
    let va := g.readReg s.free (regName a)
    let vb := g.readB s.free .int b
    Vector.ofFn fun l => laneGet va (shflSource f.toNat (tileOf g.tpart) l.val vb[l].toNat)
/-- SCAN (11 R233). -/
def execScan (h : LaneCtl) (d a : VReg) (f : BitVec 4) (ty : BitVec 2) (excl : Bool) (s : State) : Out :=
  laneAlu s h 0 d [regName a] fun g on => aluScan f.toNat ty.toNat excl (tileOf g.tpart) on (g.readReg s.free (regName a))
/-- RED (11 R234). -/
def execRed (h : LaneCtl) (d a : VReg) (f : BitVec 4) (ty : BitVec 2) (s : State) : Out :=
  laneAlu s h 0 d [regName a] fun g on => aluRed f.toNat ty.toNat g.tpart.toNat on (g.readReg s.free (regName a))

/-- VTOS (11 R235). -/
def execVtos (h : LaneCtl) (d : BitVec 8) (a : VReg) (b : BOpnd) (first sx : Bool) (s : State) : Out :=
  laneIssue s h false .inOrder 0 [] [regName a] fun s g on =>
    let j := if first then (lowestLane on).getD 0 else (laneGet (g.readB s.free .int b) 0).toNat % 32
    let x := laneGet (g.readReg s.free (regName a)) j
    .done s g [.sreg d (if sx then x.signExtend 64 else x.setWidth 64)] true
/-- STOV (11 R236). -/
def execStov (h : LaneCtl) (d : VReg) (a : BitVec 8) (hi : Bool) (s : State) : Out :=
  laneAlu s h 0 d [] fun g _ => Vector.replicate 32 (if hi then hi32 (g.sreg s.free a) else lo32 (g.sreg s.free a))

/-- The writes of a workgroup's shared registers that are visible at an FCLK: those issued two FCLK before or earlier (11 R239), in order of
FCLK and then of LG. -/
def wsInsert (x : Nat × Nat × Nat × W32) : List (Nat × Nat × Nat × W32) → List (Nat × Nat × Nat × W32)
  | [] => [x]
  | y :: ys => if x.1 < y.1 ∨ (x.1 = y.1 ∧ x.2.1 < y.2.1) then x :: y :: ys else y :: wsInsert x ys
def Wg.wsAt (w : Wg) (fclk : Nat) (k : BitVec 4) : W32 :=
  (w.wsPend.filter fun x => x.1 + 2 ≤ fclk && x.2.2.1 == k.toNat).foldl (fun _ x => x.2.2.2) (w.ws[k.toNat]'(k.isLt))
/-- The visible writes taken into the registers. -/
def Wg.settleWs (w : Wg) (fclk : Nat) : Wg :=
  let due := w.wsPend.filter fun x => x.1 + 2 ≤ fclk
  { w with ws := due.foldl (fun v x => v.setIfInBounds x.2.2.1 x.2.2.2) w.ws, wsPend := w.wsPend.filter fun x => fclk < x.1 + 2 }

/-- WSR (11 R238, R239). -/
def execWsr (h : LaneCtl) (d : VReg) (k : BitVec 4) (s : State) : Out :=
  laneAlu s h 0 d [] fun g _ => Vector.replicate 32 (((s.wg? g.gid g.lw).map fun w => w.wsAt s.fclk k).getD 0)
/-- WSW (11 R238, R239): the element of the lowest lane of EXM; nothing when EXM is zero, though its counter
completes as late. -/
def execWsw (h : LaneCtl) (k : BitVec 4) (a : VReg) (s : State) : Out :=
  laneIssue s h true .inOrder 0 [] [regName a] fun s g on =>
    match lowestLane on with
    | none => .done s g [.ws s.fclk] true
    | some j =>
      let x := laneGet (g.readReg s.free (regName a)) j
      .done (s.modWg g.gid g.lw fun w =>
        let w := w.settleWs s.fclk
        { w with wsPend := wsInsert (s.fclk, s.lg g, k.toNat, x) w.wsPend }) g [.ws s.fclk] true

def execFrcp (h : LaneCtl) (d a : VReg) (s : State) : Out := alu1 s h 0 d a sfuRcp
def execFrsq (h : LaneCtl) (d a : VReg) (s : State) : Out := alu1 s h 0 d a sfuRsq
def execFsqrt (h : LaneCtl) (d a : VReg) (s : State) : Out := alu1 s h 0 d a sfuSqrt
def execFexp2 (h : LaneCtl) (d a : VReg) (s : State) : Out := alu1 s h 0 d a sfuExp2
def execFlog2 (h : LaneCtl) (d a : VReg) (s : State) : Out := alu1 s h 0 d a sfuLog2
def execFsin (h : LaneCtl) (d a : VReg) (s : State) : Out := alu1 s h 0 d a sfuSin
def execFcos (h : LaneCtl) (d a : VReg) (s : State) : Out := alu1 s h 0 d a sfuCos
def execFtanh (h : LaneCtl) (d a : VReg) (s : State) : Out := alu1 s h 0 d a sfuTanh

end Sys2Proof.Machine
end

