-- ==== Sys2Proof/Machine/Engines.lean ====
section
/-!
DEFINITION. Copy, gather/scatter and collective engines (14): job cards, FORK, RVZ and WPWAIT, edges between jobs, granules, faults, suspension.
-/
namespace Sys2Proof.Machine

/-- A card from its 64 bytes (14 R303). -/
def cardOf (bs : List Byte) : Card :=
  let f (o n : Nat) := leNat ((bs.drop o).take n)
  { kind := f 0 1, flags := f 1 1, chan := f 2 1, opx := f 3 1, state := f 4 1, ra := f 8 8, ralen := f 0x10 4, rblen := f 0x14 4,
    rb := f 0x18 8, w := f 0x20 8, wlen := f 0x28 4, done := f 0x2C 4 }
def cardReserved (bs : List Byte) : Bool := leNat ((bs.drop 6).take 2) != 0 || leNat ((bs.drop 0x38).take 8) != 0

/-- Element size of GATHER and SCATTER, the stream that DONE counts, the granule (14 R304). -/
def Card.es (c : Card) : Nat := 2 ^ c.opx
def Card.stream (c : Card) : Nat := if c.kind = 2 then c.ralen else c.wlen
def Card.granule (c : Card) : Nat := if c.kind = 1 ∨ c.kind = 2 then max 256 c.es else 256

/-- A card whose fields break R303 or R304, or whose STATE or DONE FORK refuses (14 R305). -/
def Card.bad (c : Card) (reserved : Bool) : Bool :=
  3 < c.kind || 8 ≤ c.flags || reserved || (if c.kind = 0 then 7 < c.chan else c.chan != 0)
    || (match c.kind with
      | 0 => c.opx != 0 || c.rblen != 0 || c.ralen != c.wlen
      | 1 => 8 < c.opx || c.rblen == 0 || c.rblen % 4 != 0 || c.wlen != c.rblen / 4 * c.es
      | 2 => 8 < c.opx || c.rblen == 0 || c.rblen % 4 != 0 || c.ralen != c.rblen / 4 * c.es
      | _ => 3 < c.opx || c.ralen != c.wlen || c.rblen != c.wlen || c.wlen % 4 != 0)
    || c.ralen == 0 || c.wlen == 0 || (c.rblen == 0 && c.rb != 0)
    || !([0, 2, 4].contains c.state) || c.done % c.granule != 0 || (c.state == 0 && c.done != 0) || c.stream ≤ c.done

/-- A region: the workgroup whose scratchpad it lies in, or none for global; its base there, its length, its address as the card has it. -/
structure Region where
  spad : Option Nat
  base : Nat
  len  : Nat
  addr : Nat
deriving DecidableEq, Repr

/-- A region resolved, none where its base or end is out of bounds (14 R305). -/
def regionOf (d : Desc) (lw : Nat) (isSpad : Bool) (addr len : Nat) : Option Region :=
  if isSpad then
    let gb := bits addr 23 23
    let m := bits addr 22 21
    let off := bits addr 20 0
    if 2 ^ 24 ≤ addr || (gb == 0 && m != 0) || (gb == 1 && d.gang ≤ m) || d.spwg * 4096 < off + len then none
    else some { spad := some (if gb = 1 then gangIdx d lw * d.gang + m else lw), base := off, len := len, addr := addr }
  else if 2 ^ 57 < addr + len then none
  else some { spad := none, base := addr, len := len, addr := addr }

def Region.overlaps (x y : Region) : Bool := x.spad == y.spad && Machine.overlaps x.base x.len y.base y.len

/-- The regions of a card: RA, RB when it has one, W. -/
def cardRegion (d : Desc) (lw : Nat) (c : Card) (i : Nat) : Option Region :=
  match i with
  | 0 => regionOf d lw (c.flags % 2 == 1) c.ra c.ralen
  | 1 => regionOf d lw (c.flags / 2 % 2 == 1) c.rb c.rblen
  | _ => regionOf d lw (c.flags / 4 % 2 == 1) c.w c.wlen
def cardReads (d : Desc) (lw : Nat) (c : Card) : List Region :=
  (cardRegion d lw c 0).toList ++ if c.rblen = 0 then [] else (cardRegion d lw c 1).toList
def cardWrites (d : Desc) (lw : Nat) (c : Card) : List Region := (cardRegion d lw c 2).toList

/-- The checks of FORK in their order (14 R305); of several regions that fail one row RA counts first, then RB, then W (DESIGN CHOICE, notes/assumptions/65). -/
def forkCheck (s : State) (g : Group) (a : Nat) : Except Flt (Nat × Card) :=
  let d := s.desc g.gid
  let off := bits a 20 0
  if 2 ^ 24 ≤ a ∨ bits a 23 21 ≠ 0 ∨ d.spwg * 4096 < off + 64 then .error { code := causeAccess, addr := a }
  else if a % 64 ≠ 0 then .error { code := causeAlign, addr := a }
  else
    let bs := memRead (s.spadOf g.gid g.lw) off 64
    let c := cardOf bs
    if c.bad (cardReserved bs) then .error { code := causeAccess, addr := a }
    else
      let bases := [(0, c.ra)] ++ (if c.rblen = 0 then [] else [(1, c.rb)]) ++ [(2, c.w)]
      match bases.find? fun b => (cardRegion d g.lw c b.1).isNone with
      | some b => .error { code := causeAccess, addr := b.2 }
      | none =>
        let unit (i : Nat) : Nat := match c.kind with
          | 0 => 1
          | 3 => 4
          | _ => if i = 1 then 4 else c.es
        match bases.find? fun b => b.2 % unit b.1 != 0 with
        | some b => .error { code := causeAlign, addr := b.2 }
        | none =>
          let clash := (cardWrites d g.lw c).any fun w => (cardReads d g.lw c).any fun r =>
            r.overlaps w && !(c.kind == 3 && r.base == w.base && r.len == w.len)
          if clash then .error { code := causeAccess, addr := a } else .ok (off, c)

def Job.mine (g : Group) (j : Job) : Bool := j.gid == g.gid && j.lw == g.lw && j.k == g.k
/-- Outstanding (14 R307): not DONE, and not FAULTED with its fault reported. -/
def Job.outstanding (j : Job) : Bool := j.st != .done && !(j.st == .faulted && j.reported)
/-- Neither DONE nor FAULTED (14 R308). -/
def Job.live (j : Job) : Bool := j.st != .done && j.st != .faulted

/-- The thread of a job (17 R351), with its poster's workgroup and LCORE. -/
def State.jobThread (s : State) (j : Job) : Thread := { agent := .job j.id, lw := j.lw, lcore := ((s.wg? j.gid j.lw).map Wg.lcore).getD 0 }
/-- A job reads and writes at device scope (17 R365). -/
def State.jobReader (s : State) (j : Job) : Reader :=
  { th := s.jobThread j, scope := scopeDevice, view := s.order.view (.job j.id), holes := [], own := false, newest := false }
def State.jobWriter (s : State) (j : Job) : Writer := { bell := 0xFFFF, th := s.jobThread j, scope := scopeDevice, rel := [], rmw := false }
/-- Bytes of a card that the engine writes. -/
def State.writeCard (s : State) (j : Job) (o : Nat) (bs : List Byte) : State := s.putSpad (s.jobWriter j) j.gid j.lw (j.at_ + o) bs

/-- The edges of 14 R311 between two jobs: a byte shared that both do not only read. -/
def jobEdge (s : State) (x y : Job) : Bool :=
  let dx := s.desc x.gid
  let dy := s.desc y.gid
  let same (r q : Region) : Bool := r.overlaps q && (r.spad.isNone || x.gid == y.gid)
  let hit (rs qs : List Region) : Bool := rs.any fun r => qs.any fun q => same r q
  let rx := cardReads dx x.lw x.card
  let wx := cardWrites dx x.lw x.card
  let ry := cardReads dy y.lw y.card
  let wy := cardWrites dy y.lw y.card
  hit wx ry || hit rx wy || hit wx wy
/-- The outstanding jobs of a core that give a new job an edge. -/
def State.edgesOf (s : State) (j : Job) : List Nat :=
  (s.jobs.filter fun x => x.core == j.core && x.outstanding && jobEdge s x j).map Job.id

/-- A job joins the job set of its core (14 R307, R311): a FAULTED card posted again takes its job's place and keeps its edges. The job knows what the group
knew (17 R360). -/
def State.post (s : State) (g : Group) (off : Nat) (c : Card) (t : BitVec 48) : State :=
  let j : Job := { id := s.nextName, core := g.core, gid := g.gid, lw := g.lw, k := g.k, lg := s.lg g, edges := [], ticket := t, at_ := off, card := c,
                   st := .posted, done := c.done, fcause := 0, fadr := 0, reported := false }
  let again := if c.state = 4 then (s.jobs.filter fun x => x.mine g && x.core == g.core && x.at_ == off && x.st == .faulted).getLast? else none
  let j := match again with
    | some x => { j with id := x.id, edges := x.edges }
    | none => { j with edges := s.edgesOf j }
  let o := (s.order.joinView (.job j.id) (s.groupHands g))
  { s with jobs := if again.isSome then s.jobs.map fun (x : Job) => if x.id == j.id then j else x else s.jobs ++ [j],
           order := { o with posts := o.posts ++ [(s.scalarAgent g, t, j.id)] }, nextName := s.nextName + 1 }.writeCard j 4 [1]

/-- FORK (14 R306-R307). -/
def execFork (d a : BitVec 8) (s : State) : Out :=
  pinWait s d fun s g =>
    match forkCheck s g (g.sreg s.free a).toNat with
    | .error f => s.trapScalar g f
    | .ok (off, c) =>
      if 16 ≤ (s.jobs.countP fun j => j.mine g && j.outstanding) ∨ 64 ≤ (s.jobs.countP fun j => j.core == g.core && j.outstanding) then .next s
      else
        let t := g.tseq + 1
        let g' := ({ g with tseq := t }.writeSreg s.free d (t.setWidth 64)).touch s
        .next ((s.post g off c t).draw.setGroup g'.advance)

/-- The fault of a job as a trap of the waiting word (14 R308). -/
def Job.flt (j : Job) : Flt := { code := j.fcause, addr := j.fadr }
def State.report (s : State) (j : Job) : State := { s with jobs := s.jobs.map fun x => if x.id == j.id then { x with reported := true } else x }
def lowestTicket (js : List Job) : Option Job := js.find? fun j => js.all fun x => j.ticket ≤ x.ticket

/-- The words of a task that raise ILLEGAL, and waiting words that reach no lane word. -/
def taskIllegal (s : State) (f : Group → Out) : Out := onGroup s fun g => if s.inTask g then s.trapScalar g illegal else scalarWord s 0 f

/-- What the jobs of a group up to a ticket have written becomes known to it (14 R308, 17 R360). -/
def State.joinJobs (s : State) (g : Group) (t : BitVec 48) : State :=
  ((s.order.posts.filter fun x => x.1 == s.scalarAgent g && x.2.1 ≤ t).map fun x => x.2.2).foldl (fun s id => s.groupJoin g (s.order.hands (.job id))) s
/-- RVZ (14 R308). -/
def execRvz (a : BitVec 8) (s : State) : Out :=
  taskIllegal s fun g =>
    let t : BitVec 48 := (g.sreg s.free a).setWidth 48
    let js := s.jobs.filter fun j => j.mine g && j.ticket ≤ t
    if js.any Job.live then .next s
    else match lowestTicket (js.filter fun j => j.st == .faulted && !j.reported) with
      | some j => (s.report j).trapScalar g j.flt
      | none => .next ((s.joinJobs g t).draw.waitDone g)

/-- The job that a channel of a core runs or ran last (14 R309, R310). -/
def State.channelId (s : State) (core chan : Nat) : Option Nat := (s.units.chans.find? fun x => x.1 == core && x.2.1 == chan).map fun x => x.2.2
/-- The same while it is in the job set. -/
def State.channelJob (s : State) (core chan : Nat) : Option Job := (s.channelId core chan).bind fun id => s.jobs.find? fun j => j.id == id

/-- WPWAIT (14 R310). -/
def execWpwait (n : BitVec 3) (a : BitVec 8) (s : State) : Out :=
  taskIllegal s fun g =>
    let x : BitVec 57 := (g.sreg s.free a).setWidth 57
    if x ≤ s.wp g.core n.toNat then
      .next ((match s.channelId g.core n.toNat with
        | some id => s.groupJoin g (s.order.hands (.job id))
        | none => s).draw.waitDone g)
    else match s.channelJob g.core n.toNat with
      | some j => if j.st = .faulted ∧ j.mine g ∧ !j.reported then (s.report j).trapScalar g j.flt else .next s
      | none => .next s

-- ### The engines

def State.job? (s : State) (id : Nat) : Option Job := s.jobs.find? fun j => j.id == id
def State.setJob (s : State) (j : Job) : State := { s with jobs := s.jobs.map fun x => if x.id == j.id then j else x }
def State.setWp (s : State) (core k : Nat) (p : BitVec 57) : State :=
  { s with units := { s.units with wp := (core, k, p) :: s.units.wp.filter fun w => !(w.1 == core && w.2.1 == k) } }

/-- The jobs that a saved workgroup keeps. -/
def State.savedJobs (s : State) : List Job := (s.saved ++ s.resuming).flatMap SavedWg.jobs
/-- Whether a posted job may start (14 R311, R314): no job of its edges is left in a set or, FAULTED, with its saved workgroup; its channel runs nothing and has no
earlier job to run. -/
def State.jobCanStart (s : State) (j : Job) : Bool :=
  let onChan (x : Job) : Bool := j.card.kind == 0 && x.card.kind == 0 && x.core == j.core && x.card.chan == j.card.chan && x.id != j.id
  (j.edges.all fun e => (s.jobs ++ s.savedJobs).all fun x => x.id != e) && (s.jobs.all fun x => !(onChan x && x.st == .running))
    && (s.jobs.takeWhile fun x => x.id != j.id).all fun x => !(onChan x && x.live)

/-- A job starts: it knows what the jobs of its edges have written (17 R360); PTR of its channel becomes W + DONE (14 R309). -/
def execJobStart (job : Nat) (s : State) : Out :=
  .next (match s.job? job with
    | some j =>
      if j.st = .posted ∧ s.jobCanStart j then
        let s := j.edges.foldl (fun s e => s.joinView (.job j.id) (s.order.hands (.job e))) (s.setJob { j with st := .running })
        if j.card.kind = 0 then
          let s := s.setWp j.core j.card.chan (BitVec.ofNat 57 (j.card.w + j.done))
          { s with units := { s.units with chans := (j.core, j.card.chan, j.id) :: s.units.chans.filter fun x => !(x.1 == j.core && x.2.1 == j.card.chan) } }
        else s
      else s
    | none => s)

/-- Bytes of a region: where each lies, or the failing address with its cause (14 R315, 13 R275); a write to host memory whose link is down is an ECC
fault (20 R399). -/
def regionBytes (s : State) (j : Job) (need : Nat) (r : Region) (o n : Nat) : Except Flt (List Place) :=
  match r.spad with
  | some lw => .ok ((List.range n).map fun i => .spad lw (r.base + o + i))
  | none =>
    match s.translateRange (s.ctxOfGrid j.gid) need (r.base + o) n with
    | .error (c, a) => .error { code := c, addr := a }
    | .ok ps =>
      match (ps.zip (List.range n)).find? fun x => (need == needRead && errOf s x.1 1 != 0) || errOf s x.1 1 == 2 with
      | some x => .error (eccFlt (r.base + o + x.2) (errOf s x.1 1))
      | none => .ok (ps.map .glob)
def Place.loc (gid : Nat) : Place → Loc
  | .glob p => { spad := none, at_ := p }
  | .spad lw o => { spad := some (gid, lw), at_ := o }
/-- The job as a reader that has met some writes in the granule at hand: it returns nothing older (17 R355). -/
def State.jobReads (s : State) (j : Job) (x : Seen) : Reader := let r := s.jobReader j; { r with view := r.view.withBytes x.stamps }
/-- Bytes of a region as the job reads them, byte by byte: what is not ordered with it may be old or new (14 R313, 17 R365). `x` is what the granule has met before;
the last part is what it has met by then. -/
def readRegion (s : State) (j : Job) (x : Seen) (r : Region) (o n : Nat) : Except Flt (List Byte × Seen) :=
  (regionBytes s j needRead r o n).map fun ps =>
    let got := ps.zipIdx.map fun p => s.readLocs none (s.jobReads j x) (16 * o + p.2) [Place.loc j.gid p.1]
    (got.flatMap Prod.fst, got.foldl (fun (a : Seen) y => a.append y.2) x)
/-- What a job has met becomes known to it (17 R355). -/
def State.jobSaw (s : State) (j : Job) (x : Seen) : State := { s with order := s.order.learn (.job j.id) (View.fresh.withBytes x.stamps) }
def writePlaces (s : State) (w : Writer) (gid : Nat) (ps : List (Place × Byte)) : State :=
  ps.foldl (fun s x => match x.1 with
    | .glob p => s.putBytes w p [x.2]
    | .spad lw o => s.putSpad w gid lw o [x.2]) s

/-- Element `i` of a list of bytes as a 32-bit word. -/
def wordAt (bs : List Byte) (i : Nat) : W32 := BitVec.ofNat 32 (leNat ((bs.drop (4 * i)).take 4))
/-- Combine of REDUCE (14 R304). -/
def reduceOp (opx : Nat) (p q : W32) : W32 :=
  match opx with
  | 0 => combine 0 2 p q
  | 1 => combine 0 0 p q
  | 2 => combine 2 2 p q
  | _ => combine 1 2 p q

/-- What a granule writes, and what it has met. -/
abbrev Granule := List (Place × Byte) × Seen

/-- The elements of a GATHER or SCATTER granule (14 R304): element by element, the bytes to write, or the fault. -/
def moveElems (s : State) (j : Job) (gather : Bool) (table stream idx : Region) : Seen → List Nat → Except Flt Granule
  | x, [] => .ok ([], x)
  | x, e :: es =>
    let sz := j.card.es
    match readRegion s j x idx (4 * e) 4 with
    | .error f => .error f
    | .ok (ib, x) =>
      let i := leNat ib
      if table.len < i * sz + sz then .error { code := causeAccess, addr := table.addr + i * sz }
      else
        let src := if gather then readRegion s j x table (i * sz) sz else readRegion s j x stream (e * sz) sz
        let dst := if gather then regionBytes s j needWrite stream (e * sz) sz else regionBytes s j needWrite table (i * sz) sz
        match src, dst with
        | .error f, _ => .error f
        | _, .error f => .error f
        | .ok (bs, x), .ok ps =>
          match moveElems s j gather table stream idx x es with
          | .error f => .error f
          | .ok rest => .ok (ps.zip bs ++ rest.1, rest.2)

/-- What the next granule of a job writes (14 R304), or its fault. -/
def granuleWrites (s : State) (j : Job) (n : Nat) : Except Flt Granule :=
  let d := s.desc j.gid
  match cardRegion d j.lw j.card 0, cardRegion d j.lw j.card 2 with
  | some ra, some w =>
    match j.card.kind with
    | 0 =>
      match readRegion s j Seen.none ra j.done n, regionBytes s j needWrite w j.done n with
      | .error f, _ => .error f
      | _, .error f => .error f
      | .ok (bs, x), .ok ps => .ok (ps.zip bs, x)
    | 3 =>
      match cardRegion d j.lw j.card 1 with
      | none => .error { code := causeAccess, addr := j.card.rb }
      | some rb =>
        match readRegion s j Seen.none ra j.done n with
        | .error f => .error f
        | .ok (xs, x) => match readRegion s j x rb j.done n, regionBytes s j needWrite w j.done n with
          | .error f, _ => .error f
          | _, .error f => .error f
          | .ok (ys, x), .ok ps =>
            .ok (ps.zip ((List.range (n / 4)).flatMap fun i => leBytes 4 (reduceOp j.card.opx (wordAt xs i) (wordAt ys i)).toNat), x)
    | _ =>
      match cardRegion d j.lw j.card 1 with
      | none => .error { code := causeAccess, addr := j.card.rb }
      | some idx =>
        let es := (List.range (n / j.card.es)).map (j.done / j.card.es + ·)
        if j.card.kind = 1 then moveElems s j true ra w idx Seen.none es else moveElems s j false w ra idx Seen.none es
  | _, _ => .error { code := causeAccess, addr := j.card.w }

/-- The next granule of a running job (14 R314-R315): performed whole, or the job faults and the card says where. -/
def execJobGranule (job : Nat) (s : State) : Out :=
  .next (match s.job? job with
    | none => s
    | some j =>
      if j.st ≠ .running then s
      else
        let n := min j.card.granule (j.card.stream - j.done)
        match granuleWrites s j n with
        | .error f =>
          let s := s.setJob { j with st := .faulted, fcause := f.code, fadr := f.addr }
          (((s.writeCard j 4 [4, BitVec.ofNat 8 f.code]).writeCard j 0x30 (leBytes 8 f.addr))).writeCard j 0x2C (leBytes 4 j.done)
        | .ok (ws, x) =>
          let s := (writePlaces (s.jobSaw j x) (s.jobWriter j) j.gid ws).draw
          let done := j.done + n
          let s := if j.card.kind = 0 then s.setWp j.core j.card.chan (BitVec.ofNat 57 (j.card.w + done)) else s
          if done = j.card.stream then
            (({ s with jobs := s.jobs.filter fun x => x.id != j.id }.writeCard j 4 [3])).writeCard j 0x2C (leBytes 4 done)
          else s.setJob { j with done := done })

/-- The suspension of a job between granules (14 R316): the card says how far it went. -/
def State.suspendJob (s : State) (j : Job) : State :=
  if j.st = .posted ∨ j.st = .running then
    ((s.setJob { j with st := .suspended }).writeCard j 4 [2]).writeCard j 0x2C (leBytes 4 j.done)
  else s
/-- JOB_SUSPEND: when the owning workgroup is to be saved (14 R316). -/
def execJobSuspend (job : Nat) (s : State) : Out :=
  .next (match s.job? job with
    | some j => if (s.gangStop j.gid (gangIdx (s.desc j.gid) j.lw)).isSome then s.suspendJob j else s
    | none => s)

end Sys2Proof.Machine
end

