-- ==== Sys2Proof/Machine/Exit.lean ====
section
/-!
DEFINITION. EXIT (08 R174) and the end of a workgroup and a gang (02 R28, 04 R72); ordered tasks: TSPAWN, TDONE and commits (19 R379-R388).
-/
namespace Sys2Proof.Machine

/-- The members of a gang that are resident, those whose groups have exited among them (02 R28, 13 R272). -/
def State.gangMembers (s : State) (gid gang : Nat) : List Wg := s.wgs.filter fun w => w.gid == gid && gangIdx (s.desc gid) w.lw == gang
/-- A gang whose members have no group left gives up its workgroups and counts as exited (02 R28), in this FCLK (03 R58); a cut waits for it no longer
(22 R435). -/
def State.gangDone (s : State) (gid gang : Nat) : State :=
  if (s.gangGroups gid gang).isEmpty then
    let ws := s.gangMembers gid gang
    { s with wgs := s.wgs.filter fun w => !(w.gid == gid && gangIdx (s.desc gid) w.lw == gang), exits := s.exits ++ [(gid, gang, ws.map Wg.core)],
             order := ws.foldl (fun (o : Order) (w : Wg) => o.dropSpad gid w.lw) s.order }.modGrid gid fun d => { d with exited := d.exited ++ [gang] }
  else if s.cutting gid || s.gangMigrates gid gang then s.stopAtStep gid gang
  else s

/-- What a group hands on when it ends (17 R360): what it knows and has written, and what its jobs have written. -/
def State.exitHands (s : State) (g : Group) : View :=
  (s.order.posts.filter fun x => x.1 == s.scalarAgent g).foldl (fun (v : View) x => v.join (s.order.hands (.job x.2.2))) (s.groupHands g)
/-- It hands that on with the streams that it closes (13 R295), to the end of its grid's packet (03 R55), and within a task to the commit (19 R386). -/
def State.leaveHands (s : State) (g : Group) : State :=
  let v := s.exitHands g
  let open_ := (List.range 16).filter fun q => !g.oclosed.getLsbD q
  let o := open_.foldl (fun (o : Order) q => { o with appends := assocPut (g.gid, q, s.lg g) v o.appends }) s.order
  let o := { o with grids := assocPut g.gid (((o.grids.lookup g.gid).getD View.fresh).join v) o.grids }
  { s with order := if s.inTask g then o.joinView (.scalar g.gid (g.lw * (s.desc g.gid).wgsize)) v else o }
/-- A group ends (08 R174): its streams close (13 R295), its jobs leave the job set (14 R311), its registers return, its pins are dropped, the
watchdogs of its workgroup start anew (22 R426). -/
def State.exitGroup (s : State) (g : Group) : State :=
  let v := s.groupHands g
  let s := ((s.leaveHands g).removeGroup g.slot).modGrid g.gid fun d => d.close (s.lg g) 0xFFFF
  let s := { s with jobs := s.jobs.filter fun j => !j.mine g,
                    groups := s.groups.map fun (x : Group) => if x.gid == g.gid && x.lw == g.lw then x.touch s else x }
  let s := (s.dropNames v g.pins.toList).freed g.core (g.regs.length / 8)
  s.gangDone g.gid (gangIdx (s.desc g.gid) g.lw)

/-- What EXIT and TDONE wait for and take first (08 R174, 07 R145, 14 R315, 15 R346): the quiet point, the matrix queue, the jobs, deferred faults. -/
def exitWait (s : State) (f : Group → Out) : Out :=
  scalarWord s 0 fun g =>
    if !g.quiet || !g.mq.isEmpty then .next s
    else match g.deferred with
      | d :: ds => s.trapScalar { g with deferred := ds } d.flt
      | [] =>
        if s.jobs.any fun j => j.mine g && j.live then .next s
        else match lowestTicket (s.jobs.filter fun j => j.mine g && j.st == .faulted && !j.reported) with
          | some j => (s.report j).trapScalar g j.flt
          | none => f g

/-- EXIT (08 R174); ILLEGAL in group 0 of a task (19 R382). -/
def execExit (s : State) : Out :=
  onGroup s fun g => if s.inTask g && g.k == 0 then s.trapScalar g illegal else exitWait s fun g => .next (s.exitGroup g)

-- ### Ordered tasks

/-- TSPAWN and TDONE are words of group 0 of a task (19 R382). -/
def taskWord (s : State) (f : Group → Task → Out) : Out :=
  onGroup s fun g => match s.taskOf g with
    | some t => if g.k = 0 then f g t else s.trapScalar g illegal
    | none => s.trapScalar g illegal

/-- TSPAWN (19 R383). -/
def execTspawn (a b : BitVec 8) (s : State) : Out :=
  taskWord s fun _ t => scalarWord s 0 fun g =>
    let ts : BitVec 48 := (g.sreg s.free a).setWidth 48
    if ts < t.ts ∨ 16 ≤ t.spawns.length then s.trapScalar g { code := causeAccess, addr := ts.toNat }
    else .next ((s.draw.setGroup g.advance).modTask g fun t => { t with spawns := t.spawns ++ [(ts, g.sreg s.free b)] })

/-- The spawns of a committed task as tasks of the set, numbered on (19 R380). -/
def Grid.addSpawns (d : Grid) (sp : List (BitVec 48 × W64)) : Grid :=
  { d with tasks := d.tasks ++ sp.zipIdx.map (fun x => { ts := x.1.1, seq := d.nextSeq + x.2, arg := x.1.2 }), nextSeq := d.nextSeq + sp.length }

/-- The commit of a task (19 R386): its lines are performed, readers of them aborted, its spawns join the set, group 0 exits. -/
def State.commit (s : State) (g : Group) (t : Task) : State :=
  let s := (s.performTask g t).modGrid g.gid fun d => d.addSpawns t.spawns
  s.exitGroup g

/-- A task's end (19 R384): the last group of the head commits. -/
def taskEnd (s : State) : Out :=
  taskWord s fun _ t => exitWait s fun g =>
    if (s.wgGroups g.gid g.lw).length = 1 ∧ s.isHead g.gid t then .next (s.commit g t) else .next s

/-- TDONE (19 R384). -/
def execTdone (s : State) : Out := taskEnd s

/-- The slalom unit commits the head of a set when it waits at TDONE (19 R384, R386); a trap to the host or a request to stop has ended that wait (08 R149). -/
def execTaskCommit (gid : Nat) (s : State) : Out :=
  match s.groups.find? fun g => g.gid == gid && g.k == 0 && ((s.taskOf g).map (s.isHead gid)).getD false with
  | none => .next s
  | some g => if s.waitingWord g = some .tdone then taskEnd { s with cur := g.slot } else .next s

end Sys2Proof.Machine
end

