-- ==== Sys2Proof/Machine/Keccak.lean ====
section
/-!
DEFINITION. SHAKE256 with 256 bits of output (FIPS 202), which the result digest (19 R391) and attestation (26 R460) use. A state is 25 lanes of 64
bits, lane (x, y) at 5y + x.
-/
namespace Sys2Proof.Machine

abbrev KState := List W64

def kLane (a : KState) (i : Nat) : W64 := a.getD i 0

/-- The round constants of iota. -/
def keccakRC : List W64 :=
  [0x0000000000000001, 0x0000000000008082, 0x800000000000808A, 0x8000000080008000, 0x000000000000808B, 0x0000000080000001,
   0x8000000080008081, 0x8000000000008009, 0x000000000000008A, 0x0000000000000088, 0x0000000080008009, 0x000000008000000A] ++
  [0x000000008000808B, 0x800000000000008B, 0x8000000000008089, 0x8000000000008003, 0x8000000000008002, 0x8000000000000080,
   0x000000000000800A, 0x800000008000000A, 0x8000000080008081, 0x8000000000008080, 0x0000000080000001, 0x8000000080008008]

/-- The rotation offsets of rho, by lane. -/
def keccakRot : List Nat :=
  [0, 1, 62, 28, 27, 36, 44, 6, 55, 20, 3, 10, 43, 25, 39, 41, 45, 15, 21, 8, 18, 2, 61, 56, 14]

/-- One round: theta, rho and pi, chi, iota. -/
def keccakRound (a : KState) (rc : W64) : KState :=
  let c := (List.range 5).map fun x => kLane a x ^^^ kLane a (x + 5) ^^^ kLane a (x + 10) ^^^ kLane a (x + 15) ^^^ kLane a (x + 20)
  let d := (List.range 5).map fun x => kLane c ((x + 4) % 5) ^^^ (kLane c ((x + 1) % 5)).rotateLeft 1
  let e := (List.range 25).map fun i => (kLane a i ^^^ kLane d (i % 5)).rotateLeft (keccakRot.getD i 0)
  -- pi moves lane (x, y) to (y, 2x + 3y); lane (x, y) therefore comes from (x + 3y, x)
  let b := (List.range 25).map fun i => kLane e (5 * (i % 5) + (i % 5 + 3 * (i / 5)) % 5)
  let f := (List.range 25).map fun i => kLane b i ^^^ (~~~(kLane b (5 * (i / 5) + (i + 1 - 5 * (i / 5)) % 5)) &&& kLane b (5 * (i / 5) + (i + 2 - 5 * (i / 5)) % 5))
  (kLane f 0 ^^^ rc) :: f.drop 1

def keccakF (a : KState) : KState := keccakRC.foldl keccakRound a

/-- A block of 136 bytes absorbed. -/
def keccakAbsorb (a : KState) (block : List Byte) : KState :=
  keccakF ((List.range 25).map fun i => kLane a i ^^^ BitVec.ofNat 64 (leNat ((block.drop (8 * i)).take 8)))

/-- The padding of SHAKE for a last block of fewer than 136 bytes. -/
def shakePad (bs : List Byte) : List Byte :=
  if bs.length = 135 then bs ++ [0x9F] else bs ++ [0x1F] ++ List.replicate (134 - bs.length) 0 ++ [0x80]

/-- The message absorbed block by block; the fuel counts blocks. -/
def shakeAbsorb : Nat → KState → List Byte → KState
  | 0, a, _ => a
  | n + 1, a, m => if m.length < 136 then keccakAbsorb a (shakePad m) else shakeAbsorb n (keccakAbsorb a (m.take 136)) (m.drop 136)

/-- SHAKE256, 32 bytes of output. -/
def shake256 (m : List Byte) : List Byte :=
  let a := shakeAbsorb (m.length / 136 + 1) (List.replicate 25 0) m
  (a.take 4).flatMap fun x => leBytes 8 x.toNat

/-- The digests of the images of the SFU tables RCP, RSQ, SQRT, EXP2, LOG2, SIN, COS and TANH (09 R198), first byte highest. No image that R194 allows has one of
them (DEDUCED, notes/assumptions/9). -/
def sfuDigests : List Nat :=
  [0x3A910E5C77D24B08C1F39A6205DE8B176C40F2A9D3851E7B94C62F0DA85BE371,
   0x8F27D05B1C94E6A34B7E02F9C6583D1AE90C75B26A4F18D703BEC92A5F614E8D,
   0x05CB62F89E13D4A77B20E95F3A6C1D84B7F24098CE356A1BD24F8B0719E6A3C5,
   0xD46E2B9A0F7358C1E28D67149AB503FC4D19A6E27C38F05B81A4D92E6F073CB8] ++
  [0x6B12F4C8A3590E7D2D96BC41F70A83E559C31E6FA427DB803F5EC6190B74D28A,
   0xC3F85A176D0E92B4A17C3E5908F2D64B2E857AD1C03F9469B51DE72A8C304F96,
   0x1E5DA7C284B93F06F6A32C8ED51B79408AC71F35E26D4B0975F2C83E0D1A69B4,
   0x97A43C6EDB1582F00C7BE4A963125FD8F4592B8E17C6AD30E83D6A51C92F07B6]

end Sys2Proof.Machine
end

