-- ==== Sys2Proof/Machine/Queues.lean ====
section
/-!
DEFINITION. Software queues (03 R43-R66): the queue table and headers, doorbells, hardware slots and the pending list, queue errors, the completion of
packets. Every address but those of the queue table goes through the queue's context (R44).
-/
namespace Sys2Proof.Machine

/-- The errors of 03 R56. -/
abbrev errDescfault : Nat := 1
abbrev errKobjbad : Nat := 2
abbrev errDescbad : Nat := 3
abbrev errPktbad : Nat := 4
abbrev errPktfault : Nat := 5
abbrev errWaitto : Nat := 6
abbrev errQover : Nat := 7
abbrev errQfault : Nat := 8
abbrev errEnded : Nat := 9

-- ### Memory in a context

/-- A read of a virtual range of a context, none for a fault. R33 and R52 name PAGE and ACCESS faults; an uncorrectable error counts like them (DESIGN CHOICE,
notes/assumptions/59). -/
def State.ctxRead (s : State) (c va n : Nat) : Option (List Byte) :=
  match readVirt s c none (Reader.latest unitThread) 0 va n with
  | .ok x => some x.bytes
  | .error _ => none
def State.ctxNat (s : State) (c va n : Nat) : Option Nat := (s.ctxRead c va n).map leNat

/-- Bytes written at translated addresses: one write where they lie together, else byte by byte. -/
def State.putPlaces (s : State) (w : Writer) (ps : List Nat) (bs : List Byte) : State :=
  match ps with
  | [] => s
  | p :: _ => if ps == (List.range bs.length).map (p + ·) then s.putBytes w p bs else (ps.zip bs).foldl (fun s x => s.putBytes w x.1 [x.2]) s

/-- A write of a virtual range of a context, none for a fault; then no byte is written. -/
def State.ctxWrite (s : State) (w : Writer) (c va : Nat) (bs : List Byte) : Option State :=
  match s.translateRange c needWrite va bs.length with
  | .ok ps => some (s.putPlaces w ps bs)
  | .error _ => none

/-- What the stoker and the signal unit write: with the release of everything that they know (17 R360), or plainly. -/
def State.unitRelease (s : State) : Writer :=
  { Writer.unit with rel := [{ src := unitThread, scope := scopeSystem, view := s.order.hands .unit }] }
/-- What the stoker and the signal unit meet in a range: the newest writes. -/
def State.unitMeets (s : State) (c va n : Nat) : Seen :=
  match s.translateRange c needRead va n with
  | .error _ => Seen.none
  | .ok ps =>
    let ls := ps.map fun p => ({ spad := none, at_ := p } : Loc)
    (Reader.latest unitThread).seen true (ls.map fun l => (l, (s.order.versions l).head?))
/-- What they read at system scope becomes known to them (17 R360: the publication of a packet). -/
def State.unitSees (s : State) (c va n : Nat) : State :=
  let x := s.unitMeets c va n
  s.joinView .unit (gained unitThread scopeSystem x.msgs (View.fresh.withBytes x.stamps))
/-- A relaxed read of theirs: a later FENCE packet may take its messages (17 R359). -/
def State.unitHears (s : State) (c va n : Nat) : State :=
  let x := s.unitMeets c va n
  let s := s.joinView .unit (View.fresh.withBytes x.stamps)
  { s with order := { s.order with heard := s.order.heard ++ x.msgs.filter fun m => !s.order.heard.contains m } }
/-- A FENCE packet of a queue (03 R53): an acquire of what the stoker's reads have met, and a release that goes with the queue's later SIGNAL writes. -/
def State.unitFence (s : State) (q scope : Nat) : State :=
  let s := s.joinView .unit (gained unitThread scope s.order.heard View.fresh)
  let m : Msg := { src := unitThread, scope := scope, view := s.order.hands .unit }
  { s with order := { s.order with fences := (q, m) :: s.order.fences.filter fun x => !(x.1 == q && x.2.scope == scope) } }
/-- The writer of a SIGNAL packet (03 R53): relaxed, with what earlier FENCE packets of its queue hand on (17 R358). -/
def State.signalWriter (s : State) (q : Nat) : Writer := { Writer.unit with rel := (s.order.fences.filter fun x => x.1 == q).map Prod.snd }

/-- The error-log entry of an uncorrectable error that no group hears of (26 R452 code 10): the die that holds the address, or 0xFFFF for what lies behind an I/O
die. -/
def State.logEcc (s : State) (p : Nat) : State := s.log 10 (if isHost p then 0xFFFF else p / 2 ^ 36) 0 (p % Config.hostBase) 0
/-- The stoker, the signal unit or the copy engine has met an uncorrectable error in a range, if there is one. -/
def State.eccSeen (s : State) (c need va n : Nat) : State :=
  match s.translateRange c need va n with
  | .error _ => s
  | .ok ps => match ps.find? fun p => errOf s p 1 != 0 with
    | some p => s.logEcc p
    | none => s

/-- A 64-bit word read, modified and written as an atomic. -/
def State.ctxModify (s : State) (w : Writer) (c va : Nat) (f : W64 → W64) : Option State :=
  match s.ctxNat c va 8 with
  | some x => s.ctxWrite { w with rmw := true } c va (leBytes 8 (f (BitVec.ofNat 64 x)).toNat)
  | none => none

-- ### The queue table and the header

/-- The module serves queues (26 R458, 21 R407): verified firmware, both bases set, every sensor sampled. -/
def State.serves (s : State) : Bool :=
  s.svc.fwok && s.svc.qtbase != 0 && s.svc.dbbase != 0 && s.units.coreSens.all Sensor.seen && s.units.vaultSens.all Sensor.seen

/-- Entry q of the queue table (03 R43). -/
def qEntry (s : State) (q : Nat) : Nat := s.svc.qtbase + 16 * q
def qHdrWord (s : State) (q : Nat) : Nat := memNat s.mem (qEntry s q) 8
def qCtxWord (s : State) (q : Nat) : Nat := memNat s.mem (qEntry s q + 8) 8
def qValid (s : State) (q : Nat) : Bool := qHdrWord s q % 2 == 1
def qCtx (s : State) (q : Nat) : Nat := qCtxWord s q % 4096
/-- The virtual address of the header. -/
def qHdr (s : State) (q : Nat) : Nat := bits (qHdrWord s q) 63 6 * 64
def qEntryBad (s : State) (q : Nat) : Bool :=
  errOf s (qEntry s q) 16 != 0 || bits (qHdrWord s q) 63 57 != 0 || bits (qHdrWord s q) 5 1 != 0 || qCtxWord s q / 4096 != 0

/-- A queue header (03 R45). -/
structure QHdr where
  base : Nat
  ridx : Nat
  widx : Nat
  errsig : Nat
  slog : Nat
  prio : Nat
  spare : Nat
def qHdrOf (bs : List Byte) : QHdr :=
  let f (o n : Nat) := leNat ((bs.drop o).take n)
  { base := f 0 8, ridx := f 8 8, widx := f 0x10 8, errsig := f 0x18 8, slog := f 0x20 1, prio := f 0x21 1, spare := f 0x28 24 }
def QHdr.bad (h : QHdr) : Bool :=
  h.base % 4096 != 0 || 2 ^ 57 ≤ h.base || h.errsig % 8 != 0 || !(4 ≤ h.slog && h.slog ≤ 20) || 3 < h.prio || h.spare != 0
def State.qHeader (s : State) (q : Nat) : Option QHdr := (s.ctxRead (qCtx s q) (qHdr s q) 64).map qHdrOf
/-- A field of the header that the stoker writes. -/
def State.qWrite (s : State) (q off n x : Nat) : Option State := s.ctxWrite Writer.unit (qCtx s q) (qHdr s q + off) (leBytes n x)

def Stoker.mapped (k : Stoker) (q : Nat) : Bool := k.slots.any fun x => x.2 == q
def Stoker.parked (k : Stoker) (q : Nat) : Bool := k.watches.any fun w => w.q == q
def Stoker.waiting (k : Stoker) (q : Nat) : Bool := k.pending.any fun x => x.1 == q

/-- A slot is served by a stoker core that holds its block and has not halted (03 R59, R64). -/
def Stoker.served (k : Stoker) (slot : Nat) : Bool := k.cores.any fun c => !c.halted && c.block == some (slot / 32)
/-- The lowest-numbered free slot. -/
def Stoker.freeSlot (k : Stoker) : Option Nat :=
  (List.range 128).find? fun i => k.served i && !(k.slots.any fun x => x.1 == i)

-- ### Errors that the queue raises

/-- An uncorrectable error in the entry of a queue or its header, which no group hears of (26 R452 code 10). -/
def State.queueEcc (s : State) (q : Nat) : State :=
  if errOf s (qEntry s q) 16 = 1 then s.logEcc (qEntry s q) else if qCtxWord s q < 4096 then s.eccSeen (qCtx s q) needRead (qHdr s q) 64 else s
/-- QOVER and QFAULT (03 R56, R66): the queue is FAULTED and leaves its slot; STATE and ERR are written while the header can be read and written, then ERRSIG
where its own value meets its limit; what cannot be written the error log says (26 R452 code 1). A readable ERRSIG of 0 asks for no signal, and the log then has no
entry of code 1 either (DESIGN CHOICE, notes/assumptions/59). -/
def State.faultQueue (s : State) (q code : Nat) : State :=
  let s := s.queueEcc q
  let k := s.stoker
  let s := { s with stoker := { k with slots := k.slots.filter (fun x => x.2 != q), pending := k.pending.filter (fun x => x.1 != q),
                                       kept := k.kept.filter (fun x => x.1 != q), faulted := if k.faulted.contains q then k.faulted else k.faulted ++ [q] } }
  let hdr := if errOf s (qEntry s q) 16 = 0 ∧ qCtxWord s q < 4096 then s.qHeader q else none
  match hdr with
  | none => s.log 1 q code (qHdr s q) 0
  | some h =>
    match s.qWrite q 0x22 2 (3 + 256 * code) with
    | none => s.log 1 q code (qHdr s q) h.ridx
    | some s =>
      if h.errsig = 0 then s
      else match if h.errsig % 8 = 0 then s.ctxWrite s.unitRelease (qCtx s q) h.errsig (leBytes 8 (code * 2 ^ 48 + h.ridx % 2 ^ 48)) else none with
        | some s => s
        | none => s.log 1 q code (qHdr s q) h.ridx

-- ### Slots

/-- A packet of the queue whose WAIT has ended and is not complete yet. -/
def Stoker.hasWoken (k : Stoker) (q : Nat) : Bool := k.pkts.any fun p => p.q == q && p.work == .woken

/-- A queue mapped (03 R59, R66): its entry and header are checked, then it takes the lowest free slot or joins the pending list, where it counts with the PRIO that its
header has then (DESIGN CHOICE, notes/assumptions/59). -/
def State.mapQueue (s : State) (q : Nat) : State :=
  if qEntryBad s q then s.faultQueue q errQfault
  else match s.qHeader q with
    | none => s.faultQueue q errQfault
    | some h =>
      if h.bad then s.faultQueue q errQfault
      else match s.stoker.freeSlot with
        | none => if s.stoker.waiting q then s else { s with stoker := { s.stoker with pending := s.stoker.pending ++ [(q, h.prio)] } }
        | some i =>
          match s.qWrite q 0x22 1 1 with
          | none => s.faultQueue q errQfault
          | some s =>
            { s with stoker := { s.stoker with slots := s.stoker.slots ++ [(i, q)], pending := s.stoker.pending.filter fun x => x.1 != q } }

/-- The pending queue that takes a freed slot: the highest PRIO, then the first doorbell (03 R59). -/
def Stoker.nextPending (k : Stoker) : Option Nat :=
  (k.pending.find? fun x => k.pending.all fun y => y.2 ≤ x.2).map Prod.fst
/-- Free slots given to pending queues while queues are served (26 R458); the fuel counts queues. -/
def State.fillSlots (s : State) : Nat → State
  | 0 => s
  | n + 1 => match s.stoker.freeSlot, s.stoker.nextPending with
    | some _, some q => (s.mapQueue q).fillSlots n
    | _, _ => s
def State.fill (s : State) : State := if s.serves then s.fillSlots s.stoker.pending.length else s

/-- A queue error, and the slot it frees. -/
def State.queueError (s : State) (q code : Nat) : State := (s.faultQueue q code).fill

/-- A queue leaves its slot with a STATE (03 R59, R60). A fault of the write of STATE, as of RIDX or WIDX, is QFAULT (DESIGN CHOICE, notes/assumptions/59). -/
def State.leaveSlot (s : State) (q st : Nat) : State :=
  match s.qWrite q 0x22 1 st with
  | none => s.queueError q errQfault
  | some s => { s with stoker := { s.stoker with slots := s.stoker.slots.filter fun x => x.2 != q } }.fill
/-- A MAPPED queue frees its slot when RIDX = WIDX. -/
def State.settleQueue (s : State) (q : Nat) : State :=
  if s.stoker.mapped q && !s.stoker.hasWoken q then
    match s.qHeader q with
    | none => s.queueError q errQfault
    | some h => if h.widx ≤ h.ridx then s.leaveSlot q 0 else s
  else s

/-- A doorbell of queue q with a value, from a port or (0xFFFF) a device program (03 R44, R48, R59, R66; 26 R458). A doorbell of a FAULTED queue is dropped and
its WIDX stays (DESIGN CHOICE, notes/assumptions/59). -/
def State.ringBell (s : State) (q : Nat) (v : W64) (src : Nat) : State :=
  if !s.serves then s
  else if errOf s (qEntry s q) 16 ≠ 0 then s.queueError q errQfault
  else if !qValid s q then s.log 11 src 0 (s.svc.dbbase + 8 * q) v.toNat
  else if s.stoker.faulted.contains q then s
  else if 4096 ≤ qCtxWord s q ∨ (s.svc.ctx (qCtx s q)).troot = 0 then s.queueError q errQfault
  else match s.qHeader q with
    | none => s.queueError q errQfault
    | some h =>
      if v.toNat ≤ h.widx then s
      else
        let idle := !s.stoker.mapped q && !s.stoker.parked q && !s.stoker.waiting q && !s.stoker.hasWoken q
        if idle && (qEntryBad s q || h.bad) then s.queueError q errQfault
        else if h.ridx + 2 ^ h.slog < v.toNat then s.queueError q errQover
        else match s.qWrite q 0x10 8 v.toNat with
          | none => s.queueError q errQfault
          | some s => if idle then s.mapQueue q else s

/-- DOORBELL (03 R48): the doorbell write of this queue and value that waits is taken; a doorbell that has not been written changes nothing. -/
def execDoorbell (q : Nat) (v : W64) (src : Nat) (s : State) : Host.Outcome State Fault Refusal :=
  .next (if s.stoker.bells.contains (q, v, src) then
    { s with stoker := { s.stoker with bells := s.stoker.bells.erase (q, v, src) } }.ringBell q v src else s)

/-- QFAULT (03 R66): an uncorrectable error in the queue's entry or header is found. -/
def execQfault (q : Nat) (s : State) : Host.Outcome State Fault Refusal :=
  .next (if s.serves && !s.stoker.faulted.contains q && (errOf s (qEntry s q) 16 != 0 || (qValid s q && (s.qHeader q).isNone)) then
    s.queueError q errQfault else s)

-- ### Completion

def State.pkt? (s : State) (q i : Nat) : Option Pkt := s.stoker.pkts.find? fun p => p.q == q && p.i == i
def State.setPkt (s : State) (p : Pkt) : State :=
  { s with stoker := { s.stoker with pkts := s.stoker.pkts.map fun x => if x.q == p.q && x.i == p.i then p else x } }
def State.incomp (s : State) (q : Nat) : Nat := s.stoker.pkts.countP fun p => p.q == q
/-- INCOMP written (03 R54); a fault of that write, as of ERR, is ignored (DESIGN CHOICE, notes/assumptions/59). -/
def State.writeIncomp (s : State) (q : Nat) : State := (s.qWrite q 0x24 4 (s.incomp q)).getD s

/-- What a packet's work has written becomes known to the stoker (17 R360). -/
def State.packetWork (s : State) (p : Pkt) : State := s.joinView .unit (s.order.hands (.copy p.q p.i))

/-- A packet completes (03 R52, R55, R56): CSIG falls by one; an error goes to ERRSIG and ERR, and is PKTFAULT where ERRSIG cannot be written; INCOMP falls. A header
that cannot be read makes the queue FAULTED (R66); the packet's own code then reaches neither ERRSIG nor the error log (DESIGN CHOICE, notes/assumptions/59). -/
def State.completePkt (s : State) (p : Pkt) : State :=
  let c := qCtx s p.q
  let s := s.packetWork p
  let r : State × Nat := match p.csig with
    | none => (s, p.err)
    | some a => match s.ctxModify s.unitRelease c a (· - 1) with
      | some s' => (s', p.err)
      | none => (s.eccSeen c needRead a 8, if p.err = 0 then errPktfault else p.err)
  let s := r.1
  let s := if r.2 = 0 then s else
    let sig : State × Nat := match s.qHeader p.q with
      | some h => if h.errsig = 0 then (s, r.2) else match s.ctxWrite s.unitRelease c h.errsig (leBytes 8 (r.2 * 2 ^ 48 + p.i % 2 ^ 48)) with
        | some s' => (s', r.2)
        | none => (s, errPktfault)
      | none => (s, r.2)
    (sig.1.qWrite p.q 0x23 1 sig.2).getD sig.1
  let s := { s with stoker := { s.stoker with pkts := s.stoker.pkts.filter fun x => !(x.q == p.q && x.i == p.i) } }.writeIncomp p.q
  if (s.qHeader p.q).isNone && !s.stoker.faulted.contains p.q then s.queueError p.q errQfault else s

/-- A packet whose work has ended, with the error that stands. -/
def State.pktDone (s : State) (q i err : Nat) : State :=
  match s.pkt? q i with
  | some p => s.setPkt { p with work := .ready, err := if p.err = 0 then err else p.err }
  | none => s

/-- PACKET_COMPLETE (03 R55): a packet whose work has ended; a WAIT that the signal unit has ended completes once its queue is mapped (R60). -/
def execPacketComplete (q i : Nat) (s : State) : Host.Outcome State Fault Refusal :=
  .next (match if s.serves then s.pkt? q i else none with
    | some p =>
      if p.work == .ready || (p.work == .woken && (s.stoker.mapped q || s.stoker.faulted.contains q)) then (s.completePkt p).settleQueue q else s
    | none => s)

-- ### The signal unit

/-- The conditions of a WAIT (03 R51). -/
def waitHolds (cond : Nat) (x v : W64) : Bool :=
  match cond with
  | 0 => x == v
  | 1 => x != v
  | 2 => x.toInt < v.toInt
  | 3 => v.toInt ≤ x.toInt
  | 4 => x < v
  | _ => v ≤ x

/-- A watch ends (03 R60): the stoker is asked to map the queue again, and the WAIT completes with a code. -/
def State.wake (s : State) (q err : Nat) : State :=
  match s.stoker.watches.find? fun w => w.q == q with
  | none => s
  | some w =>
    let s := { s with stoker := { s.stoker with watches := s.stoker.watches.filter (fun x => x.q != q),
                                                pkts := s.stoker.pkts.map fun p => if p.q == q && p.i == w.i then { p with work := .woken, err := err } else p } }
    if s.stoker.faulted.contains q then s else s.mapQueue q

/-- The watch of a queue, while queues are served (26 R458). -/
def State.watch? (s : State) (q : Nat) : Option Watch := if s.serves then s.stoker.watches.find? fun w => w.q == q else none
/-- SIGNAL_WATCH_READ (03 R60, R61): a relaxed read, as WAIT's own (17 R366). -/
def execSignalWatchRead (q : Nat) (s : State) : Host.Outcome State Fault Refusal :=
  .next (match s.watch? q with
    | none => s
    | some w => match s.ctxNat (qCtx s q) w.sig 8 with
      | none => (s.eccSeen (qCtx s q) needRead w.sig 8).wake q errPktfault
      | some x => if waitHolds w.cond (BitVec.ofNat 64 x) w.value then (s.unitHears (qCtx s q) w.sig 8).wake q 0 else s)
/-- WAITTO (03 R60): the time-out of a parked WAIT has passed. -/
def execWaitTo (q : Nat) (s : State) : Host.Outcome State Fault Refusal :=
  .next (match s.watch? q with
    | some w => if w.deadline.any (· ≤ s.us) then s.wake q errWaitto else s
    | none => s)

-- ### The I/O die copy engine

/-- A COPY packet as a thread (17 R351): it writes at system scope. -/
def copyThread (q i : Nat) : Thread := { agent := .copy q i, lw := 0, lcore := 0 }
def copyWriter (q i : Nat) : Writer := { Writer.unit with th := copyThread q i }
/-- A granule of a COPY moved, none where its source or its destination has a PAGE or ACCESS fault or an uncorrectable error (03 R52). -/
def State.copyGranule (s : State) (q i src dst n : Nat) : Option State :=
  match s.ctxRead (qCtx s q) src n, s.translateRange (qCtx s q) needWrite dst n with
  | some bs, .ok ps => if ps.any fun p => errOf s p 1 != 0 then none else some (s.putPlaces (copyWriter q i) ps bs)
  | _, _ => none

/-- IO_COPY_GRANULE (03 R52, R53; 14 R314): the next 256 bytes of a COPY, or its end with PKTFAULT and no byte of the granule written. -/
def execIoCopyGranule (q i : Nat) (s : State) : Host.Outcome State Fault Refusal :=
  .next (match if s.serves then s.pkt? q i else none with
    | some p => match p.work with
      | .copy src dst len done =>
        let n := min 256 (len - done)
        match s.copyGranule q i (src + done) (dst + done) n with
        | none => ((s.eccSeen (qCtx s q) needRead (src + done) n).eccSeen (qCtx s q) needWrite (dst + done) n).pktDone q i errPktfault
        | some s => if done + n = len then s.pktDone q i 0 else s.setPkt { p with work := .copy src dst len (done + n) }
      | _ => s
    | none => s)

end Sys2Proof.Machine
end

