-- ==== Sys2Proof/Machine/Launch.lean ====
section
/-!
DEFINITION. Launching (03 R49-R54, R62-R65): checks of packets, descriptors, kernel objects and footprint lists (02 R29-R33, R39; 19 R379), rounds of
the stoker cores, digests (19 R391-R393), retirement (03 R57), the halt and takeover of stoker cores.
-/
namespace Sys2Proof.Machine

-- ### Kernel objects, descriptors, footprints

/-- A kernel object header (02 R29), and whether it breaks the limits there. -/
def kobjOf (addr : Nat) (bs : List Byte) : KObj :=
  let f (o n : Nat) := leNat ((bs.drop o).take n)
  { addr := addr, soff := f 8 4, slen := f 0xC 4, loff := f 0x10 4, llen := f 0x14 4, entry := f 0x18 4, livoff := f 0x1C 4, livlen := f 0x20 4,
    doff := f 0x24 4, dlen := f 0x28 4, regmin := f 0x2C 1, spmin := f 0x2E 2 }
def kobjBad (bs : List Byte) : Bool :=
  let f (o n : Nat) := leNat ((bs.drop o).take n)
  let k := kobjOf 0 bs
  f 0 4 != 0x09604B4F || f 4 2 != 1 || f 6 2 != 0 || f 0x2D 1 != 0 || f 0x30 16 != 0
    || k.soff % 4 != 0 || k.slen % 4 != 0 || k.slen < 4 || 2 ^ 22 < k.slen || k.loff % 16 != 0 || k.llen % 12 != 0 || 2 ^ 19 * 12 < k.llen
    || k.slen / 4 ≤ k.entry || k.regmin < 1 || 32 < k.regmin || 512 < k.spmin

/-- A launch descriptor (02 R31). -/
def descOf (bs : List Byte) : Desc :=
  let f (o n : Nat) := leNat ((bs.drop o).take n)
  { kobj := f 0 8, args := BitVec.ofNat 64 (f 8 8), gridx := f 0x10 4, gridy := f 0x14 2, gridz := f 0x16 2, wgsize := f 0x18 1, gang := f 0x19 1,
    mode := f 0x1A 1, nbar := f 0x1B 1, rgran := f 0x1C 1, vbnd0 := f 0x1D 1, part := f 0x1E 2, spwg := f 0x20 2, vdem := f 0x22 2,
    progto := BitVec.ofNat 32 (f 0x24 4), equota := f 0x28 8, ofoot := f 0x30 8 }
/-- The rows DESCBAD of 02 R33 but for the footprint list; `res` is the reserved field. -/
def Desc.bad (d : Desc) (k : KObj) (res : Nat) : Bool :=
  let rpg := d.part / 2 ^ 8
  let spg := d.part % 2 ^ 8
  2 ^ 57 ≤ d.kobj || d.kobj % 256 != 0 || 2 ^ 57 ≤ d.args.toNat || d.gridx < 1 || 2 ^ 31 < d.gridx || d.gridy < 1 || d.gridz < 1
    || d.wgsize < 1 || 48 < d.wgsize || d.gang < 1 || 4 < d.gang || d.mode % 4 == 3 || 8 ≤ d.mode || 4 < d.nbar
    || d.rgran < k.regmin || 32 < d.rgran || d.rgran < d.vbnd0 || rpg < 8 || 48 < rpg || 32 < spg || 48 < spg + rpg
    || d.spwg < k.spmin || spg * 16 < d.spwg || 192 < d.vdem || d.ofoot % 8 != 0 || 2 ^ 57 ≤ d.ofoot || res != 0
    || rpg * 64 < d.wgsize * d.rgran || (d.nbar == 0 && 1 < d.wgsize) || (4 ≤ d.mode && d.mode % 4 == 0)
/-- The descriptor of a TASKROOT (19 R379). -/
def Desc.taskBad (d : Desc) : Bool := !(d.gridx == 1 && d.gridy == 1 && d.gridz == 1 && d.gang == 1 && d.mode == 5)

def insertRange (r : Nat × Nat) : List (Nat × Nat) → List (Nat × Nat)
  | [] => [r]
  | x :: xs => if r.1 < x.1 then r :: x :: xs else x :: insertRange r xs
def rangesApart : List (Nat × Nat) → Bool
  | x :: y :: rs => x.1 + x.2 ≤ y.1 && rangesApart (y :: rs)
  | _ => true

/-- A footprint list (02 R39): a fault, a list that breaks R39, or its ranges in ascending base order. Of a list whose count breaks R39 no entry is read (DESIGN CHOICE,
notes/assumptions/70). -/
inductive Foot where
  | fault
  | bad
  | ok (ranges : List (Nat × Nat))
def readFoot (s : State) (c a : Nat) : Foot :=
  match s.ctxNat c a 8 with
  | none => .fault
  | some n =>
    if n < 1 ∨ 8 < n then .bad
    else match s.ctxRead c (a + 8) (16 * n) with
      | none => .fault
      | some bs =>
        let rs := (List.range n).map fun i => (leNat ((bs.drop (16 * i)).take 8), leNat ((bs.drop (16 * i + 8)).take 8))
        let sorted := rs.foldl (fun acc r => insertRange r acc) []
        if rs.all (fun r => 1 ≤ r.2 && r.2 ≤ 2 ^ 40 && r.1 + r.2 ≤ 2 ^ 57) && rangesApart sorted then .ok sorted else .bad

/-- The bytes of a footprint list that are read: the count, and the entries where there are as many. -/
def footSize (s : State) (c a : Nat) : Nat := let n := (s.ctxNat c a 8).getD 0; if n ≤ 8 then 8 + 16 * n else 8
/-- LIVE of a context (26 R451): its live grids and task sets, and its saved workgroups. -/
def State.ctxLive (s : State) (c : Nat) : Nat :=
  (s.grids.countP fun d => d.ctx == c && d.st == .live) + (s.saved ++ s.resuming).countP fun r => s.ctxOfGrid r.wg.gid == c

/-- The launch checks in the order of 02 R33: an error, or what they find. An HOBJ that is not 256-byte-aligned is KOBJBAD (DESIGN CHOICE, notes/assumptions/70). -/
def checkLaunch (s : State) (c a : Nat) (task : Bool) : Except Nat Launch :=
  match s.ctxRead c a 64 with
  | none => .error errDescfault
  | some db =>
    let d := descOf db
    let hobj := (s.svc.ctx c).hobj
    let readH := hobj != 0 && s.ctxLive c == 0
    match s.ctxRead c d.kobj 64, (if readH then s.ctxRead c hobj 64 else some []), (if d.ofoot = 0 then Foot.ok [] else readFoot s c d.ofoot) with
    | none, _, _ | _, none, _ | _, _, .fault => .error errDescfault
    | some kb, some hb, foot =>
      if kobjBad kb || (readH && (hobj % 256 != 0 || kobjBad hb)) then .error errKobjbad
      else
        let k := kobjOf d.kobj kb
        let rs : Option (List (Nat × Nat)) := match foot with
          | .ok rs => some rs
          | _ => none
        match rs with
        | none => .error errDescbad
        | some rs =>
          if d.bad k (leNat ((db.drop 0x38).take 8)) || (task && d.taskBad) then .error errDescbad
          else .ok { desc := d, ko := k, hk := if readH then some (kobjOf hobj hb) else none, foot := if d.ofoot = 0 then none else some (d.ofoot, rs) }

/-- The uncorrectable errors that those checks have met (26 R452). -/
def descEcc (s : State) (c a : Nat) : State :=
  let t := s.eccSeen c needRead a 64
  match s.ctxRead c a 64 with
  | none => t
  | some db =>
    let d := descOf db
    let hobj := (s.svc.ctx c).hobj
    let t := t.eccSeen c needRead d.kobj 64
    let t := if hobj = 0 ∨ s.ctxLive c ≠ 0 then t else t.eccSeen c needRead hobj 64
    if d.ofoot = 0 then t else t.eccSeen c needRead d.ofoot (footSize s c d.ofoot)

-- ### The grid directory

/-- The entry that a launch takes (26 R453): the lowest FREE one, else the one that retired earliest. -/
def State.freeEntry (s : State) : Option (Nat × Option Nat) :=
  let used := s.grids.filter fun d => d.st != .reused
  match (List.range 256).find? fun e => !(used.any fun d => d.entry == e) with
  | some e => some (e, none)
  | none =>
    let ret := used.filter fun d => d.st == .retired
    (ret.find? fun d => ret.all fun x => d.retiredAt ≤ x.retiredAt).map fun d => (d.entry, some d.gid)

/-- A grid or task set that reaches the dispatcher (03 R53, 04 R79, 19 R380). -/
def State.addGrid (s : State) (e : Nat × Option Nat) (q i c name : Nat) (l : Launch) (task : Option (BitVec 48 × W64)) : State :=
  let s := match e.2 with
    | some old => s.modGrid old fun d => { d with st := .reused }
    | none => s
  let g : Grid :=
    { gid := s.nextName, entry := e.1, name := name, q := q, pi := i, ctx := c, isTask := task.isSome, st := .live, desc := l.desc, ko := l.ko, foot := l.foot,
      walk := 0, aside := [], exited := [], obase := Vector.replicate 16 0, closed := [], left := l.desc.equota, unl := l.desc.equota == 0,
      energy := 0, overrun := 0, quotaHeld := false, quantum := none, waits := [], born := s.order.stamp, start := s.order.hands .unit, cut := [], cutMax := 0,
      tasks := task.toList.map fun t => { ts := t.1, seq := 0, arg := t.2 }, nextSeq := 1, retiredAt := 0 }
  let s := match l.hk with
    | some k => s.setCtx c { s.svc.ctx c with hk := some k }
    | none => s
  { s with grids := s.grids ++ [g], nextName := s.nextName + 1 }

-- ### Digests

/-- The message of a digest (19 R391), none for a fault. -/
def digestMessage (s : State) (c : Nat) : List (Nat × Nat) → Option (List Byte)
  | [] => some []
  | (b, n) :: rs =>
    match s.ctxRead c b n, digestMessage s c rs with
    | some bs, some m => some (leBytes 8 b ++ leBytes 8 n ++ bs ++ m)
    | _, _ => none
/-- A digest location after a failure (19 R393): each byte is its old one, or one of a list. -/
def State.brokenDigest (s : State) (ps : List Nat) (bs : Nat → Byte) : State :=
  (ps.zipIdx.filter fun x => Config.race s.free x.2).foldl (fun u x => u.putBytes Writer.unit x.1 [bs x.2]) s.draw
/-- The digest of a footprint written at an address, with the packet's error (19 R391, R393). -/
def State.digest (s : State) (c : Nat) (rs : List (Nat × Nat)) (out : Nat) : State × Nat :=
  match s.translateRange c needWrite out 32 with
  | .error _ => (s, errPktfault)
  | .ok ps => match digestMessage s c rs with
    | some m =>
      let d := shake256 m
      if ps.any fun p => errOf s p 1 != 0 then ((s.eccSeen c needWrite out 32).brokenDigest ps fun i => d.getD i 0, errPktfault) else (s.putPlaces Writer.unit ps d, 0)
    | none => ((rs.foldl (fun (u : State) r => u.eccSeen c needRead r.1 r.2) s).brokenDigest ps fun i => Config.freeByte (s.free * 2 ^ 16 + i), errPktfault)
/-- Where the digest of a DISPATCH or TASKROOT goes (19 R392). -/
def digestAt (a count : Nat) : Nat := (a + 8 + 16 * count + 31) / 32 * 32

-- ### Packets

/-- The limits of 03 R50 and R51, reserved bytes included. -/
def packetBad (bs : List Byte) : Bool :=
  let f (o n : Nat) := leNat ((bs.drop o).take n)
  let type := f 0 1
  let a := f 8 8
  let b := f 0x10 8
  let c := f 0x18 8
  let rest (o : Nat) : Bool := ((bs.drop o).take (0x38 - o)).any (· != 0)
  4 ≤ f 1 1 || f 2 6 != 0 || (2 ≤ f 1 1 && (f 0x38 8 % 8 != 0 || 2 ^ 57 ≤ f 0x38 8))
    || (match type with
      | 1 => rest 8
      | 2 => a % 64 != 0 || 2 ^ 57 ≤ a || rest 0x10
      | 3 => a % 8 != 0 || 5 < f 0x18 1 || f 0x19 3 != 0 || rest 0x20
      | 4 => a % 8 != 0 || 4 < f 0x18 1 || rest 0x19
      | 5 => 2 ^ 57 ≤ a || 2 ^ 57 ≤ b || c < 1 || 2 ^ 40 < c || overlaps a c b c || rest 0x20
      | 6 => !(f 8 1 == 7 || f 8 1 == 8) || rest 9
      | 7 => a == 0 || a % 8 != 0 || 2 ^ 57 ≤ a || b % 32 != 0 || rest 0x18
      | 8 => a % 64 != 0 || 2 ^ 57 ≤ a || 2 ^ 48 ≤ b || rest 0x20
      | _ => true)

/-- A packet's completion signal, none when CSIGV is 0 or CSIG breaks its limits (03 R55). -/
def packetCsig (bs : List Byte) : Option Nat :=
  let a := leNat ((bs.drop 0x38).take 8)
  if leNat ((bs.drop 1).take 1) / 2 % 2 = 1 ∧ a % 8 = 0 ∧ a < 2 ^ 57 then some a else none

/-- The operations of a SIGNAL packet (03 R51, R53). -/
def signalOp (op : Nat) (v x : W64) : W64 :=
  match op with
  | 0 => v
  | 1 => x + v
  | 2 => x - v
  | 3 => x ||| v
  | _ => x &&& v

/-- What a launch action answers: the packet completes with a code, goes on with its work, parks its queue, or cannot launch yet (its checks may have passed). -/
inductive Action where
  | complete (s : State) (err : Nat)
  | work (s : State) (w : PktWork)
  | park (w : Watch)
  | hold (s : State)

def Stoker.keptFor (k : Stoker) (q i : Nat) : Option Launch := (k.kept.find? fun x => x.1 == q && x.2.1 == i).map fun x => x.2.2
def State.dropKept (s : State) (q i : Nat) : State := { s with stoker := { s.stoker with kept := s.stoker.kept.filter fun x => !(x.1 == q && x.2.1 == i) } }
/-- The launch action of a DISPATCH or TASKROOT (03 R53, 19 R379): what its checks have read once (02 R32) is kept while no directory entry is free (26 R453). -/
def launchGrid (s : State) (q i va desc : Nat) (task : Option (BitVec 48 × W64)) : Action :=
  let c := qCtx s q
  let found : Except Nat Launch := match s.stoker.keptFor q i with
    | some l => .ok l
    | none => checkLaunch s c desc task.isSome
  match found with
  | .error e => .complete (if e = errDescfault then descEcc s c desc else s) e
  | .ok l => match s.freeEntry with
    | none => .hold (if (s.stoker.keptFor q i).isSome then s else { s with stoker := { s.stoker with kept := s.stoker.kept ++ [(q, i, l)] } })
    | some e => .work ((s.dropKept q i).addGrid e q i c va l task) (.grid s.nextName)

/-- The launch action of a packet within its limits (03 R53; 19 R379, R392). -/
def launchAction (s : State) (q i va : Nat) (bs : List Byte) : Action :=
  let f (o n : Nat) := leNat ((bs.drop o).take n)
  let c := qCtx s q
  match f 0 1 with
  | 2 => launchGrid s q i va (f 8 8) none
  | 3 => match s.ctxNat c (f 8 8) 8 with
    | none => .complete (s.eccSeen c needRead (f 8 8) 8) errPktfault
    | some x =>
      if waitHolds (f 0x18 1) (BitVec.ofNat 64 x) (BitVec.ofNat 64 (f 0x10 8)) then .complete (s.unitHears c (f 8 8) 8) 0
      else .park { q := q, i := i, sig := f 8 8, cond := f 0x18 1, value := BitVec.ofNat 64 (f 0x10 8),
                   deadline := if f 0x1C 4 = 0 then none else some (s.us + f 0x1C 4) }
  | 4 => match (s.unitHears c (f 8 8) 8).ctxModify (s.signalWriter q) c (f 8 8) (signalOp (f 0x18 1) (BitVec.ofNat 64 (f 0x10 8))) with
    | none => .complete (s.eccSeen c needRead (f 8 8) 8) errPktfault
    | some s' => .complete s' 0
  | 5 => .work s (.copy (f 8 8) (f 0x10 8) (f 0x18 8) 0)
  | 6 => .complete (s.unitFence q (f 8 1)) 0
  | 7 => match readFoot s c (f 8 8) with
    | .fault => .complete (s.eccSeen c needRead (f 8 8) (footSize s c (f 8 8))) errPktfault
    | .bad => .complete s errPktbad
    | .ok rs => let r := s.digest c rs (f 0x10 8); .complete r.1 r.2
  | 8 =>
    if s.grids.any fun d => d.isTask && d.st == .live then .hold s
    else launchGrid s q i va (f 8 8) (some (BitVec.ofNat 48 (f 0x10 8), BitVec.ofNat 64 (f 0x18 8)))
  | _ => .complete s 0

/-- TYPE becomes 0, then RIDX rises with release (03 R49). A fault of the first write is ignored (DESIGN CHOICE, notes/assumptions/59). -/
def State.consume (s : State) (q i va : Nat) : State :=
  let s := (s.ctxWrite Writer.unit (qCtx s q) va [0]).getD s
  match s.ctxWrite s.unitRelease (qCtx s q) (qHdr s q + 8) (leBytes 8 (i + 1)) with
  | some s => s
  | none => s.queueError q errQfault

/-- A packet read with an acquire (or, `none`, not readable) launches (03 R49, R52-R56, R60). One that cannot be read whole decrements no CSIG (DESIGN CHOICE,
notes/assumptions/59). -/
def State.launch (s : State) (q i va : Nat) (bs : Option (List Byte)) : State :=
  let s := s.unitSees (qCtx s q) va 64
  let act : Action := match bs with
    | none => .complete (s.eccSeen (qCtx s q) needRead va 64) errPktfault
    | some b => if packetBad b then .complete s errPktbad else launchAction s q i va b
  let p : Pkt := { q := q, i := i, csig := bs.bind packetCsig, err := 0, work := .ready }
  match act with
  | .hold s => s
  | .complete s e => ((s.consume q i va).completePkt { p with err := e }).settleQueue q
  | .work s w => ((({ s with stoker := { s.stoker with pkts := s.stoker.pkts ++ [{ p with work := w }] } }.consume q i va)).writeIncomp q).settleQueue q
  | .park w =>
    let s := (({ s with stoker := { s.stoker with pkts := s.stoker.pkts ++ [{ p with work := .wait }] } }.consume q i va)).writeIncomp q
    if s.stoker.faulted.contains q then { s with stoker := { s.stoker with watches := s.stoker.watches ++ [w] } }
    else { s with stoker := { s.stoker with watches := s.stoker.watches ++ [w] } }.leaveSlot q 2

-- ### Rounds

/-- A packet that a lane takes in a round: its TYPE, NOP's where it cannot be read, and its bytes where they can be. -/
structure Item where
  q    : Nat
  i    : Nat
  va   : Nat
  type : Nat
  bs   : Option (List Byte)

/-- The ready packet of a mapped queue (03 R49, R54), none while it must wait: TYPE is read first, then the rest. One of which TYPE alone can be read is taken at once,
whatever its TYPE (DESIGN CHOICE, notes/assumptions/59). -/
def State.readyPacket (s : State) (q : Nat) : Option Item :=
  match s.qHeader q with
  | none => none
  | some h =>
    let busy := s.stoker.pkts.any fun p => p.q == q
    let waits := s.stoker.pkts.any fun p => p.q == q && (p.work == .wait || p.work == .woken)
    if h.widx ≤ h.ridx || waits then none
    else
      let va := h.base + 64 * (h.ridx % 2 ^ h.slog)
      match s.ctxNat (qCtx s q) va 1 with
      | none => some { q := q, i := h.ridx, va := va, type := 1, bs := none }
      | some type =>
        if type = 0 then none
        else match s.ctxRead (qCtx s q) va 64 with
        | none => some { q := q, i := h.ridx, va := va, type := type, bs := none }
        | some bs =>
          if ((bs.getD 1 0).getLsbD 0 || type == 6 || type == 7) && busy then none
          else some { q := q, i := h.ridx, va := va, type := type, bs := some bs }

/-- The TYPE whose pass runs a packet (03 R62): NOP for a reserved TYPE or one that cannot be read. -/
def Item.passType (x : Item) : Nat := if 2 ≤ x.type && x.type ≤ 8 then x.type else 1
/-- The passes of a round in order (03 R62). -/
def passOrder : List Nat := [4, 3, 6, 5, 2, 7, 8, 1]

/-- A round over mapped queues in ascending lane order (03 R62, R63). -/
def State.round (s : State) (qs : List Nat) : State :=
  let bad := qs.filter fun q => s.stoker.mapped q && (s.qHeader q).isNone
  let s := bad.foldl (fun s q => s.queueError q errQfault) s
  let items := (qs.filter s.stoker.mapped).filterMap s.readyPacket
  (passOrder.flatMap fun t => items.filter fun x => x.passType == t).foldl (fun s x => if s.stoker.mapped x.q then s.launch x.q x.i x.va x.bs else s) s

/-- The queues of a block of 32 slots in lane order. -/
def Stoker.blockQueues (k : Stoker) (b : Nat) : List Nat :=
  (List.range 32).filterMap fun l => (k.slots.find? fun x => x.1 == 32 * b + l).map Prod.snd

/-- A round of a stoker core over its block, while queues are served (26 R458). -/
def State.coreRound (s : State) (core : Nat) : State :=
  match s.stoker.cores[core]? with
  | some c => match c.block with
    | some b => if c.halted || !s.serves then s else s.round (s.stoker.blockQueues b)
    | none => s
  | none => s
/-- STOKER_ROUND (03 R62). -/
def execStokerRound (core : Nat) (s : State) : Host.Outcome State Fault Refusal := .next (s.coreRound core)
/-- The stoker core that serves a mapped queue. -/
def Stoker.coreOf (k : Stoker) (q : Nat) : Option Nat :=
  (k.slots.find? fun x => x.2 == q).bind fun x => (List.range 5).find? fun i => match k.cores[i]? with
    | some c => !c.halted && c.block == some (x.1 / 32)
    | none => false
/-- STOKER_REPOLL (03 R49, R62): the next packet of a mapped queue is read again, in a round of its core. -/
def execStokerRepoll (q : Nat) (s : State) : Host.Outcome State Fault Refusal :=
  .next (match s.stoker.coreOf q with
    | some core => s.coreRound core
    | none => s)

-- ### Retirement

/-- The gangs of a grid; a task set counts none. -/
def Desc.gangs (d : Desc) : Nat := d.gridx * d.gridy * d.gridz
/-- Whether the last workgroup of a grid has exited, or every task of a set has committed (03 R57, 19 R386). -/
def State.gridOver (s : State) (d : Grid) : Bool :=
  d.st == .live && (if d.isTask then (s.taskKeys d.gid).isEmpty else d.desc.gangs ≤ d.exited.length)

/-- A grid leaves the LIVE entries (26 R453); a cut of it has nothing left to wait for (22 R435). What its groups have written comes before the end of its packet (03 R55,
R57, 17 R360). -/
def State.retire (s : State) (d : Grid) : State :=
  let s := s.joinView .unit ((s.order.grids.lookup d.gid).getD View.fresh)
  let s := { s with order := { s.order with grids := s.order.grids.filter fun x => x.1 != d.gid } }
  (d.cut.foldl (fun s port => s.setStatus port 0) s).modGrid d.gid fun x => { x with st := .retired, retiredAt := s.fclk, cut := [], aside := [], tasks := [], quantum := none }

/-- GRID_RETIRE (03 R57, 19 R392): the digest under DET, then the packet's work has ended. -/
def execGridRetire (gid : Nat) (s : State) : Host.Outcome State Fault Refusal :=
  .next (match s.grid? gid with
    | some d =>
      if s.gridOver d then
        let r : State × Nat := match d.foot with
          | some (a, rs) =>
            if 4 ≤ d.desc.mode then s.digest d.ctx rs (digestAt a rs.length) else (s, 0)
          | none => (s, 0)
        (r.1.retire d).pktDone d.q d.pi r.2
      else s
    | none => s)

-- ### Stoker cores

def State.setCore (s : State) (core : Nat) (c : StokerCore) : State :=
  { s with stoker := { s.stoker with cores := s.stoker.cores.setIfInBounds core c } }
/-- The active stoker cores without a block (01 R13, 03 R64), and the halted ones that keep theirs until one of those takes it. -/
def Stoker.spares (k : Stoker) : List Nat := (List.range 5).filter fun i => match k.cores[i]? with
  | some c => !c.halted && c.block.isNone
  | none => false
def Stoker.promised (k : Stoker) : List Nat := (List.range 5).filter fun i => match k.cores[i]? with
  | some c => c.halted && c.block.isSome
  | none => false
def Stoker.spare (k : Stoker) : Option Nat := k.spares.head?
/-- Bytes of the stoker slot of the repair map: LAST, SPARE, -, USED (26 R456). -/
def State.repairBytes (s : State) (off : Nat) (bs : List Byte) : State := { s with svc := { s.svc with repairMap := memWrite s.svc.repairMap off bs } }

/-- No spare is left for the block of a halted core (03 R65): its queues join the pending list, with STATE as it is for a queue that is not mapped; while queues
are not served their headers are not read, and PRIO counts as 0; they come after the queues of equal PRIO that are pending, in lane order (DESIGN CHOICES,
notes/assumptions/59). -/
def State.loseBlock (s : State) (core : Nat) : State :=
  match s.stoker.cores[core]? with
  | none => s
  | some c =>
    let qs := (c.block.map s.stoker.blockQueues).getD []
    let s := qs.foldl (fun (s : State) q =>
      let s := { s with stoker := { s.stoker with slots := s.stoker.slots.filter fun x => x.2 != q } }
      let join (s : State) (prio : Nat) : State := { s with stoker := { s.stoker with pending := s.stoker.pending ++ [(q, prio)] } }
      if !s.serves then join s 0
      else match s.qHeader q, s.qWrite q 0x22 1 0 with
        | some h, some s => join s h.prio
        | _, _ => s.faultQueue q errQfault) (s.setCore core { c with block := none })
    s.fill

/-- STOKER_HALT (03 R64, R65): the core halts between packets. A spare that is not promised to another halted core is to take its slots; without one its queues
join the pending list. When a spare halts that was promised, the lowest core that waits for it loses its slots (DESIGN CHOICE, notes/assumptions/59). -/
def execStokerHalt (core : Nat) (s : State) : Host.Outcome State Fault Refusal :=
  .next (match s.stoker.cores[core]? with
    | none => s
    | some c =>
      if c.halted then s
      else
        let s := (s.setCore core { c with halted := true }).repairBytes 0x3E3 [0x80]
        let free := (s.stoker.spares.drop ((s.stoker.promised.filter (· != core)).length)).head?
        if c.block.isNone then
          let s := s.log 2 core 0xFF 0 0
          if s.stoker.spares.length < s.stoker.promised.length then s.loseBlock (s.stoker.promised.headD 0) else s
        else match free with
          | some sp => (s.repairBytes 0x3E0 [BitVec.ofNat 8 core]).log 2 core sp 0 0
          | none => (s.log 2 core 0xFF 0 0).loseBlock core)

/-- STOKER_TAKEOVER (03 R64): the spare takes the slots of a halted core, lane for lane, and goes on from each RIDX. -/
def execStokerTakeover (core : Nat) (s : State) : Host.Outcome State Fault Refusal :=
  .next (match s.stoker.cores[core]?, s.stoker.spare with
    | some c, some sp =>
      if c.halted && c.block.isSome then ((s.setCore core { c with block := none }).setCore sp { block := c.block, halted := false }).fill else s
    | _, _ => s)

/-- STOKER_RELOAD (03 R64): a halted core whose slots have been taken is reloaded and becomes the spare; the slot of the repair map stays USED while another core is
halted (26 R456). A block lost for want of a spare (R65) does not come back before a reset (DESIGN CHOICE, notes/assumptions/59). -/
def execStokerReload (core : Nat) (s : State) : Host.Outcome State Fault Refusal :=
  .next (match s.stoker.cores[core]? with
    | some c =>
      if c.halted && c.block.isNone then
        let s := s.setCore core { c with halted := false }
        (if s.stoker.cores.any fun x => x.halted then s else s.repairBytes 0x3E3 [0]).repairBytes 0x3E1 [BitVec.ofNat 8 core]
      else s
    | none => s)

end Sys2Proof.Machine
end

