-- ==== Sys2Proof/Machine/Dispatcher.lean ====
section
/-!
DEFINITION. The dispatcher (04): what a core offers, the vault test, the choice of cores for a gang, candidates of the three modes, placement, quanta;
the start of groups (02 R38, 19 R381).
-/
namespace Sys2Proof.Machine

-- ### What a core offers

/-- The charge of a vault (04 R72), from the workgroups that hold resources on its cores. -/
def State.charge (s : State) (vault : Nat) : Nat :=
  ((List.range 416).map fun c =>
    if (s.logicalOf c).map homeVault = some vault then ((s.coreTenants c).map fun w => (s.desc w.1.gid).vdem).sum else 0).sum

/-- The vault test of 04 R73 against a charge. -/
def State.vaultPasses (s : State) (vault chg vdem : Nat) : Bool :=
  let v := s.units.vaultSens.getD vault Sensor.reset
  match v.band with
  | 0 | 1 => chg + vdem ≤ bandHead v.band
  | 2 => vdem == 0
  | _ => false

/-- What one workgroup needs of a core (04 R67): register granules and group slots. -/
structure Need where
  granules : Nat
  groups   : Nat

/-- The load of a core (04 R68). -/
def State.load (s : State) (core : Nat) : Nat := ((s.coreTenants core).map fun w => w.2.length).sum
/-- The feasibility of a core (04 R70) but for its vault; granules that became free while a GROW waits are not counted (12 R246). A member of a gang without groups
has given up its resources (04 R72) and asks for none. -/
def State.coreFeasible (s : State) (d : Desc) (n : Need) (core : Nat) : Bool :=
  let cl := s.clusterAt (coreCluster core)
  let sen := s.units.coreSens.getD core Sensor.reset
  let ts := s.coreTenants core
  let rpg := d.part / 2 ^ 8
  let spg := d.part % 2 ^ 8
  let used (f : Desc → Nat) : Nat := (ts.map fun w => f (s.desc w.1.gid)).sum
  let regs := (ts.map fun w => (w.2.map fun g => g.regs.length / 8).sum).sum
  (s.logicalOf core).isSome && !cl.out && !cl.tripped && sen.seen && sen.band == 0 && (n.groups == 0 || ((ts.isEmpty || s.corePart core == d.part)
    && regs + s.withheld core + n.granules ≤ rpg * 64 && used Desc.spwg + d.spwg ≤ spg * 16 && used Desc.nbar + d.nbar ≤ 32
    && s.load core + n.groups ≤ 48 && ts.length + 1 ≤ 48))

/-- The candidate with the least load, ties to the first (04 R76). -/
def leastLoad (s : State) : List Nat → Option Nat
  | [] => none
  | c :: cs => match leastLoad s cs with
    | some b => if s.load b < s.load c then some b else some c
    | none => some c

/-- The cores that a cluster gives the members in turn, none when it fails (04 R76); `charged` are those whose vault takes a member's demand. -/
def State.chooseIn (s : State) (d : Desc) (cluster : Nat) : List Need → List Nat → List Nat → Option (List Nat)
  | [], chosen, _ => some chosen
  | n :: ns, chosen, charged =>
    let vault (c : Nat) : Nat := homeVault ((s.logicalOf c).getD 0)
    let chg (c : Nat) : Nat := s.charge (vault c) + d.vdem * (charged.countP fun x => vault x == vault c)
    let cand := ((List.range 4).map (4 * cluster + ·)).filter fun c =>
      !chosen.contains c && s.coreFeasible d n c && (n.groups == 0 || s.vaultPasses (vault c) (chg c) d.vdem)
    match leastLoad s cand with
    | none => none
    | some c => s.chooseIn d cluster ns (chosen ++ [c]) (if n.groups = 0 then charged else charged ++ [c])

/-- The best cluster of a list: the least score, ties to the first (04 R76). -/
def State.chooseCluster (s : State) (d : Desc) (needs : List Need) : List Nat → Option (Nat × List Nat)
  | [] => none
  | n :: ns =>
    let rest := s.chooseCluster d needs ns
    match s.chooseIn d n needs [] [] with
    | none => rest
    | some cs =>
      let score := (cs.map s.load).sum
      match rest with
      | some (b, bs) => if b < score then some (b, bs) else some (score, cs)
      | none => some (score, cs)

/-- The cores of a gang in ascending number, for its members in order (04 R76). Each was found feasible for one member's need; where the members of a saved gang hold
different allotments it may go to another (DESIGN CHOICE, notes/assumptions/64). -/
def State.choose (s : State) (d : Desc) (needs : List Need) : Option (List Nat) :=
  (s.chooseCluster d needs (List.range 104)).map fun b => (List.range 416).filter b.2.contains

-- ### Start of a workgroup

/-- The slot of a new group on a core (04 R69): the partition with the fewest groups, its lowest free slot. The groups of a gang placed again take theirs when they are
restored, and count from then on (DESIGN CHOICE, notes/assumptions/64). -/
def State.newSlot (s : State) (core : Nat) : Nat :=
  let taken (x : Nat) : Bool := s.groups.any fun g => g.slot == 48 * core + x
  let cnt (p : Nat) : Nat := (List.range 8).countP fun i => taken (8 * p + i)
  let p := ((List.range 6).find? fun p => (List.range 6).all fun q => cnt p ≤ cnt q).getD 0
  48 * core + 8 * p + ((List.range 8).find? fun i => !taken (8 * p + i)).getD 0

/-- A group at its start (02 R38, 19 R381). -/
def newGroup (s : State) (d : Grid) (lw k slot : Nat) (task : Option Task) : Group :=
  let regs := (Vector.replicate 256 0).set 1 d.desc.args
  let regs := match task with
    | some t => (regs.set 2 t.arg).set 3 (t.ts.setWidth 64)
    | none => regs
  { slot := slot, gid := d.gid, lw := lw, k := k, part := slot % 48 / 8, spc := BitVec.ofNat 32 d.ko.entry, sregs := regs, runq := [],
    regs := List.replicate (8 * d.desc.rgran) Reg.fresh, bound := 8 * d.desc.vbnd0, masks := (Vector.replicate 8 0).set 0 0xFFFFFFFF,
    ctrs := Vector.replicate 12 0, flights := [], nextId := 0, exm := 0xFFFFFFFF, tpart := 5, pins := Vector.replicate 8 0, recipes := [],
    cause := 0, epc := 0, elpc := 0, faddr := 0, fspc := 0, stepn := 0, progto := d.desc.progto, watch := s.us, tseq := 0, oclosed := 0, bars := 0,
    growAsk := none, latch := none, tiles := [], mq := [], trial := none, races := [], passed := 0, aside := none, skip := none, double := false, quota := false,
    parked := false, toHost := false, stepHeld := false, deferred := [], spend := none, puts := 0, last := none, trapAt := none, relv := [], srelv := [], acqv := [], heard := [],
    obsv := [], sobs := [], slack := [], mid := none, late := [] }

/-- A new group knows what the stoker knew when it read the packet of its grid (17 R360). -/
def State.addGroup (s : State) (g : Group) (start : View) : State :=
  let s := { s with groups := s.groups ++ [g] }
  s.groupJoin g start
/-- The groups of a new workgroup placed in ascending k. -/
def State.startGroups (s : State) (d : Grid) (lw core : Nat) (task : Option Task) : Nat → Nat → State
  | _, 0 => s
  | k, n + 1 => (s.addGroup (newGroup s d lw k (s.newSlot core) task) d.start).startGroups d lw core task (k + 1) n
/-- A new workgroup on a core (02 R38): scratchpad and ws registers are zero. -/
def State.startWg (s : State) (d : Grid) (lw core : Nat) (task : Option Task) : State :=
  let w : Wg := { gid := d.gid, lw := lw, core := core, lcore := (s.logicalOf core).getD 0, spad := [], ws := Vector.replicate 16 0, wsPend := [], stop := none,
                  stopAt := 0, hold := false, quota := false, atStep := false, moves := false, migr := false, placed := s.moment, task := task }
  { s with wgs := s.wgs ++ [w] }.startGroups d lw core task 0 d.desc.wgsize

-- ### Candidates

/-- Ascending order of a key, ties as they stood. -/
def insertBy (f : Nat → Nat) (x : Nat) : List Nat → List Nat
  | [] => [x]
  | y :: ys => if f x ≤ f y then x :: y :: ys else y :: insertBy f x ys
def sortBy (f : Nat → Nat) (xs : List Nat) : List Nat := xs.foldr (insertBy f) []
def sortNat (xs : List Nat) : List Nat := sortBy id xs

/-- The records of a saved gang. -/
def State.savedGang (s : State) (gid gang : Nat) : List SavedWg := s.saved.filter fun r => r.wg.gid == gid && gangIdx (s.desc gid) r.wg.lw == gang
/-- COUNT of STEPN (08 R171). -/
def Group.stepCount (g : Group) : Nat := g.stepn.toNat / 2 ^ 16
/-- The largest COUNT among some groups. -/
def maxCount (gs : List Group) : Nat := (gs.map Group.stepCount).foldl max 0
/-- K of a cut (22 R435): the largest COUNT among the groups of the grid that have been saved since it began, or were saved then. -/
def State.cutK (s : State) (gid : Nat) : Nat := ((s.grid? gid).map Grid.cutMax).getD 0

/-- The saved gangs of a grid that may be placed, in order of their saving (04 R79): not held, and in a cut only those below K (22 R435). -/
def State.savedGangs (s : State) (d : Grid) : List Nat :=
  let rs := s.saved.filter fun r => r.wg.gid == d.gid
  let gs := (rs.map fun r => gangIdx d.desc r.wg.lw).eraseDups
  let ok (g : Nat) : Bool :=
    let ms := s.savedGang d.gid g
    !ms.any (·.held) && (d.cut.isEmpty || ms.any fun r => r.groups.any fun x => x.stepCount < s.cutK d.gid)
  let first (g : Nat) : Nat := ((s.savedGang d.gid g).map SavedWg.rank).foldl min s.nextName
  sortBy first (gs.filter ok)

/-- The next gang of the walk. -/
def Grid.next (d : Grid) : List Nat := if d.walk < d.desc.gangs then [d.walk] else []

/-- The key of an unplaced task, or of a saved one. -/
def State.taskKeyOf (s : State) (d : Grid) (seq : Nat) : BitVec 48 × Nat :=
  match d.tasks.find? fun t => t.seq == seq with
  | some t => (t.ts, t.seq)
  | none => (((s.savedGang d.gid seq).findSome? fun r => r.wg.task.map Task.key).getD (0, seq))
/-- Tasks that may be placed, by SEQ: the one of the lowest key (19 R380), a new one only while 16 spawns fit (R388). -/
def State.taskCandidates (s : State) (d : Grid) : List Nat :=
  let saved := s.savedGangs d
  let placed := (s.wgs.countP fun w => w.gid == d.gid) + (s.saved ++ s.resuming).countP fun r => r.wg.gid == d.gid
  let fresh := if d.tasks.length + 16 * (placed + 1) ≤ 65536 then d.tasks.map TaskKey.seq else []
  let all := saved ++ fresh
  (all.find? fun x => all.all fun y => !keyLt (s.taskKeyOf d y) (s.taskKeyOf d x)).toList

/-- The candidates of a grid in one decision, in the order they are tried (04 R79). -/
def State.candidates (s : State) (d : Grid) : List Nat :=
  if d.st != .live || d.quotaHeld then []
  else if d.isTask then s.taskCandidates d
  else
    let saved := s.savedGangs d
    match d.desc.mode % 4 with
    | 0 => sortNat saved ++ sortNat d.aside ++ d.next
    | 1 =>
      let all := saved ++ d.next
      (all.find? fun x => all.all (x ≤ ·)).toList
    | _ => (d.next ++ saved).take 1

/-- What the members of a gang need, in member order: as the descriptor says, or for a saved gang the allotments it holds (12 R249). -/
def State.needs (s : State) (d : Grid) (gang : Nat) : List Need :=
  match s.savedGang d.gid gang with
  | [] => List.replicate d.desc.gang { granules := d.desc.wgsize * d.desc.rgran, groups := d.desc.wgsize }
  | rs => ((sortNat (rs.map fun r => r.wg.lw)).filterMap fun lw => rs.find? fun r => r.wg.lw == lw).map fun r =>
      { granules := (r.groups.map fun g => g.regs.length / 8).sum, groups := r.groups.length }

/-- A whole gang asked to stop (02 R28, 22 R427). -/
def State.stopGang (s : State) (gid gang : Nat) (why : StopReason) : State :=
  (gangOf (s.desc gid) gang).foldl (fun s lw => s.requestStop gid lw why) s

/-- The requests that cores owe to what runs next on them reach a gang placed there (03 R58). -/
def State.takeOwed (s : State) (gid gang : Nat) (cores : List Nat) : State :=
  let due := (s.owed.filter fun x => cores.contains x.1).map Prod.snd
  due.foldl (fun s why => s.stopGang gid gang why) { s with owed := s.owed.filter fun x => !cores.contains x.1 }

/-- A new gang starts on its cores (04 R77). -/
def State.startGang (s : State) (d : Grid) (gang : Nat) (cores : List Nat) : State :=
  let task : Option Task := if d.isTask then (d.tasks.find? fun t => t.seq == gang).map fun t =>
      { ts := t.ts, seq := t.seq, arg := t.arg, spawns := [], buf := [], dies := [], reads := [], direct := false } else none
  let s := s.modGrid d.gid fun x => { x with aside := x.aside.filter (· != gang), walk := if !d.isTask && gang == x.walk then x.walk + 1 else x.walk,
                                             tasks := x.tasks.filter fun t => t.seq != gang }
  ((gangOf d.desc gang).zip cores).foldl (fun s p => s.startWg d p.1 p.2 task) s
/-- A saved gang takes its cores (22 R433); a migrated workgroup keeps its LCORE (R436). -/
def State.returnGang (s : State) (d : Grid) (gang : Nat) (cores : List Nat) : State :=
  let rs := s.savedGang d.gid gang
  let lws := sortNat (rs.map fun r => r.wg.lw)
  let moved := (lws.zip cores).filterMap fun p => (rs.find? fun r => r.wg.lw == p.1).map fun r =>
    { r with wg := { r.wg with core := p.2, lcore := if r.migr then r.wg.lcore else (s.logicalOf p.2).getD 0, placed := s.moment } }
  { s with saved := s.saved.filter fun r => !(r.wg.gid == d.gid && gangIdx d.desc r.wg.lw == gang), resuming := s.resuming ++ moved }
/-- A gang placed on its cores (04 R77); its quantum starts (R80). -/
def State.placeGang (s : State) (d : Grid) (gang : Nat) (cores : List Nat) : State :=
  (if (s.savedGang d.gid gang).isEmpty then s.startGang d gang cores else s.returnGang d gang cores).takeOwed d.gid gang cores

/-- A new gang of a FREE grid that cannot be placed is set aside, while fewer than 64 are (04 R79). -/
def Grid.setAside (d : Grid) : Grid :=
  if !d.isTask && d.desc.mode % 4 == 0 && d.walk < d.desc.gangs && d.aside.length < 64 then { d with aside := d.aside ++ [d.walk], walk := d.walk + 1 } else d

/-- The first candidate that fits, with its cores. -/
def State.firstFit (s : State) (d : Grid) : List Nat → Option (Nat × List Nat)
  | [] => none
  | g :: gs => match s.choose d.desc (s.needs d g) with
    | some cs => some (g, cs)
    | none => s.firstFit d gs

/-- A decision over the grids, oldest first (04 R78, R79, R81). -/
def State.decide (s : State) : List Grid → State
  | [] => s
  | d :: ds =>
    match s.candidates d with
    | [] => s.decide ds
    | c :: cs =>
      match s.firstFit d (c :: cs) with
      | some (g, cores) => s.placeGang d g cores
      | none =>
        let s := s.modGrid d.gid Grid.setAside
        if (d.waits.lookup c).any (s.passed · 500) then s else s.decide ds
/-- Since when each candidate waits: a gang waits while it is one (04 R81; DESIGN CHOICE, notes/assumptions/64). -/
def State.noteWaits (s : State) : State :=
  { s with grids := s.grids.map fun d => { d with waits := (s.candidates d).map fun c => (c, (d.waits.lookup c).getD s.moment) } }

/-- DISPATCHER_DECISION (04 R78). -/
def execDispatcherDecision (s : State) : Out := let s := s.noteWaits; .next (s.decide s.grids)

-- ### Quanta

/-- A gang's residence: the moment of its placement, none while no member is resident. -/
def State.residentSince (s : State) (gid gang : Nat) : Option Moment :=
  (s.wgs.find? fun w => w.gid == gid && gangIdx (s.desc gid) w.lw == gang).map Wg.placed
/-- The gangs of a grid that are resident. -/
def State.residentGangs (s : State) (gid : Nat) : List Nat :=
  ((s.wgs.filter fun w => w.gid == gid).map fun w => gangIdx (s.desc gid) w.lw).eraseDups
/-- Whether the waiting queue of a QUANTUM grid holds a gang (04 R79). -/
def State.hasWaiting (s : State) (d : Grid) : Bool := !(d.next ++ s.savedGangs d).isEmpty
/-- A quantum pre-emption of the grid is under way. -/
def State.quantumUnderWay (s : State) (d : Grid) : Bool :=
  d.quantum.any fun g => (s.residentSince d.gid g).isSome && (s.gangStop d.gid g).isSome

/-- Whether 50 us have passed since a moment. -/
def State.quantumPast (s : State) (t : Moment) : Bool := s.passed t 50
/-- The gang whose quantum is to end next (04 R80): resident for 50 us, the longest first, ties to the lowest index. One that is asked to stop already is passed over
(DESIGN CHOICE, notes/assumptions/64). -/
def State.quantumNext (s : State) (d : Grid) : Option Nat :=
  let since (g : Nat) : Nat := ((s.residentSince d.gid g).map Moment.fclk).getD 0
  let due := (sortNat (s.residentGangs d.gid)).filter fun g => (s.gangStop d.gid g).isNone && (s.residentSince d.gid g).any s.quantumPast
  due.find? fun g => due.all fun x => since g ≤ since x

/-- Whether the quantum of a gang ends now (04 R80). -/
def State.quantumEnds (s : State) (d : Grid) (gang : Nat) : Bool :=
  !d.isTask && d.st == .live && d.desc.mode % 4 == 2 && s.hasWaiting d && !s.quantumUnderWay d && s.quantumNext d == some gang
/-- QUANTUM_EXPIRY (04 R80). -/
def execQuantumExpiry (gid gang : Nat) (s : State) : Out :=
  .next (match s.grid? gid with
    | some d => if s.quantumEnds d gang then (s.stopGang gid gang .quantum).modGrid gid fun x => { x with quantum := some gang } else s
    | none => s)

end Sys2Proof.Machine
end

