-- ==== Sys2Proof/Machine/Dual.lean ====
section
/-!
DEFINITION. The dual word (06 R120-R123, 10 R225): two halves, each with the effect of its full form on the lanes of EXM.
-/
namespace Sys2Proof.Machine

/-- The B operand of a half: vk, or sk with BS. -/
def halfB (x : Half) : BOpnd := if x.bs then .s x.b else .v { acc := false, k := x.b }
def halfF (x : Half) : BitVec 4 := x.f.setWidth 4

/-- The lane function of an X half (06 R121). -/
def xOp (x : Half) (a b : W32) : W32 :=
  match x.op.toNat with
  | 1 => aluFadd (halfF x) a b
  | 2 => aluFsub (halfF x) a b
  | 3 => aluFmul (halfF x) a b
  | 4 => aluFmin a b
  | _ => aluFmax a b

/-- The lane function of a Y half (06 R121), of the lane's number too. -/
def yOp (tsize : BitVec 3) (y : Half) (l : Nat) (a b : W32) : W32 :=
  let f := halfF y
  match y.op.toNat with
  | 1 => aluAdd f a b
  | 2 => aluSub f a b
  | 3 => aluMul a b
  | 4 => aluMin f a b
  | 5 => aluMax f a b
  | 6 => aluAbs f a
  | 7 => a &&& b
  | 8 => a ||| b
  | 9 => a ^^^ b
  | 0xA => ~~~a
  | 0xB => aluShl f a b
  | 0xC => aluShr f a b
  | 0xD => aluSra f a b
  | 0xE => a
  | 0xF => aluCvt f a
  | _ => laneidOp f tsize l

def halfWrites (x : Half) : List RName := if x.empty then [] else [vname x.d.toNat]

/-- The dual word: both halves read before either writes. -/
def execDualWord (h : LaneCtl) (x y : Half) (s : State) : Out :=
  laneIssue s h false .inOrder latA (halfWrites x ++ halfWrites y) ((x.readsX ++ y.readsY).map vname) fun s g on =>
    let rd (k : BitVec 8) := g.readReg s.free (vname k.toNat)
    let eff (x : Half) (op : Nat → W32 → W32 → W32) : List Eff :=
      if x.empty then []
      else
        let va := rd x.a
        let vb := g.readB s.free .int (halfB x)
        [regEff g (vname x.d.toNat) on (Vector.ofFn fun l => op l.val va[l] vb[l])]
    .done s g (eff x (fun _ => xOp x) ++ eff y (yOp g.tpart y)) true

end Sys2Proof.Machine
end

