-- ==== Sys2Proof/Machine/LaneCvt.lean ====
section
/-!
DEFINITION. Conversions and codebook words (10 R215-R221).
-/
namespace Sys2Proof.Machine

def execCvt (h : LaneCtl) (d a : VReg) (f : BitVec 4) (s : State) : Out := alu1 s h latB d a (aluCvt f)
/-- CVTEF (10 R216, 09 R185). -/
def execCvtef (h : LaneCtl) (d a : VReg) (f : BitVec 4) (s : State) : Out :=
  laneAlu s h latB d [regName a] fun g on => aluCvtef f (tileOf g.tpart) on (g.readReg s.free (regName a))
def execPack (h : LaneCtl) (d a : VReg) (b : BOpnd) (f : BitVec 4) (s : State) : Out := alu2 s h latB .int d a b (aluPack f)
def execUnpack (h : LaneCtl) (d a : VReg) (f : BitVec 4) (s : State) : Out := alu1 s h latB d a (aluUnpack f)

/-- The eight registers of a codebook (10 R219). -/
def bookRegs (b : VReg) : List RName := (List.range 8).map fun i => { regName b with k := b.k.toNat + i }
/-- A word that reads a codebook per lane. -/
def bookWord (s : State) (h : LaneCtl) (d a b : VReg) (op : W32 → List Nat → W32) : Out :=
  laneAlu s h latB d (regName a :: bookRegs b) fun g _ =>
    let va := g.readReg s.free (regName a)
    let vb := (bookRegs b).map (g.readReg s.free)
    Vector.ofFn fun l => op va[l] (codebook (vb.map fun r => r[l]))
def execCbdec (h : LaneCtl) (d a b : VReg) (f : BitVec 4) (s : State) : Out := bookWord s h d a b (aluCbdec f)
def execCbenc (h : LaneCtl) (d a b : VReg) (f : BitVec 4) (s : State) : Out := bookWord s h d a b (aluCbenc f)

end Sys2Proof.Machine
end

