-- ==== Sys2Proof/Machine/LaneMem.lean ====
section
/-!
DEFINITION. Lane loads, stores, transposing loads, atomics, fences and prefetches (13 R280-R293).
-/
namespace Sys2Proof.Machine

/-- The registers that give the addresses. -/
def memRegs (m : MemOp) : List RName := if m.voff then [vname m.b.toNat] else []
/-- EA(l) of a memory word (13 R283). -/
def memEa (g : Group) (free : Nat) (m : MemOp) : Nat → Nat :=
  eaOf (g.sreg free m.a) (if m.voff then some (g.readReg free (vname m.b.toNat)) else none) m.disp

/-- Inside a task every ORD but .rlx, every atomic and every FENCE is ILLEGAL (19 R382). -/
def taskOrd (s : State) (g : Group) (ord : BitVec 3) : Bool := s.inTask g && ord != 0

/-- The class of a memory word of an ORD (06 R117, 13 R287): .acq, .ar and .sc acquire; .rel, .ar and .sc release. -/
def memClass (load fence : Bool) (ord : BitVec 3) : WordClass :=
  .memory { load := load, fence := fence, acq := ord == 1 || ord == 3 || ord == 4, rel := ord == 2 || ord == 3 || ord == 4 }

/-- An .sc word takes its place in the order S before it acts; the state, and what it has learned (17 R362). -/
def State.scStart (s : State) (g : Group) (ord : BitVec 3) (scope : BitVec 4) : State × View := if ord = 4 then s.joinSc g scope.toNat else (s, View.fresh)
/-- Once it has acted, later words of S learn of it. -/
def State.scEnd (s : State) (g : Group) (ord : BitVec 3) (scope : BitVec 4) : State := if ord = 4 then s.tellSc g scope.toNat else s

/-- A lane memory word: ILLEGAL first, which awaits nothing (06 R125), then the issue of 07. -/
def memIssue (s : State) (h : LaneCtl) (load : Bool) (ord : BitVec 3) (bad : Group → Bool) (writes reads : List RName) (body : State → Group → W32 → LaneRes) : Out :=
  onGroup s fun g =>
    if bad g then s.trapLane g illegal else laneIssue s h false (memClass load false ord) 0 writes reads body

/-- A load of an element per lane into a register group (13 R285). -/
def loadBody (h : LaneCtl) (d : BitVec 8) (m : MemOp) (check : State → Group → Nat → Except Nat Place) (s : State) (g : Group) (on : W32) : LaneRes :=
  let n := typeSize m.type
  let ea := memEa g s.free m
  match checkLanes (check s g) ea (laneList on) with
  | .error f => .trap s g f
  | .ok pls =>
    let j := s.scStart g m.ord m.scope
    let got := j.1.readPlaces g m.scope.toNat n (!m.voff) pls
    let effs := (List.range (typeRegs m.type)).map fun i => regEff g (vname (d.toNat + i)) on (loadCols m.type got i)
    let r := (j.1.noteReads g (Place.globals (pls.map Prod.snd) n)).lanesSaw g h.setc (acqScope m.ord m.scope) j.2 (seenBy got)
    .done (r.1.scEnd r.2 m.ord m.scope) (r.2.deferErr h.setc (loadErrs s g ea n pls)) effs true

/-- LD (13 R285). -/
def execLd (h : LaneCtl) (d : BitVec 8) (m : MemOp) (s : State) : Out :=
  memIssue s h true m.ord (fun g => taskOrd s g m.ord) (vgroup d.toNat (typeRegs m.type)) (memRegs m)
    (loadBody h d m fun s g => checkGlob s g needRead (typeSize m.type))
/-- LDS (13 R285). -/
def execLds (h : LaneCtl) (d : BitVec 8) (m : MemOp) (s : State) : Out :=
  memIssue s h true m.ord (fun g => taskOrd s g m.ord) (vgroup d.toNat (typeRegs m.type)) (memRegs m)
    (loadBody h d m fun s g => checkSpad s g (typeSize m.type))

-- ### Stores and atomics, lane by lane

/-- The words that a lane gives from the register group at vc, and the bytes that it stores: the low ones of the group (13 R286). -/
def laneData (g : Group) (free : Nat) (c : BitVec 8) (n : Nat) (l : Nat) : List W32 := (List.range n).map fun i => laneGet (g.readReg free (vname (c.toNat + i))) l
def storeBytes (g : Group) (free : Nat) (c : BitVec 8) (type : BitVec 4) (l : Nat) : List Byte := bytesOf type (laneData g free c (typeRegs type) l)

/-- The word as it stands: with lanes performed, or new, its lanes checked. -/
def memWord (s : State) (g : Group) (m : MemOp) (atom : Bool) (check : State → Group → Nat → Except Nat Place) (data : Nat → List W32) (on : W32) : Except Flt Mid :=
  match g.mid with
  | some w => .ok w
  | none =>
    let ea := memEa g s.free m
    (checkLanes (check s g) ea (laneList on)).map fun pls => .start m atom on (pls.map fun x => { lane := x.1, ea := ea x.1, place := x.2, data := data x.1 })
/-- A store of an element per lane (13 R284, R286). A task that has no room for its lines stalls (19 R388). A store to
host memory whose link is down is dropped, with a deferred ECC (20 R399). -/
def storeBody (h : LaneCtl) (c : BitVec 8) (m : MemOp) (check : State → Group → Nat → Except Nat Place) (s : State) (g : Group) (on : W32) : LaneRes :=
  let n := typeSize m.type
  match memWord s g m false check (laneData g s.free c (typeRegs m.type)) on with
  | .error f => .trap s g f
  | .ok w =>
    match s.storeRoom g (Place.globals (w.accs.map LaneAcc.place) n) with
    | none => .wait s id
    | some s' =>
      let j := s'.scStart g m.ord m.scope
      let x := j.1.memLanes g w
      .done (x.1.scEnd x.2.1 m.ord m.scope) (({ x.2.1 with mid := none }.owe h.setc (acqScope m.ord m.scope) j.2 []).deferErr h.setc x.2.2.errs) [] true

/-- ST (13 R286). -/
def execSt (h : LaneCtl) (c : BitVec 8) (m : MemOp) (s : State) : Out :=
  memIssue s h false m.ord (fun g => taskOrd s g m.ord) [] (memRegs m ++ vgroup c.toNat (typeRegs m.type))
    (storeBody h c m fun s g => checkGlob s g needWrite (typeSize m.type))
/-- STS (13 R286). -/
def execSts (h : LaneCtl) (c : BitVec 8) (m : MemOp) (s : State) : Out :=
  memIssue s h false m.ord (fun g => taskOrd s g m.ord) [] (memRegs m ++ vgroup c.toNat (typeRegs m.type))
    (storeBody h c m fun s g => checkSpad s g (typeSize m.type))

/-- LDT (13 R288): a row per lane, columns to the registers; rows of inactive lanes are zero. -/
def execLdt (h : LaneCtl) (d : BitVec 8) (m : MemOp) (s : State) : Out :=
  let e := if m.type = 1 then 2 else 1
  let size := 32 * e
  let per := 4 / e
  let regs := 32 / per
  laneIssue s h false (memClass true false 0) 0 (vgroup d.toNat regs) (memRegs m) fun s g on =>
    let ea := memEa g s.free m
    match checkLanes (checkGlob s g needRead size) ea (laneList on) with
    | .error f => .trap s g f
    | .ok pls =>
      let got := s.readPlaces g m.scope.toNat size (!m.voff) pls
      let rows := bytesBy got
      let el (r c : Nat) : Nat := match rows.lookup r with
        | some bs => leNat ((bs.drop (e * c)).take e)
        | none => 0
      let reg (i : Nat) : LaneVec := Vector.ofFn fun c => packElems (8 * e) ((List.range per).map fun j => el (per * i + j) c.val)
      let r := (s.noteReads g (Place.globals (pls.map Prod.snd) size)).lanesSaw g h.setc none View.fresh (seenBy got)
      .done r.1 (r.2.deferErr h.setc (loadErrs s g ea size pls))
        ((List.range regs).map fun i => regEff g (vname (d.toNat + i)) on (reg i)) true

/-- The atomics whose final value depends on order, ILLEGAL under DET = 1 (19 R378). -/
def atomOrdered (type : BitVec 4) : Bool := type == 0x2 || 0xA ≤ type.toNat
def atomIllegal (s : State) (g : Group) (type : BitVec 4) : Bool := s.inTask g || (s.det g && atomOrdered type)

/-- An atomic in ascending lane order (13 R284, R290): the old values go to the registers at vd, zeros under DET (19 R378). -/
def atomBody (h : LaneCtl) (d c : BitVec 8) (m : MemOp) (check : State → Group → Nat → Except Nat Place) (s : State) (g : Group) (on : W32) : LaneRes :=
  match memWord s g m true check (laneData g s.free c (atomDataRegs m.type)) on with
  | .error f => .trap s g f
  | .ok w =>
    let j := s.scStart g m.ord m.scope
    let x := j.1.memLanes g w
    .done (x.1.scEnd x.2.1 m.ord m.scope)
      (({ x.2.1 with mid := none }.owe h.setc (acqScope m.ord m.scope) (x.2.2.gain.join j.2) []).deferErr h.setc x.2.2.errs)
      ((List.range (atomOutRegs m.type)).map fun i => regEff g (vname (d.toNat + i)) on (s.atomOut g x.2.2.got i)) true

/-- ATOM (13 R289-R290, 19 R378). -/
def execAtom (h : LaneCtl) (d c : BitVec 8) (m : MemOp) (s : State) : Out :=
  memIssue s h true m.ord (fun g => atomIllegal s g m.type) (vgroup d.toNat (atomOutRegs m.type)) (memRegs m ++ vgroup c.toNat (atomDataRegs m.type))
    (atomBody h d c m fun s g => checkGlob s g needAtomic (atomSize m.type))
/-- ATOMS (13 R289-R290, 19 R378). -/
def execAtoms (h : LaneCtl) (d c : BitVec 8) (m : MemOp) (s : State) : Out :=
  memIssue s h true m.ord (fun g => atomIllegal s g m.type) (vgroup d.toNat (atomOutRegs m.type)) (memRegs m ++ vgroup c.toNat (atomDataRegs m.type))
    (atomBody h d c m fun s g => checkSpad s g (atomSize m.type))

/-- A load, a store or an atomic whose lanes may be performed one by one, or later than its issue: its control, operation, registers and the check of a lane. -/
structure SplitWord where
  h      : LaneCtl
  m      : MemOp
  load   : Bool
  atom   : Bool
  glob   : Bool
  d      : BitVec 8
  writes : List RName
  reads  : List RName
  data   : Nat → List W32
  check  : State → Group → Nat → Except Nat Place
/-- The check of a lane of such a word. -/
def splitCheck (glob : Bool) (need align : Nat) (s : State) (g : Group) (ea : Nat) : Except Nat Place := if glob then checkGlob s g need align ea else checkSpad s g align ea
def splitStore (g : Group) (free : Nat) (glob : Bool) (h : LaneCtl) (c : BitVec 8) (m : MemOp) : SplitWord :=
  { h := h, m := m, load := false, atom := false, glob := glob, d := 0, writes := [], reads := memRegs m ++ vgroup c.toNat (typeRegs m.type),
    data := laneData g free c (typeRegs m.type), check := splitCheck glob needWrite (typeSize m.type) }
def splitAtom (g : Group) (free : Nat) (glob : Bool) (h : LaneCtl) (d c : BitVec 8) (m : MemOp) : SplitWord :=
  { h := h, m := m, load := false, atom := true, glob := glob, d := d, writes := vgroup d.toNat (atomOutRegs m.type),
    reads := memRegs m ++ vgroup c.toNat (atomDataRegs m.type), data := laneData g free c (atomDataRegs m.type), check := splitCheck glob needAtomic (atomSize m.type) }
def splitWord (g : Group) (free : Nat) : Instr → Option SplitWord
  | .st h c m => some (splitStore g free true h c m)
  | .sts h c m => some (splitStore g free false h c m)
  | .atom h d c m => some (splitAtom g free true h d c m)
  | .atoms h d c m => some (splitAtom g free false h d c m)
  | .ld h d m => some { h := h, m := m, load := true, atom := false, glob := true, d := d, writes := vgroup d.toNat (typeRegs m.type), reads := memRegs m,
                        data := fun _ => [], check := splitCheck true needRead (typeSize m.type) }
  | _ => none

/-- The next word of a group, one of those, with the accesses of its lanes: it is eligible, raises nothing, rebuilds nothing, and is neither a word of a task nor of the
order S (notes/assumptions/5). -/
def State.splitReady (s : State) (g : Group) (i : Instr) : Option (SplitWord × Group × Mid) :=
  let aged := g.ageFlights
  match splitWord g s.free i with
  | none => none
  | some p =>
    let g' := aged p.h.dist
    let on := g'.active s.free p.h.pred
    if p.m.ord = 4 || s.inTask g || (p.atom && atomIllegal s g p.m.type) || !s.laneReady g p.h || g.acquiring
      || g.holdsRelease (memClass (p.load || p.atom) false p.m.ord)
      || (g.deferredIn p.h.wait).isSome || !(g'.toRekindle p.reads p.writes on).isEmpty || !(p.writes ++ p.reads).all g'.inAllot then none
    else match splitWord g' s.free i with
      | none => none
      | some p => match memWord s g' p.m p.atom p.check p.data on with
        | .ok w => some (p, g', w)
        | .error _ => none
/-- One lane of the word of which lanes have been performed, or of the next one, a store or an atomic, is performed; the last lane goes with the issue of the word. -/
def State.partLane (s : State) (g : Group) (next : Option Instr) : State :=
  let found : Option (Group × Mid) := match g.mid with
    | some w => some (g, w)
    | none => ((next.bind (s.splitReady g)).filter fun x => !x.1.load && g.late.isEmpty).map Prod.snd
  match found with
  | none => s
  | some (g, w) => match w.accs.drop w.done with
    | a :: _ :: _ => let x := s.memLane g w a; x.1.draw.setGroup { x.2.1 with mid := some x.2.2 }
    | _ => s

/-- Whether a word of the group may pass its words whose accesses are still to be performed: it is relaxed and meets them in no byte (13 R284, R287). -/
def Group.passes (g : Group) (p : SplitWord) (w : Mid) : Bool :=
  p.m.ord == 0 && g.late.all fun x => w.apart x.word (if p.atom then atomSize p.m.type else typeSize p.m.type) x.word.size
/-- The next word of a group issued with its accesses left to be performed later: a relaxed one of global memory, with a counter and an active lane. -/
def State.issueLate (s : State) (g : Group) (i : Instr) : State :=
  match (s.splitReady g i).filter fun x => x.1.glob && x.1.h.setc.toNat < 12 && g.mid.isNone && g.passes x.1 x.2.2 && x.2.2.on != 0 with
  | none => s
  | some (p, g', w) =>
    let late : Late := { id := g'.nextId, ctr := p.h.setc, load := p.load, d := p.d, run := g'.runq.head?, word := w }
    let effs := p.writes.map fun r => regEff g' r 0 zeroVec
    s.draw.setGroup { (g'.dropRecipes p.writes).issued s.fclk p.h (memClass (p.load || p.atom) false 0) 0 false effs with late := g'.late ++ [late] }
/-- The rest of such a word, when its grid ends (26 R448): what has been issued is performed. -/
def State.endMid (s : State) (g : Group) : State × Group :=
  match g.mid with
  | none => (s, g)
  | some w => let x := s.memLanes g w; (x.1, { x.2.1 with mid := none })
/-- Whether a word of another group of the workgroup, some of whose lanes have been performed, accesses the workgroup's scratchpad: those of the core's groups are
performed in the order of their issue (13 R279). -/
def State.spadBusy (s : State) (g : Group) : Bool :=
  s.groups.any fun x => x.slot != g.slot && x.gid == g.gid && x.lw == g.lw && x.mid.any fun w => w.accs.any fun a => match a.place with
    | .spad lw _ => lw == g.lw
    | .glob _ => false

/-- What an acquire fence makes known to each lane (17 R352, R357, R359): the messages of what the lane has read, of what the group has read as a whole and of what
the scalar stream had read at the run's LRUN; and what the lane has observed. The last part is what the fence has made known. -/
def State.acquireLane (s : State) (g : Group) (scope : Nat) (l : Nat) : State × View :=
  let mine := (g.acqv.filter fun x => x.1 == l || x.1 == everyLane).map Prod.snd ++ (match g.runq with
    | r :: _ => r.heard
    | [] => [])
  let v := gained (s.laneThread g l) scope mine View.fresh
  let a := s.laneAgent g l
  ({ s with order := (s.order.learn a v).observe a ((g.obsv.filter fun y => y.1 == l || y.1 == everyLane).map Prod.snd) }, v)
def State.acquireFence (s : State) (g : Group) (scope : Nat) (v : View) : State × Group × View :=
  let r := (List.range 32).foldl (fun (x : State × View) l => let y := x.1.acquireLane g scope l; (y.1, x.2.join y.2)) (s, v)
  (r.1, { g with obsv := [] }, r.2)

/-- What a release fence hands on with later stores of the lanes, and, once a WAITC has seen it complete, with later SSTs (17 R358). -/
def State.releaseFence (s : State) (g : Group) (scope : Nat) : Fence :=
  { scope := scope, view := ((s.order.view (s.lanesAgent g)).join g.runView).withAll (s.lanesAgent g) s.order.stamp,
    priv := (List.range 32).filterMap fun l => let v := s.order.view (s.laneAgent g l); if v.isFresh then none else some (l, v) }
def State.scalarRelease (s : State) (g : Group) (scope : Nat) : Msg :=
  { src := s.scalarThread g, scope := scope, view := (s.lanesView g).withAll (s.lanesAgent g) s.order.stamp }

/-- What a FENCE takes and hands on (17 R358, R359, R357, R362). -/
def State.fenceAt (s : State) (g : Group) (ctr : BitVec 4) (ord : BitVec 3) (scope : BitVec 4) : State × Group :=
  let j := s.scStart g ord scope
  let a := match acqScope ord scope with
    | none => (j.1, g, j.2)
    | some sc => j.1.acquireFence g sc j.2
  let g' := if ordReleases ord then
      { a.2.1 with relv := a.1.releaseFence g scope.toNat :: a.2.1.relv.filter fun f => f.scope != scope.toNat }.owe ctr (acqScope ord scope) a.2.2 [a.1.scalarRelease g scope.toNat]
    else a.2.1.owe ctr (acqScope ord scope) a.2.2 []
  (a.1.scEnd g ord scope, g')

/-- FENCE (13 R292): it makes no access. It completes after the earlier words that it orders, and one that acquires holds later memory words. -/
def execFence (h : LaneCtl) (ord : BitVec 3) (scope : BitVec 4) (s : State) : Out :=
  onGroup s fun g =>
    if s.inTask g then s.trapLane g illegal
    else laneIssue s h true (memClass false true ord) 0 [] [] fun s g _ =>
      let r := s.fenceAt g h.setc ord scope
      .done r.1 r.2 [] true

/-- PREF (13 R293): no architectural effect. -/
def execPref (h : LaneCtl) (m : MemOp) (s : State) : Out := laneIssue s h false (memClass false false 0) 0 [] (memRegs m) fun s g _ => .done s g [] true

/-- LDK outside a slice raises ILLEGAL (12 R259). -/
def execLdk (_h : LaneCtl) (_d : BitVec 8) (_m : MemOp) (s : State) : Out := onGroup s fun g => s.trapLane g illegal

end Sys2Proof.Machine
end

