-- ==== Sys2Proof/Machine/Matrix.lean ====
section
/-!
DEFINITION. The matrix words MMQ, MDRAIN, MZERO and MWAIT (15 R327-R328, R333, R337, R343-R345) and the passes of an engine (R340).
-/
namespace Sys2Proof.Machine

/-- The first register of a list that lies outside, as the fault of step 1, 3 or 4 of 15 R328. -/
def outside (g : Group) (rs : List RName) : Option Flt :=
  (rs.find? fun r => !g.inAllot r).map fun r => { code := causeAccess, addr := r.designation }

/-- Sixteen-bit entries of a codebook of 32 bytes (09 R178). -/
def bookOf (bs : List Byte) : List W16 := (List.range 16).map fun i => BitVec.ofNat 16 (leNat ((bs.drop (2 * i)).take 2))

/-- Step 2 of 15 R328: the block with what was read, or its fault and what was read. A block behind a link that is down is deferred (20 R399). -/
def readBlock (s : State) (g : Group) (addr : Nat) : Except (Flt × Option Got) (Block × Got) :=
  match checkPhys s g needRead 32 addr with
  | .error c => .error ({ code := c, addr := addr }, none)
  | .ok p =>
    let x := s.readLocs (s.taskOf g) (s.lanesReader g scopeDevice) 0 (globLocs p 32)
    let got : Got := { bytes := x.1, phys := [p], seen := x.2, err := errIn s (s.taskOf g) p 32 }
    if got.err = 1 then .error (eccFlt addr 1, some got)
    else
      let b := blockOf x.1
      if blockReserved x.1 || blockBad b || (match g.latch with
        | some l => fmtFloat l.afmt != fmtFloat b.bfmt
        | none => false) then .error ({ code := causeAccess, addr := addr }, some got)
      else .ok (b, got)

/-- Step 5 of 15 R328: the B tile's workgroup and offset. -/
def checkB (s : State) (g : Group) (bytes eb : Nat) : Except Nat (Nat × Nat) :=
  match checkSpad s g 1 eb with
  | .error c => .error c
  | .ok (.glob _) => .error causeAccess
  | .ok (.spad lw off) =>
    if (s.desc g.gid).spwg * 4096 < off + bytes then .error causeAccess
    else if eb % 128 ≠ 0 then .error causeAlign
    else .ok (lw, off)

def Got.none : Got := { bytes := [], phys := [], seen := Seen.none, err := 0 }
/-- Step 6 of 15 R328: the ranges of 32 bytes read at issue, or the fault of the lowest failing address with what has been read. -/
def readRanges (s : State) (g : Group) (as : List Nat) : Except (Flt × List Got) (List Got) :=
  let rs : List (Nat × Except Flt Got) := as.map fun a => (a, if a = 0 then .ok Got.none else
    readRange s (s.ctxOfGrid g.gid) (s.taskOf g) (s.lanesReader g scopeDevice) (2 ^ 12) a 32)
  let bad := rs.filterMap fun r => match r.2 with
    | .error f => some f
    | .ok x => if x.err = 1 then some (eccFlt r.1 1) else none
  let got := rs.filterMap fun r => r.2.toOption
  match bad.find? fun f => bad.all fun x => f.addr ≤ x.addr with
  | some f => .error (f, got)
  | none => .ok got
/-- The reads of an MMQ at its issue recorded (19 R385, 17 R355). -/
def State.mmqReads (s : State) (g : Group) (ctr : BitVec 4) (xs : List Got) : State × Group :=
  (s.noteReads g (xs.flatMap fun x => if x.phys.length = 1 then x.phys.map fun p => (p, 32) else x.phys.map fun p => (p, 1))).groupSaw g ctr
    (xs.foldl (fun (a : Seen) x => a.append x.seen) Seen.none)
/-- The first of the ranges of an MMQ that lies behind a link that is down: its address and DETAIL, as a deferred error has them (20 R399). -/
def downOf (xs : List (Nat × Got)) : Option Nat := (xs.find? fun x => x.2.err = 2).map Prod.fst
def deferDown (g : Group) (h : LaneCtl) (a : Option Nat) : Group := g.deferErr h.setc (a.toList.map fun a => (a, 2))

/-- The fields that a record keeps equal the block's (15 R328 step 7). -/
def Tile.keeps (t : Tile) (afmt : Nat) (b : Block) : Bool :=
  t.afmt == afmt && t.bfmt == b.bfmt && t.aklen == b.aklen && t.bklen == b.bklen && t.depth == b.depth && t.full == b.full
/-- Whether a new record fits: at most the fourth, overlapping none. -/
def tileFits (ts : List Tile) (d : BitVec 8) (scaled : Bool) : Bool :=
  ts.length < 4 && ts.all fun t => !overlaps d.toNat (tileSpan scaled) t.d.toNat (tileSpan t.scaled)

/-- Whether a queue that has been passed over 16 times goes before another (15 R337): the one passed over more often, then the lower slot. -/
def Group.before (x g : Group) : Bool := 16 < x.passed && (g.passed < x.passed || (g.passed == x.passed && x.slot < g.slot))
/-- Admission (15 R337): the reservations and D fit, and no other queue that has been passed over 16 times goes first. -/
def State.admits (s : State) (g : Group) (resv : Nat) : Bool :=
  resv == 0 || (s.reserved g.cluster + resv ≤ 4096 && s.groups.all fun x => x.cluster != g.cluster || x.slot == g.slot || !x.before g)

/-- The accumulators that step 4 of 15 R328 names. -/
def tileNames (d : BitVec 8) (scaled : Bool) : List RName :=
  ((List.range 32).map fun i => aname (d.toNat + i)) ++ if scaled then [aname (d.toNat + 33)] else []
/-- The own stores of a group that no wait of a lane word has covered (15 R334). -/
def Group.unawaited (g : Group) : List Nat := (g.slack.filter fun x => !x.waited).flatMap Slack.stores

/-- The checks of MMQ in order, its admission, and its place in the queue (15 R328). Under TRAP the pass runs before the word issues (R339). -/
def mmqBody (h : LaneCtl) (reuse : Bool) (d a sb sc : BitVec 8) (s : State) (g : Group) (on : W32) : LaneRes :=
  let held := g.latch
  let baddr := (g.sreg s.free sc).toNat
  let eb := (g.sreg s.free sb).toNat
  match if held.isSome then none else outside g [vname a.toNat] with
  | some f => .trap s g f
  | none =>
  match readBlock s g baddr with
  | .error (f, x) => let r := s.mmqReads g h.setc x.toList; .trap r.1 r.2 f
  | .ok (b, bx) =>
  let fail (xs : List Got) (f : Flt) : LaneRes := let r := s.mmqReads g h.setc xs; .trap r.1 r.2 f
  let afmt := (held.map Latch.afmt).getD b.afmt
  let scaled := b.scaled
  match (if held.isSome then none else outside g (vgroup a.toNat (fmtNA afmt))).orElse fun _ => outside g (tileNames d scaled) with
  | some f => fail [bx] f
  | none =>
  match checkB s g (fmtBytes b.bfmt) eb with
  | .error c => fail [bx] { code := c, addr := eb }
  | .ok (blw, boff) =>
  let addrs := [b.ascale, b.bscale, if held.isSome then 0 else b.atab, b.btab]
  match readRanges s g addrs with
  | .error (f, rs) => fail (bx :: rs) f
  | .ok rs =>
  let range (i : Nat) : List Byte := (rs.getD i Got.none).bytes
  let ts := predictTiles g
  let rec_ := ts.find? fun t => t.d == d
  if !(match rec_ with
    | some t => t.keeps afmt b
    | none => tileFits ts d scaled) then fail (bx :: rs) { code := causeAccess, addr := designation 1 d.toNat }
  else
  let opens := (rec_.map Tile.kw).getD 0 == 0
  let resv := if fmtFloat afmt || !opens then 0 else 2 ^ (b.depth + 5)
  if !s.admits g resv then .wait s fun g => { g with passed := max g.passed 1 }
  else
  let regs := match held with
    | some l => l.regs
    | none => (vgroup a.toNat (fmtNA afmt)).map (g.readReg s.free)
  let cb := match held with
    | some l => l.cb
    | none => if afmt = 5 then bookOf (range 2) else []
  let m : Mmq := { d := d, act := on, blk := b, afmt := afmt, a := regs, acb := cb, bcb := if b.bfmt = 5 then bookOf (range 3) else [],
                   asc := if b.ascale = 0 then none else some (range 0), bsc := if b.bscale = 0 then none else some (range 1),
                   blw := blw, boff := boff, eb := BitVec.ofNat 64 eb, blkAddr := baddr, resv := resv,
                   view := (s.lanesView g).withAll (s.lanesAgent g) s.order.stamp, holes := (g.laneWaited (g.awaits h)).unawaited,
                   stamp := s.order.stamp }
  let latch := if reuse then some { afmt := afmt, regs := regs, cb := cb } else none
  let r := s.mmqReads g h.setc (bx :: rs)
  let down := downOf ((baddr, bx) :: addrs.zip rs)
  let g1 := deferDown { r.2 with passed := 0 } h down
  if b.full then .wait r.1 fun g => { g with passed := 0, acqv := g1.acqv, obsv := g1.obsv, slack := g1.slack, trial := if g.mq.isEmpty then some { m := m, latch := latch, down := down, res := none } else none }
  else .done r.1 { g1 with latch := latch, mq := g1.mq ++ [(g1.nextId, .mmq m)] } [] false

/-- An MMQ under TRAP whose pass has been tried (15 R339): it issues with the latch that it leaves, or raises CARRY_FULL. What it could not read behind a link that
was down is a deferred error of its counter (20 R399). -/
def trialDone (s : State) (g : Group) (h : LaneCtl) (t : Trial) : Out :=
  match t.res with
  | none => .next s
  | some false => s.trapLane { g with trial := none } { code := 6, addr := t.m.eb.toNat }
  | some true =>
    .next (s.draw.setGroup (((deferDown { g with latch := t.latch, trial := none } h t.down).ageFlights h.dist).issued s.fclk h .other 0 true []))

/-- The A registers that an MMQ reads; how many there are is known from the block. -/
def mmqRegs (s : State) (g : Group) (a sc : BitVec 8) : List RName :=
  let na := match g.latch, readBlock s g (g.sreg s.free sc).toNat with
    | some _, _ => 0
    | none, .ok (b, _) => fmtNA b.afmt
    | none, .error _ => 1
  (vgroup a.toNat na).filter g.inAllot

/-- The line of an MMQ's format block, which names the registers that are rekindled for it, enters a task's read signature (19 R385). -/
def State.noteBlock (s : State) (g : Group) (sc : BitVec 8) : State :=
  match readBlock s g (g.sreg s.free sc).toNat with
  | .ok (_, x) | .error (_, some x) => s.noteReads g (x.phys.map fun p => (p, 32))
  | .error (_, none) => s
/-- MMQ (15 R327). EMBER registers of A are rekindled first. -/
def execMmq (h : LaneCtl) (reuse : Bool) (d a sb sc : BitVec 8) (s : State) : Out :=
  onGroup s fun g =>
    match g.trial with
    | some t => trialDone s g h t
    | none =>
      let aged := g.ageFlights h.dist
      let rebuilds : Bool := s.laneReady g h && (g.deferredIn h.wait).isNone && !(aged.toRekindle (mmqRegs s g a sc) [] (aged.active s.free h.pred)).isEmpty
      if 8 ≤ g.mq.length then .next s else laneIssue (if rebuilds then s.noteBlock g sc else s) h false .mmq 0 [] (mmqRegs s g a sc) (mmqBody h reuse d a sb sc)

/-- A matrix word that joins the queue after its register check (12 R244, 15 R343-R345). -/
def queueWord (s : State) (h : LaneCtl) (regs : List RName) (w : MWord) : Out :=
  onGroup s fun g =>
    if 8 ≤ g.mq.length then .next s
    else laneIssue s h true .other 0 regs [] fun s g _ => .done s { g with mq := g.mq ++ [(g.nextId, w)] } [] false
def tileRegs (d : BitVec 8) : List RName := (List.range 32).map fun i => aname (d.toNat + i)

def execMdrain (h : LaneCtl) (d sk : BitVec 8) (s : State) : Out := queueWord s h (tileRegs d) (.mdrain d sk)
def execMzero (h : LaneCtl) (d : BitVec 8) (s : State) : Out := queueWord s h (tileRegs d) (.mzero d)
def execMwait (h : LaneCtl) (s : State) : Out := queueWord s h [] .mwait

/-- MATRIX_PASS (15 R340): one pass of a cluster's engine. -/
def execMatrixPass (cluster : Nat) (s : State) : Out := .next (s.matrixPass cluster)

end Sys2Proof.Machine
end

