-- ==== Sys2Proof/Machine/Embers.lean ====
section
/-!
DEFINITION. KDEF, DOUSE and what becomes of recipes (12 R252-R268): demotion, rekindling; and the completion of issued lane words (07 R138-R140).
-/
namespace Sys2Proof.Machine

/-- The inputs that a KDEF names: VIN and the register numbers (12 R255). -/
def kdefVin (a b c : Option (BitVec 8)) : BitVec 3 :=
  BitVec.ofNat 3 (a.isSome.toNat + 2 * b.isSome.toNat + 4 * c.isSome.toNat)
def kdefInputs (a b c : Option (BitVec 8)) : List (BitVec 8) := a.toList ++ b.toList ++ c.toList

/-- The words of the slice of a KDEF and its slots; none where the KDEF is ILLEGAL (12 R255). -/
def kdefSlice (s : State) (g : Group) (d : BitVec 8) (a b c : Option (BitVec 8)) (len : BitVec 4) (slice : BitVec 19) :
    Option (List (Except Flt SliceWord) × List (BitVec 8 × Nat × Bool)) :=
  let ws := sliceItems (kdefVin a b c) g.tpart (sliceFetch s g g.inh slice.toNat len.toNat)
  let ls := sliceSlots (sliceOk ws)
  if sliceIllegal ws || 4 < slotCount ls || (kdefInputs a b c).contains d then none else some (ws, ls)

/-- The recipe record of a KDEF (12 R256, R258). -/
def kdefRecipe (g : Group) (d : BitVec 8) (a b c : Option (BitVec 8)) (len : BitVec 4) (slice : BitVec 19) (on : W32)
    (ls : List (BitVec 8 × Nat × Bool)) (slots : BitVec 128) : Recipe :=
  { dst := d, slice := slice, len := len, vin := kdefVin a b c, ina := a.getD 0, inb := b.getD 0, inc := c.getD 0, nslot := BitVec.ofNat 3 (slotCount ls),
    full := on == 0xFFFFFFFF, obj := g.inh, tsz := g.tpart, slots := slots, lay := ls }

/-- KDEF at its issue (12 R256, R257): the slice runs in the active lanes, vd takes v3, and a recipe is kept while fewer than 64 are live. -/
def kdefBody (h : LaneCtl) (d : BitVec 8) (a b c : Option (BitVec 8)) (len : BitVec 4) (slice : BitVec 19) (s : State) (g : Group) (on : W32) : LaneRes :=
  match kdefSlice s g d a b c len slice with
  | none => .trap s g illegal
  | some (ws, ls) =>
    let slots := packSlots ls (g.sreg s.free)
    let e : SliceEnv := { on := on, scalar := slotValue ls slots, task := s.taskOf g, salt := 0, strict := false }
    let input (x : Option (BitVec 8)) : LaneVec := match x with
      | some k => g.readReg s.free (vname k.toNat)
      | none => zeroVec
    match runSlice s g e d slice.toNat ws [input a, input b, input c] with
    | .error (f, r) => let x := s.sliceReads g h.setc r; .trap x.1 x.2 f
    | .ok r =>
      let g := g.deferErr h.setc r.bad
      let g := if g.recipes.length < 64 then { g with recipes := g.recipes ++ [kdefRecipe g d a b c len slice on ls slots] } else g
      let x := s.sliceReads g h.setc r
      .done x.1 x.2 [regEff g (vname d.toNat) on (r.reg 3)] true

/-- KDEF (12 R255-R257). Its ILLEGAL awaits nothing (06 R125), does not depend on the active lanes and comes before every later cause (22 R420). -/
def execKdef (h : LaneCtl) (d : BitVec 8) (a b c : Option (BitVec 8)) (len : BitVec 4) (slice : BitVec 19) (s : State) : Out :=
  onGroup s fun g =>
    if (kdefSlice s g d a b c len slice).isNone then s.trapLane g illegal
    else laneIssue s h false .kdef 0 [vname d.toNat] ((kdefInputs a b c).map fun k => vname k.toNat) (kdefBody h d a b c len slice)

/-- DOUSE (12 R265): vd is rekindled as an operand if it is EMBER, then its recipe is dropped. -/
def execDouse (h : LaneCtl) (d : BitVec 8) (s : State) : Out :=
  laneIssue s h false .inOrder 0 [] [vname d.toNat] fun s g _ => .done s { g with recipes := g.recipes.filter fun r => r.dst != d } [] true

/-- Whether the partition may demote a register (12 R261). -/
def Group.mayDemote (g : Group) (d : BitVec 8) : Bool :=
  (g.regs[d.toNat]?.map Reg.st) == some .value && (g.recipe? d.toNat).any Recipe.full && !g.held d.toNat
    && !g.pending.any fun e => match e with
      | .reg p _ _ => p == d.toNat
      | _ => false
/-- A register made EMBER: its value is gone, and its recipe stays. -/
def Group.demote (g : Group) (k : Nat) : Group := { g with regs := listMod g.regs k fun _ => { st := .ember, val := zeroVec } }

/-- What a lane word asks of the registers before it issues: its control, whether it acts on EXM, whether it is a memory word, the registers it writes and
reads in field order. -/
structure Ports where
  h      : LaneCtl
  whole  : Bool
  mem    : Bool
  writes : List RName
  reads  : List RName

/-- The ports of a lane word; none of a word that has no vector register. -/
def lanePorts (s : State) (g : Group) (i : Instr) : Option Ports :=
  let alu (h : LaneCtl) (w r : List RName) : Option Ports := some { h := h, whole := false, mem := false, writes := w, reads := r }
  let mem (h : LaneCtl) (w r : List RName) : Option Ports := some { h := h, whole := false, mem := true, writes := w, reads := r }
  match sliceForm g.tpart i with
  | some f => alu f.ctl [regName f.d] ((f.a.toList.map regName) ++ (match f.b with
      | some b => opndRegs b
      | none => []) ++ f.c.toList.map regName)
  | none => match i with
    | .icmp h _ a b _ | .fcmp h _ a b _ => alu h [] (regName a :: opndRegs b)
    | .isel h d a b _ _ | .shfl h d a b _ => alu h [regName d] (regName a :: opndRegs b)
    | .cvtef h d a _ | .scan h d a _ _ _ | .red h d a _ _ => alu h [regName d] [regName a]
    | .cbdec h d a b _ | .cbenc h d a b _ => alu h [regName d] (regName a :: bookRegs b)
    | .vote h _ a _ | .vtos h _ a _ _ _ => alu h [] [regName a]
    | .stov h d _ _ | .wsr h d _ => alu h [regName d] []
    | .wsw h _ a => some { h := h, whole := true, mem := false, writes := [], reads := [regName a] }
    | .dualWord h x y => alu h (halfWrites x ++ halfWrites y) ((x.readsX ++ y.readsY).map vname)
    | .kdef h d a b c _ _ => alu h [vname d.toNat] ((kdefInputs a b c).map fun k => vname k.toNat)
    | .douse h d => alu h [] [vname d.toNat]
    | .ld h d m | .lds h d m => mem h (vgroup d.toNat (typeRegs m.type)) (memRegs m)
    | .st h c m | .sts h c m => mem h [] (memRegs m ++ vgroup c.toNat (typeRegs m.type))
    | .ldt h d m => mem h (vgroup d.toNat (if m.type = 1 then 16 else 8)) (memRegs m)
    | .atom h d c m | .atoms h d c m => mem h (vgroup d.toNat (atomOutRegs m.type)) (memRegs m ++ vgroup c.toNat (atomDataRegs m.type))
    | .pref h m => mem h [] (memRegs m)
    | .mmq h _ _ a _ sc => alu h [] (mmqRegs s g a sc)
    | _ => none

/-- Whether the group's next lane word, as its run buffer holds it, is a DOUSE of a register that the word before it in the run has read. -/
def State.dousesRead (s : State) (g : Group) (d : BitVec 8) : Bool :=
  match g.runq with
  | { buf := some w :: _, prev := some v, .. } :: _ =>
    (match decodeLane w with
      | some (.douse _ x) => x == d
      | _ => false)
    && (((decodeLane v).bind (lanePorts s g)).any fun p => p.reads.contains (vname d.toNat))
  | _ => false
/-- EMBER_DEMOTION (12 R261). A register that the last word of the run has read and that the next word douses is not demoted, so that the DOUSE keeps what was read, as
23 R441 requires (DEDUCED, notes/assumptions/62). -/
def execEmberDemotion (slot : Nat) (d : BitVec 8) (s : State) : Out :=
  withGroup s slot fun g => if g.mayDemote d && g.mid.isNone && !s.dousesRead g d then s.setGroup (g.demote d.toNat) else s

/-- Whether a lane word would raise ILLEGAL where it stands, for a cause that depends on the state (22 R420). -/
def laneIllegal (s : State) (g : Group) : Instr → Bool
  | .kdef _ d a b c len slice => (kdefSlice s g d a b c len slice).isNone
  | .ldk _ _ _ => true
  | .ld _ _ m | .st _ _ m | .lds _ _ m | .sts _ _ m => taskOrd s g m.ord
  | .atom _ _ _ m | .atoms _ _ _ m => atomIllegal s g m.type
  | .fence _ _ _ => s.inTask g
  | _ => false

/-- The next lane word of a group, where its stream may issue, no breakpoint names it and no lane of it has been performed. -/
def State.nextLane (s : State) (g : Group) : Option Instr :=
  match g.runq with
  | [] => none
  | r :: _ =>
    if s.laneFrozen g || (g.parked && !g.drained) || breaks s g true r.next || g.mid.isSome then none
    else match r.buf with
      | some w :: _ => decodeLane w
      | _ => match fetchLane s g (s.codeObj g) r.next with
        | .word w => decodeLane w
        | _ => none
/-- The register that the sequencer rebuilds next for the lane word that is eligible (12 R260, R262, R264) and not ILLEGAL where it stands (22 R420). -/
def State.nextRekindle (s : State) (g : Group) : Option Nat :=
  match ((s.nextLane g).filter fun i => !laneIllegal s g i).bind (lanePorts s g) with
  | none => none
  | some p =>
    if !s.laneReady g p.h || (p.mem && g.acquiring) || (g.deferredIn p.h.wait).isSome || g.trial.isSome || !g.late.isEmpty then none
    else
      let aged := g.ageFlights p.h.dist
      let on := if p.whole then aged.exm else aged.active s.free p.h.pred
      if on = 0 ∧ !p.whole then none else (aged.toRekindle p.reads p.writes on).head?

/-- What names the registers of the group's next lane word enters a task's read signature: the format block of an MMQ (19 R385). -/
def State.noteNext (s : State) (g : Group) : State :=
  match s.nextLane g with
  | some (.mmq _ _ _ _ _ sc) => s.noteBlock g sc
  | _ => s
/-- REKINDLE (12 R262): the sequencer rebuilds a register that the group's next lane word, which is eligible, needs first. A fault of the slice is the
consumer's REGEN (R266). -/
def execRekindle (slot : Nat) (d : BitVec 8) (s : State) : Out :=
  withGroup s slot fun g =>
    if s.nextRekindle g = some d.toNat then
      match (s.noteNext g).rekindle g d.toNat with
      | .ok (s', g') => s'.draw.setGroup g'
      | .error (s', g', f) => s'.trapAt g' true f false
    else s

/-- Whether an issued word may complete now: its unit is done with it, class I words complete in order on their counter (07 R140), releases and fences
after the earlier words that they order (13 R287, R292), and a WSW two FCLK after its issue (11 R239); none in the FCLK of its issue. A WSW behind an earlier class I
word of its counter completes after that word, also later than its second FCLK: R140 goes before R239 (DESIGN CHOICE, notes/assumptions/69). -/
def State.canComplete (s : State) (g : Group) (f : Flight) : Bool :=
  f.ready && !(f.id + 1 == g.nextId && g.last.any fun x => x.1 == s.fclk) && (f.cls != .inOrder || g.flights.all fun x => x.cls != .inOrder || x.ctr != f.ctr || f.id ≤ x.id)
    && (g.flights.all fun x => f.id ≤ x.id || !f.cls.after x.cls)
    && f.effs.all fun e => match e with
      | .ws t => t + 2 ≤ s.fclk
      | _ => true

/-- An issued word completes: its results are visible and its counter falls (07 R138). -/
def Group.complete (g : Group) (f : Flight) : Group :=
  let g' := g.applyEffs f.effs
  { g' with flights := g.flights.filter (fun x => x.id != f.id),
            ctrs := if h : f.ctr.toNat < 12 then g'.ctrs.set f.ctr.toNat (g'.ctrs[f.ctr.toNat] - 1) else g'.ctrs }

/-- The WSWs of a group that complete when their second FCLK comes (11 R239). -/
def State.completeWs (s : State) (g : Group) : Group :=
  g.flights.foldl (fun g f =>
    if s.canComplete g f && f.effs.any fun e => match e with
      | .ws _ => true
      | _ => false
    then g.complete f else g) g

/-- WORD_COMPLETION (07 R138, R140): the issued word `idx` of a slot. -/
def execWordCompletion (slot idx : Nat) (s : State) : Out :=
  withGroup s slot fun g => match g.flights.find? fun f => f.id == idx with
    | some f => if s.canComplete g f then s.setGroup (g.complete f) else s
    | none => s

end Sys2Proof.Machine
end

