-- ==== Sys2Proof/Machine/Record.lean ====
section
/-!
DEFINITION. The record of a saved workgroup as bytes (22 R431, 12 R258), and a record read back over a held one (26 R455). The layouts that the spec
does not give, of tile records, barrier counts and the order of what follows the groups, are DESIGN CHOICES (notes/assumptions/11).
-/
namespace Sys2Proof.Machine

/-- Byte `o` of a block of fields (offset, size, value); bytes of no field read 0. -/
def fieldByte (fs : List (Nat × Nat × Nat)) (o : Nat) : Byte :=
  match fs.find? fun f => f.1 ≤ o && o < f.1 + f.2.1 with
  | some f => BitVec.ofNat 8 (f.2.2 / 2 ^ (8 * (o - f.1)))
  | none => 0

/-- Bytes of a tile record: the spec gives no layout (notes/assumptions/11). -/
abbrev tileRecordSize : Nat := 4224
/-- Bytes of a group's record (22 R431). -/
def groupRecordSize (smap : BitVec 256) (g : Group) : Nat :=
  320 + 8 * popCount smap + 128 * (g.regs.countP fun r => r.st == .value) + 32 * g.recipes.length + tileRecordSize * g.tiles.length
    + 128 * ((g.latch.map fun l => l.regs.length).getD 0)
/-- SIZE of a workgroup record: groups, ws0-ws15, barrier counts, scratchpad ranges, cards. -/
def SavedWg.size (r : SavedWg) : Nat :=
  ((r.smaps.zip r.groups).map fun x => groupRecordSize x.1 x.2).sum + 64 + 8 + (r.ranges.map fun x => x.2 - x.1).sum + 64 * r.jobs.length

/-- A recipe record (12 R258). -/
def recipeNat (r : Recipe) : Nat :=
  r.dst.toNat * 2 ^ 248 + r.slice.toNat * 2 ^ 229 + r.len.toNat * 2 ^ 225 + r.vin.toNat * 2 ^ 222 + r.ina.toNat * 2 ^ 214 + r.inb.toNat * 2 ^ 206
    + r.inc.toNat * 2 ^ 198 + r.nslot.toNat * 2 ^ 195 + r.full.toNat * 2 ^ 194 + r.obj.toNat * 2 ^ 131 + r.tsz.toNat * 2 ^ 128 + r.slots.toNat
def recipeOf (x : Nat) : Option Recipe :=
  if bits x 193 132 ≠ 0 then none
  else some { dst := BitVec.ofNat 8 (x / 2 ^ 248), slice := BitVec.ofNat 19 (x / 2 ^ 229), len := BitVec.ofNat 4 (x / 2 ^ 225),
              vin := BitVec.ofNat 3 (x / 2 ^ 222), ina := BitVec.ofNat 8 (x / 2 ^ 214), inb := BitVec.ofNat 8 (x / 2 ^ 206),
              inc := BitVec.ofNat 8 (x / 2 ^ 198), nslot := BitVec.ofNat 3 (x / 2 ^ 195), full := x / 2 ^ 194 % 2 == 1, obj := x / 2 ^ 131 % 2 == 1,
              tsz := BitVec.ofNat 3 (x / 2 ^ 128), slots := BitVec.ofNat 128 x, lay := [] }
/-- A recipe read back keeps the places of its slots where the record that it replaces has one of the same slice (12 R254). -/
def Recipe.keepLay (old new : Recipe) : Recipe :=
  if old.dst == new.dst && old.slice == new.slice && old.len == new.len && old.obj == new.obj && old.nslot == new.nslot then { new with lay := old.lay } else new

/-- A register, lane 0 first. -/
def laneBytes (v : LaneVec) : List Byte := v.toList.flatMap fun x => leBytes 4 x.toNat
def laneVecOf (bs : List Byte) : LaneVec := Vector.ofFn fun l => BitVec.ofNat 32 (leNat ((bs.drop (4 * l.val)).take 4))

/-- A tile record in the model's layout. -/
def tileBytes (t : Tile) : List Byte :=
  leBytes 1 t.d.toNat ++ leBytes 1 t.afmt ++ leBytes 1 t.bfmt ++ leBytes 1 (t.full.toNat + 2 * t.asc.isSome.toNat + 4 * t.bsc.isSome.toNat)
    ++ leBytes 4 t.aklen ++ leBytes 4 t.bklen ++ leBytes 4 t.depth ++ leBytes 4 t.kw ++ leBytes 4 t.rows.toNat ++ leBytes 8 t.ccount
    ++ List.replicate 32 0 ++ t.cells.toList.flatMap laneBytes
    ++ (List.range 32).map (fun i => (t.asc.getD []).getD i 0) ++ (List.range 32).map fun i => (t.bsc.getD []).getD i 0
def tileOfBytes (bs : List Byte) : Tile :=
  let f (o n : Nat) := leNat ((bs.drop o).take n)
  { d := BitVec.ofNat 8 (f 0 1), afmt := f 1 1, bfmt := f 2 1, aklen := f 4 4, bklen := f 8 4, depth := f 0xC 4, full := f 3 1 % 2 == 1, kw := f 0x10 4,
    rows := BitVec.ofNat 32 (f 0x14 4), cells := Vector.ofFn fun n => laneVecOf ((bs.drop (0x40 + 128 * n.val)).take 128),
    asc := if f 3 1 / 2 % 2 = 1 then some ((bs.drop 0x1040).take 32) else none,
    bsc := if f 3 1 / 4 % 2 = 1 then some ((bs.drop 0x1060).take 32) else none, ccount := f 0x18 8, resv := 0, subs := [],
    folded := Vector.replicate 32 zeroVec }

/-- RUNQ: an entry per queued run, oldest first. -/
def runqNat (rs : List Run) : Nat := leNat ((rs.take 4).flatMap fun r => leBytes 4 (2 ^ 31 + (r.left - 1) % 64 * 2 ^ 19 + r.next % 2 ^ 19))
def runqOf (x : Nat) : List Run :=
  (List.range 4).filterMap fun i =>
    let e := x / 2 ^ (32 * i) % 2 ^ 32
    if 2 ^ 31 ≤ e then some { next := e % 2 ^ 19, buf := List.replicate (e / 2 ^ 19 % 64 + 1) none, prev := none, reads := [], view := View.fresh, heard := [], obs := [] } else none

/-- VMAP and AMAP: the registers that follow the header. -/
def mapOf (rs : List Reg) : Nat := (rs.zipIdx.map fun r => if r.1.st = .value then 2 ^ r.2 else 0).sum
def Group.vmap (g : Group) : Nat := mapOf (g.regs.take g.bound)
def Group.amap (g : Group) : Nat := mapOf (g.regs.drop g.bound)

/-- The header of a group's record (22 R431). `watch` of a saved group is the time that has counted. -/
def recordFields (g : Group) (smap : BitVec 256) (notab : Bool) : List (Nat × Nat × Nat) :=
  [(0, 4, g.spc.toNat), (8, 4, g.epc.toNat), (0xC, 4, g.elpc.toNat), (0x10, 8, g.cause.toNat), (0x18, 8, g.faddr.toNat), (0x20, 8, g.fspc.toNat),
   (0x28, 8, g.stepn.toNat), (0x30, 4, g.exm.toNat), (0x34, 1, g.tpart.toNat), (0x35, 1, g.regs.length / 8), (0x36, 2, g.bound),
   (0x38, 4, g.progto.toNat), (0x3C, 4, (g.progto.toNat - g.watch).toNat), (0x40, 16, runqNat g.runq), (0x50, 8, g.tseq.toNat), (0x58, 2, g.oclosed.toNat),
   (0x5A, 1, g.bars.toNat),
   (0x5B, 1, g.inh.toNat + 2 * g.double.toNat + 4 * g.latch.isSome.toNat + 8 * notab.toNat + 16 * g.skip.isSome.toNat + 32 * g.quota.toNat),
   (0x5C, 1, g.recipes.length), (0x5D, 1, g.tiles.length)]
    ++ (List.finRange 8).map (fun k => (0x60 + 8 * k.val, 8, (g.pins[k]).toNat))
    ++ (List.finRange 8).tail.map (fun k => (0xA0 + 4 * (k.val - 1), 4, (g.masks[k]).toNat))
    ++ (match g.aside with
      | some a => if g.inh then [(0xC0, 4, a.exm.toNat), (0xC4, 1, a.tpart.toNat), (0xC8, 16, runqNat a.runq)] else []
      | none => [])
    ++ [(0xE0, 32, smap.toNat), (0x100, 32, g.vmap), (0x120, 32, g.amap)]

/-- The record of a group (22 R431). -/
def groupRecord (g : Group) (smap : BitVec 256) (notab : Bool) : List Byte :=
  (List.range 320).map (fieldByte (recordFields g smap notab))
    ++ ((List.finRange 256).filter fun k => smap.getLsbD k.val).flatMap (fun k => leBytes 8 (g.sregs[k]).toNat)
    ++ (g.regs.filter fun r => r.st == .value).flatMap (fun r => laneBytes r.val)
    ++ g.recipes.flatMap (fun r => leBytes 32 (recipeNat r))
    ++ g.tiles.flatMap tileBytes
    ++ ((g.latch.map Latch.regs).getD []).flatMap laneBytes

/-- The barrier counts: groups that have arrived at BARW 0-3 and BARG 0-3 when the record is made. -/
def barCounts (gs : List Group) : List Byte := (List.range 8).map fun i => BitVec.ofNat 8 (gs.countP fun g => g.bars.getLsbD i)

/-- The record of a workgroup (22 R431). -/
def SavedWg.bytes (r : SavedWg) : List Byte :=
  (((r.groups.zip r.smaps).zip r.notabs).flatMap fun x => groupRecord x.1.1 x.1.2 x.2)
    ++ r.wg.ws.toList.flatMap (fun x => leBytes 4 x.toNat) ++ r.counts
    ++ r.ranges.flatMap (fun x => memRead r.wg.spad x.1 (x.2 - x.1)) ++ r.jobs.flatMap fun j => memRead r.wg.spad j.at_ 64

-- ### A record written back (26 R455)

/-- The registers under a map take the bytes that follow. -/
def putRegs : List Reg → List Byte → List Reg
  | [], _ => []
  | r :: rs, bs => if r.st = .value then { r with val := laneVecOf (bs.take 128) } :: putRegs rs (bs.drop 128) else r :: putRegs rs bs

/-- Bits of the queue entries of a record that are reserved (22 R431 RUNQ). -/
def runqBad (x : Nat) : Bool := (List.range 4).any fun i => bits x (32 * i + 30) (32 * i + 25) != 0
/-- Reserved bits of the fields of a group's record (22 R419, R431; 07 R141; 12 R266) that are not zero; ASIDE has fields with INH alone. -/
def reservedSet (bs : List Byte) : Bool :=
  let f (o n : Nat) := leNat ((bs.drop o).take n)
  f 4 4 != 0 || f 0x5E 2 != 0 || f 0xBC 4 != 0 || 64 ≤ f 0x5B 1 || 2 ^ 19 ≤ f 0xC 4 || f 0x14 4 != 0
    || bits (f 0x10 4) 30 25 != 0 || bits (f 0x10 4) 23 16 != 0 || bits (f 0x20 8) 63 40 != 0 || bits (f 0x20 8) 31 19 != 0
    || 8 ≤ f 0x34 1 || runqBad (f 0x40 16)
    || (f 0x5B 1 % 2 == 1 && (f 0xC5 3 != 0 || f 0xD8 8 != 0 || 8 ≤ f 0xC4 1 || runqBad (f 0xC8 16)))

/-- A group from its record: none where a field that must agree differs, or a reserved field is not zero. -/
def groupOfRecord (g : Group) (smap : BitVec 256) (notab : Bool) (bs : List Byte) : Option Group :=
  let f (o n : Nat) := leNat ((bs.drop o).take n)
  let flags := f 0x5B 1
  let ns := popCount smap
  let nv := g.regs.countP fun r => r.st == .value
  let o1 := 320 + 8 * ns
  let o2 := o1 + 128 * nv
  let o3 := o2 + 32 * g.recipes.length
  let o4 := o3 + tileRecordSize * g.tiles.length
  let recs := (List.range g.recipes.length).map fun i => recipeOf (f (o2 + 32 * i) 32)
  if !([(0x35, 3), (0x5C, 2), (0x60, 64), (0xE0, 96)].all fun x => (bs.drop x.1).take x.2 == ((groupRecord g smap notab).drop x.1).take x.2)
      || reservedSet bs || (flags / 4 % 2 == 1) != g.latch.isSome || recs.any Option.isNone then none
  else
    let cause : W64 := BitVec.ofNat 64 (f 0x10 8)
    let inh := BitVec.ofNat 64 (2 ^ 31)
    let slots := ((List.range 256).filter fun k => smap.getLsbD k).zipIdx
    some { g with
      spc := BitVec.ofNat 32 (f 0 4), epc := BitVec.ofNat 32 (f 8 4), elpc := BitVec.ofNat 19 (f 0xC 4),
      cause := if flags % 2 = 1 then cause ||| inh else cause &&& ~~~inh, faddr := BitVec.ofNat 64 (f 0x18 8), fspc := BitVec.ofNat 64 (f 0x20 8),
      stepn := BitVec.ofNat 64 (f 0x28 8), exm := BitVec.ofNat 32 (f 0x30 4), tpart := BitVec.ofNat 3 (f 0x34 1), progto := BitVec.ofNat 32 (f 0x38 4),
      watch := (f 0x38 4 : Int) - f 0x3C 4, runq := runqOf (f 0x40 16), tseq := BitVec.ofNat 48 (f 0x50 8), oclosed := BitVec.ofNat 16 (f 0x58 2),
      bars := BitVec.ofNat 8 (f 0x5A 1), double := flags / 2 % 2 == 1, quota := flags / 32 % 2 == 1,
      skip := if flags / 16 % 2 = 1 then g.skip.orElse (fun _ => some (cause.getLsbD 24, if cause.getLsbD 24 then f 0xC 4 % 2 ^ 19 else f 8 4)) else none,
      masks := Vector.ofFn fun k => if k.val = 0 then g.masks[k] else BitVec.ofNat 32 (f (0xA0 + 4 * (k.val - 1)) 4),
      aside := if flags % 2 = 1 then some { runq := runqOf (f 0xC8 16), exm := BitVec.ofNat 32 (f 0xC0 4), tpart := BitVec.ofNat 3 (f 0xC4 1) } else none,
      sregs := Vector.ofFn fun k => match slots.find? fun x => x.1 == k.val with
        | some x => BitVec.ofNat 64 (f (320 + 8 * x.2) 8)
        | none => g.sregs[k],
      regs := putRegs g.regs (bs.drop o1), recipes := (g.recipes.zip (recs.filterMap id)).map fun x => x.1.keepLay x.2,
      tiles := (List.range g.tiles.length).map fun i => tileOfBytes ((bs.drop (o3 + tileRecordSize * i)).take tileRecordSize),
      latch := g.latch.map fun l => { l with regs := (List.range l.regs.length).map fun i => laneVecOf ((bs.drop (o4 + 128 * i)).take 128) } }

def groupsOfRecord : List ((Group × BitVec 256) × Bool) → List Byte → Option (List Group × List Byte)
  | [], bs => some ([], bs)
  | x :: xs, bs =>
    match groupOfRecord x.1.1 x.1.2 x.2 bs, groupsOfRecord xs (bs.drop (groupRecordSize x.1.2 x.1.1)) with
    | some g, some (gs, rest) => some (g :: gs, rest)
    | _, _ => none

/-- The scratchpad ranges written from bytes. -/
def putRanges : Memory → List (Nat × Nat) → List Byte → Memory
  | m, [], _ => m
  | m, r :: rs, bs => putRanges (memWrite m r.1 (bs.take (r.2 - r.1))) rs (bs.drop (r.2 - r.1))

/-- NOTAB of the groups of a record's bytes (22 R431 FLAGS). -/
def notabsOf : List (Group × BitVec 256) → List Byte → List Bool
  | [], _ => []
  | x :: xs, bs => (bs.getD 0x5B 0).getLsbD 3 :: notabsOf xs (bs.drop (groupRecordSize x.2 x.1))
/-- The group whose trap has gone to the host gives the CODE of the directory (26 R453). -/
def hostCode (gs : List Group) : Nat := ((gs.find? Group.toHost).map fun g => g.cause.toNat % 256).getD 0

/-- A record written over a held one (26 R455), none for BADARG: the cards must agree. The directory fields follow what it says (R453). -/
def SavedWg.rewrite (r : SavedWg) (bs : List Byte) : Option SavedWg :=
  match groupsOfRecord ((r.groups.zip r.smaps).zip r.notabs) bs with
  | none => none
  | some (gs, rest) =>
    let body := (r.ranges.map fun x => x.2 - x.1).sum
    let spad := putRanges r.wg.spad r.ranges (rest.drop 72)
    if (rest.drop (72 + body)).take (64 * r.jobs.length) ≠ r.jobs.flatMap fun j => memRead r.wg.spad j.at_ 64 then none
    else if (r.jobs.flatMap fun j => memRead spad j.at_ 64) ≠ r.jobs.flatMap fun j => memRead r.wg.spad j.at_ 64 then none
    else some { r with groups := gs, notabs := notabsOf (r.groups.zip r.smaps) bs, counts := (rest.drop 64).take 8, quota := gs.any Group.quota,
                       double := gs.any Group.double, code := hostCode gs, wg := { r.wg with ws := Vector.ofFn (fun k => BitVec.ofNat 32 (leNat ((rest.drop (4 * k.val)).take 4))), spad := spad } }

end Sys2Proof.Machine
end

