-- ==== Sys2Proof/Machine/Preempt.lean ====
section
/-!
DEFINITION. Pre-emption (22 R427-R434): requests, the live set, saves (12 R268, 15 R346, 14 R316, 13 R301), the context store and the saved-workgroup
directory (26 R453), resumption (R433, 14 R317), cuts (R435).
-/
namespace Sys2Proof.Machine

-- ### The live set

/-- An entry of the liveness tables (22 R429). -/
structure LiveSet where
  vmap   : Nat
  amap   : Nat
  smap   : Nat
  mmap   : Nat
  ranges : List (Nat × Nat)
def liveSetOf (bs : List Byte) : LiveSet :=
  let f (o n : Nat) := leNat ((bs.drop o).take n)
  { vmap := f 0 32, amap := f 0x20 32, smap := f 0x40 32, mmap := f 0x60 1, ranges := [(f 0x68 4, f 0x6C 4), (f 0x70 4, f 0x74 4)] }
def LiveSet.union (a b : LiveSet) : LiveSet :=
  { vmap := a.vmap ||| b.vmap, amap := a.amap ||| b.amap, smap := a.smap ||| b.smap, mmap := a.mmap ||| b.mmap, ranges := a.ranges ++ b.ranges }

/-- Entry `i` of the tables of a group's kernel, none where they cannot be read. -/
def liveEntry (s : State) (g : Group) (i : Nat) : Option LiveSet :=
  let k := s.kobj g.gid
  (s.ctxRead (s.ctxOfGrid g.gid) (k.addr + k.livoff + 16 + 128 * i) 128).map liveSetOf

/-- Whether a group has stopped at a PHINT that holds it (08 R169): not one whose trap waits for the host, and not before its queued runs have ended. -/
def State.phintStop (s : State) (g : Group) : Option Nat := if g.toHost || !g.runq.isEmpty then none else s.atPhint g
/-- Whether a group's kernel has tables that the save of the group uses, and where. LIVLEN alone says whether there are tables, also where LIVOFF is 0
(DESIGN CHOICE, notes/assumptions/56). -/
def State.liveAt (s : State) (g : Group) : Option Nat :=
  let k := s.kobj g.gid
  if g.inh || k.livlen = 0 then none else some (k.addr + k.livoff)
/-- The entries of the tables that make up a group's live set (22 R430): the hint entry, or the scalar entry and a lane entry of each queued run; none with an index
past NS, NL or NH, and where there are no tables or their header cannot be read. -/
def liveEntries (s : State) (g : Group) : Option (List Nat) :=
  ((s.liveAt g).bind fun a => s.ctxRead (s.ctxOfGrid g.gid) a 16).bind fun hb =>
    let f (o : Nat) := leNat ((hb.drop o).take 4)
    match s.phintStop g with
    | some n => if n < f 8 then some [f 0 + f 4 + n] else none
    | none => if f 0 ≤ g.spc.toNat ∨ g.runq.any (fun r => f 4 ≤ r.next) then none else some (g.spc.toNat :: g.runq.map fun r => f 0 + r.next)
/-- The live set of a stopped group (22 R430), none when everything is live (NOTAB). The tables are read as memory stands at the save (DESIGN CHOICE,
notes/assumptions/56). -/
def liveSet (s : State) (g : Group) : Option LiveSet :=
  (liveEntries s g).bind fun is => (is.map (liveEntry s g)).foldl (fun acc x => match acc, x with
    | some a, some b => some (a.union b)
    | _, _ => none) (some { vmap := 0, amap := 0, smap := 0, mmap := 0, ranges := [] })
/-- An uncorrectable error in the tables that a save reads, which no group hears of (26 R452 code 10). -/
def State.liveEcc (s : State) (g : Group) : State :=
  match s.liveAt g with
  | none => s
  | some a =>
    let c := s.ctxOfGrid g.gid
    match liveEntries s g with
    | none => s.eccSeen c needRead a 16
    | some is => is.foldl (fun s i => s.eccSeen c needRead (a + 16 + 128 * i) 128) s

-- ### A group saved

/-- The open integer windows drained (15 R346 step 3). -/
def State.drainWindows (s : State) (g : Group) : State × Group :=
  g.tiles.foldl (fun p t => if fmtFloat t.afmt || t.kw == 0 then p else p.1.drain p.2 t) (s, g)

/-- Whether a live set, where there is one, holds what a test names; without one everything is live. -/
def liveIn (live : Option LiveSet) (f : LiveSet → Bool) : Bool :=
  match live with
  | some l => f l
  | none => true

/-- What a register is saved as (12 R268, 22 R430). -/
def saveReg (g : Group) (live : Option LiveSet) (p : Nat) (r : Reg) : Reg :=
  if p < g.bound then
    let rc := g.recipe? p
    if rc.any Recipe.full && !g.held p then { st := .ember, val := zeroVec }
    else if rc.isSome || g.held p || (liveIn live fun l => l.vmap.testBit p) then { st := .value, val := g.stored p }
    else Reg.fresh
  else if liveIn live (fun l => l.amap.testBit (p - g.bound)) then { st := .value, val := if r.st = .void then zeroVec else r.val }
  else Reg.fresh

/-- A free number of `n` bytes, from the free bytes at a place on. -/
def freeNat (place n : Nat) : Nat := leNat ((List.range n).map fun j => Config.freeByte (place + j))

/-- A stopped group's state as its record keeps it: recipes of dead destinations are dropped, dead registers are VOID (22 R430, 12 R268). What a dead
scalar register or mask resumes with is open: a free value from a place of the free bytes (notes/assumptions/7). -/
def saveGroup (place : Nat) (g : Group) (live : Option LiveSet) : Group :=
  let g := { g with recipes := g.recipes.filter fun r => liveIn live fun l => l.vmap.testBit r.dst.toNat }
  { g with
    regs := g.regs.zipIdx.map fun (x : Reg × Nat) => saveReg g live x.2 x.1,
    sregs := Vector.ofFn fun i => if liveIn live (fun l => l.smap.testBit i.val) then g.sregs[i] else if i.val = 0 then 0 else BitVec.ofNat 64 (freeNat (place + 8 * i.val) 8),
    masks := Vector.ofFn fun i => if liveIn live (fun l => l.mmap.testBit i.val) || i.val == 0 then g.masks[i] else BitVec.ofNat 32 (freeNat (place + 2048 + 4 * i.val) 4),
    growAsk := none, stepHeld := false }  -- `watch` of a record holds the time that has counted

/-- SMAP of a record: every scalar register when nothing says otherwise. -/
def smapOf (live : Option LiveSet) : BitVec 256 := BitVec.ofNat 256 (match live with
  | some l => l.smap
  | none => 2 ^ 256 - 2)

/-- The groups of a workgroup run to the end of what they issued, their windows drained, their queues empty (22 R428, 07 R144, 15 R346). -/
def State.settleGroups (s : State) (slots : List Nat) : State :=
  slots.foldl (fun s slot => match s.group? slot with
    | some g =>
      let p := s.finish g
      let p := p.1.drainWindows p.2
      p.1.setGroup p.2
    | none => s) s

/-- The jobs of a workgroup suspended between granules (14 R316). -/
def State.suspendJobs (s : State) (gid lw : Nat) : State :=
  (s.jobs.filter fun j => j.gid == gid && j.lw == lw).foldl State.suspendJob s

/-- The lowest free entry of the saved-workgroup directory (26 R453). -/
def State.freeSavedEntry (s : State) : Option Nat :=
  (List.range 16384).find? fun e => !(s.saved.any fun r => r.entry == some e)
def State.quotaHeld (s : State) (gid : Nat) : Bool := ((s.grid? gid).map Grid.quotaHeld).getD false
/-- Whether a record is held, by itself (22 R424) or with its grid (21 R416). -/
def State.recHeld (s : State) (r : SavedWg) : Bool := r.held || s.quotaHeld r.wg.gid
/-- Directory entries given out in order of saving, held workgroups first; a held one takes the entry of one that is not held when none is free. -/
def State.assignEntries (s : State) : Nat → State
  | 0 => s
  | n + 1 =>
    let want := (s.saved.filter fun r => s.recHeld r && r.entry.isNone) ++ s.saved.filter fun r => !s.recHeld r && r.entry.isNone
    match want with
    | [] => s
    | w :: _ =>
      let give (e : Nat) : State := { s with saved := s.saved.map fun r =>
        if r.order == w.order then { r with entry := some e } else if r.entry == some e then { r with entry := none } else r }
      let free := match s.freeSavedEntry with
        | some e => some e
        | none => if s.recHeld w then (s.saved.find? fun r => !s.recHeld r && r.entry.isSome).bind SavedWg.entry else none
      match free with
      | some e => (give e).assignEntries n
      | none => s

-- ### Sizes and the context store

/-- Records of a die that lie in its context store (22 R432). -/
def State.storeUsed (s : State) (die : Nat) : Nat := ((s.saved.filter fun r => r.die == die && !r.spilled).map SavedWg.size).sum
/-- Its size: one that the host has written takes effect while the store holds no record (26 R449). -/
def State.storeSize (s : State) (die : Nat) : Nat := s.svc.ctxEff.getD die 1 * 2 ^ 23
def State.settleStore (s : State) (die : Nat) : State :=
  if s.storeUsed die = 0 then { s with svc := { s.svc with ctxEff := s.svc.ctxEff.set die (s.svc.ctxStore.getD die 1) } } else s
/-- Where a record of a context goes in its save area (22 R432): the lowest multiple of 64 bytes at which it meets no other record (DESIGN CHOICE,
notes/assumptions/11). -/
def State.saveSpot (s : State) (ctx size : Nat) : Nat :=
  let base := (s.svc.ctx ctx).savea
  let taken := ((s.saved ++ s.resuming).filter SavedWg.spilled).map fun r => (r.savedAt, r.size)
  let spots := base :: (taken.map fun x => (x.1 + x.2 + 63) / 64 * 64).filter (base ≤ ·)
  (sortNat spots).find? (fun p => taken.all fun x => !overlaps p size x.1 x.2) |>.getD base
/-- The bytes of a record written to device DRAM. -/
def State.writeRecord (s : State) (p : Nat) (r : SavedWg) : State :=
  s.putBytes Writer.unit p (r.bytes.take (2 ^ 39 - p))
/-- The oldest records of a full store move to SAVEA (22 R432). -/
def State.spill (s : State) (die : Nat) : Nat → State
  | 0 => s
  | n + 1 =>
    if s.storeUsed die ≤ s.storeSize die then s
    else
      let rs := s.saved.filter fun r => r.die == die && !r.spilled
      match rs.find? fun r => rs.all fun x => r.order ≤ x.order with
      | some r =>
        let p := s.saveSpot (s.ctxOfGrid r.wg.gid) r.size
        let mark (x : SavedWg) : SavedWg := if x.order == r.order then { x with spilled := true, savedAt := p } else x
        ({ s.writeRecord p r with saved := s.saved.map mark }).spill die n
      | none => s
/-- A record as it stands: one in a save area as memory has it now, unless what has been written there is no record of its workgroup. -/
def State.recordNow (s : State) (r : SavedWg) : SavedWg :=
  if r.spilled then
    let bs := loadBytes s 0 r.savedAt r.size
    if bs = r.bytes then r else (r.rewrite bs).getD r
  else r
/-- The module has read some bytes for itself: an uncorrectable error among them goes to the error log (26 R452 code 10). -/
def State.moduleRead (s : State) (p n : Nat) : State :=
  let s' := s.drawFor n
  match s.eccBad.find? fun a => p ≤ a && a < p + n with
  | some a => s'.logEcc a
  | none => s'
/-- The same of a record. -/
def State.recordRead (s : State) (r : SavedWg) : State := if r.spilled then s.moduleRead r.savedAt r.size else s

-- ### The save of a gang

/-- The scratchpad ranges that a save keeps (22 R430): all of it when one group has no live set. -/
def saveRanges (size : Nat) (lives : List (Option LiveSet)) : List (Nat × Nat) :=
  if lives.any Option.isNone then [(0, size)]
  else (lives.flatMap fun l => match l with
    | some x => x.ranges.map fun r => (r.1, min r.2 size)
    | none => []).filter fun r => r.1 < r.2

/-- The scratchpad of a saved workgroup: the bytes outside the saved ranges are free values, byte `a` the free byte `a` past a place. -/
def saveSpad (place size : Nat) (ranges : List (Nat × Nat)) (m : Memory) : Memory :=
  if ranges.contains (0, size) then m
  else
    ((List.range size).foldl (fun (p : Memory × Memory) a =>
      let here := (p.2.head?).filter fun c => c.1 == a
      let old := (here.map Prod.snd).getD Config.memDefault
      let b := if ranges.any fun r => r.1 ≤ a && a < r.2 then old else Config.freeByte (place + a)
      (if b = Config.memDefault then p.1 else (a, b) :: p.1, if here.isSome then p.2.drop 1 else p.2)) ([], m)).1.reverse

/-- The job sets without the jobs of a workgroup, and without the edges from them; those from FAULTED ones stand until the job is posted again (14 R311). -/
def leaveSet (js : List Job) (gid lw : Nat) : List Job :=
  let mine (j : Job) : Bool := j.gid == gid && j.lw == lw
  let gone := (js.filter fun j => mine j && j.st != .faulted).map Job.id
  (js.filter fun j => !mine j).map fun j => { j with edges := j.edges.filter fun e => !gone.contains e }

/-- A stopped member workgroup becomes a record, and its core's resources are free (22 R430-R432; 04 R72; 13 R301). Of a member whose groups have exited the
whole scratchpad is kept, since the rest of the gang may read it (13 R272; DESIGN CHOICE, notes/assumptions/58). -/
def State.saveWg (s : State) (w : Wg) (hold quota migr : Bool) : State :=
  let s := s.settleGroups ((s.wgGroups w.gid w.lw).map Group.slot)
  let s := s.suspendJobs w.gid w.lw
  let gs := s.wgGroups w.gid w.lw
  let gs := (List.range 48).filterMap fun k => gs.find? fun g => g.k == k
  let lives := gs.map (liveSet s)
  let s := gs.foldl State.liveEcc s
  let jobs := s.jobs.filter fun j => j.gid == w.gid && j.lw == w.lw && (j.st == .suspended || j.st == .faulted)
  let cards := jobs.map fun j => (j.at_, j.at_ + 64)
  let size := (s.desc w.gid).spwg * 4096
  let ranges := if gs.isEmpty then [(0, size)] else saveRanges size lives
  let w := (s.wg? w.gid w.lw).getD w
  let spad := saveSpad (s.free * 2 ^ 16) size (ranges ++ cards) w.spad
  let counted (g : Group) : Int := if g.inh then g.watch else s.us - g.watch
  let groups := (gs.zip lives).map fun x => { saveGroup ((s.free + 32 + x.1.k) * 2 ^ 16) x.1 x.2 with quota := quota, watch := counted x.1 }
  let rec_ : SavedWg :=
    { die := coreDie w.core, oldCore := w.core, spilled := false, savedAt := 0, held := hold || w.stop == some .trapHost, quota := quota, byQuota := quota, double := gs.any Group.double,
      code := hostCode gs, migr := migr, order := s.nextName, rank := s.nextName, entry := none, smaps := lives.map smapOf, notabs := lives.map Option.isNone, counts := barCounts gs,
      ranges := ranges,
      wg := { w.settleWs s.fclk with spad := spad, wsPend := [], stop := none, stopAt := 0, hold := false, quota := false, atStep := false, moves := false, migr := false },
      groups := groups, jobs := jobs }
  let s := (gs.foldl (fun s g => s.removeGroup g.slot) s).settleStore (coreDie w.core)
  let s := if s.cutting w.gid then s.modGrid w.gid fun d => { d with cutMax := max d.cutMax (maxCount groups) } else s
  let s := { s with saved := s.saved ++ [rec_], nextName := s.nextName + 1, free := s.free + 80, order := s.order.dropSpad w.gid w.lw,
                    jobs := leaveSet s.jobs w.gid w.lw }
  ((s.assignEntries 2).spill (coreDie w.core) s.saved.length).freed w.core (gs.map fun g => g.regs.length / 8).sum

/-- The members of a gang that are resident with a group. -/
def State.gangWgs (s : State) (gid gang : Nat) : List Wg := (s.gangMembers gid gang).filter fun w => !(s.wgGroups gid w.lw).isEmpty

/-- The save of a gang that has been asked to stop (22 R428, R430; 02 R28), whole: its members that have exited among them. QUOTA holds the whole grid while
`Grid.quotaHeld` stands (21 R416). A save at the STEP that a migration waits for is the migration, whatever else asks for it by then (22 R436, R438), also when the
core has fallen back to band 0 since the STEP (DESIGN CHOICE, notes/assumptions/68). A quantum
pre-emption of the gang has ended (04 R80). -/
def State.saveGang (s : State) (gid gang : Nat) : State :=
  let ws := s.gangMembers gid gang
  let quota := s.quotaHeld gid || ws.any Wg.quota
  let hold := ws.any Wg.hold
  let migr := ws.any fun w => w.atStep && (w.stop == some .migration || w.moves || s.gangMigrates gid gang)
  let s := ws.foldl (fun s w => s.saveWg w hold quota migr) s
  { s with wgs := s.wgs.filter fun w => !(w.gid == gid && gangIdx (s.desc gid) w.lw == gang) }.modGrid gid fun d =>
    { d with quantum := if d.quantum = some gang then none else d.quantum }

/-- A group has a WSW that has not had its two FCLK (11 R239). -/
def Group.wswEarly (g : Group) (fclk : Nat) : Bool := g.pending.any (Eff.early fclk)
/-- Whether a gang that is asked to stop has come to rest: no group waits for the end of its runs at a PHINT (08 R169), no word has lanes left to perform, and every WSW,
also one without an active lane, has had its two FCLK (11 R239). -/
def State.gangRests (s : State) (gid gang : Nat) : Bool :=
  (s.gangGroups gid gang).all (fun g => !s.phintWaits g && g.mid.isNone && !g.wswEarly s.fclk) && (s.gangMembers gid gang).all fun w => w.wsPend.all fun x => x.1 + 2 ≤ s.fclk
/-- SAVE_COMPLETE (22 R430). -/
def execSaveComplete (gid gang : Nat) (s : State) : Out :=
  .next (if (s.gangStop gid gang).isSome && !(s.gangWgs gid gang).isEmpty && s.gangRests gid gang then s.saveGang gid gang else s)

/-- A gang placed and not yet restored. -/
def State.gangResuming (s : State) (gid gang : Nat) : Bool := s.resuming.any fun r => r.wg.gid == gid && gangIdx (s.desc gid) r.wg.lw == gang

/-- A gang asked to stop at its next word boundary (22 R427, R428). One that has exited in this FCLK is not saved; the request is owed by its cores to what runs next
on them (03 R58). -/
def State.askGang (s : State) (gid gang : Nat) (why : StopReason) : State :=
  if !(s.gangWgs gid gang).isEmpty || s.gangResuming gid gang then s.stopGang gid gang why
  else match s.exits.find? fun x => x.1 == gid && x.2.1 == gang with
    | some x => { s with owed := s.owed ++ x.2.2.map fun c => (c, why) }
    | none => s
/-- PREEMPTION_REQUEST (22 R427): of the events that request a pre-emption, the one that `why` names, where it has come: a quantum that ends (04 R80), a trip of a
member's cluster (21 R410), a quota that is exhausted (R416), a trap that has gone to the host (22 R424), a request that has reached its STEP (R435, R436). The host may ask at
any time. -/
def execPreemptionRequest (gid gang : Nat) (why : StopReason) (s : State) : Out :=
  let cores := ((s.gangMembers gid gang) ++ (s.resuming.map SavedWg.wg).filter fun w => w.gid == gid && gangIdx (s.desc gid) w.lw == gang).map Wg.core
  .next (match why with
    | .quantum => match s.grid? gid with
      | some d => if s.quantumEnds d gang then (s.stopGang gid gang .quantum).modGrid gid fun x => { x with quantum := some gang } else s
      | none => s
    | .trip => if cores.any fun c => (s.clusterAt (coreCluster c)).tripped then s.askGang gid gang .trip else s
    | .quota => if s.quotaHeld gid then s.stopGang gid gang .quota else s
    | .trapHost => if (s.gangGroups gid gang).any Group.toHost then s.stopGang gid gang .trapHost else s
    | .migration => if s.gangMigrates gid gang && !(s.gangGroups gid gang).isEmpty then s.stopAtStep gid gang else s
    | .cut => if s.cutting gid && !(s.gangGroups gid gang).isEmpty then s.stopAtStep gid gang else s
    | .host => s.askGang gid gang .host
    | .hostHold => s.askGang gid gang .hostHold)

-- ### Resumption

/-- A queued run of a record fetched again: the record keeps only its place (22 R431, 02 R30). -/
def refetch (s : State) (g : Group) (r : Run) : Run := { fetchRun s g r.view r.next r.left with prev := r.prev, heard := r.heard, obs := r.obs }

/-- A group back on a core (22 R433): its runs are fetched, the watchdog counts from now (R426), and in a gang that a cut resumed since some group was below K, a group at
K is held (R435); a gang on its way back when the cut came runs to its next STEP (DESIGN CHOICE, notes/assumptions/26). The sub-arrays of another engine
have not served its windows (15 R342). Everything that it had issued is complete, also for its scalar stream (17 R368). -/
def resumedGroup (s : State) (r : SavedWg) (below : Bool) (g : Group) (slot : Nat) : Group :=
  let tiles := if coreCluster r.oldCore == coreCluster (slotCore slot) then g.tiles else g.tiles.map fun t => { t with subs := [] }
  let g := { g.takeRels (g.slack.flatMap Slack.rels) with
             slot := slot, part := slot % 48 / 8, watch := if g.inh then 0 else s.us, toHost := false, double := false, quota := false, last := none, trapAt := none,
             slack := [], tiles := tiles, stepHeld := below && s.cutK g.gid ≤ g.stepCount }
  let kernel := { g with cause := g.cause &&& ~~~(BitVec.ofNat 64 (2 ^ 31)) }
  { g with runq := g.runq.map (refetch s g), aside := g.aside.map fun a => { a with runq := a.runq.map (refetch s kernel) } }

/-- The groups of a record placed in ascending k. -/
def State.resumeGroups (s : State) (r : SavedWg) (below : Bool) : List Group → State
  | [] => s
  | g :: gs => ({ s with groups := s.groups ++ [resumedGroup s r below g (s.newSlot r.wg.core)] }).resumeGroups r below gs

/-- A suspended job as its card stands in the scratchpad at resumption (14 R317, R318); a card that FORK would refuse counts for nothing, and the job goes on as
it was posted (DESIGN CHOICE, notes/assumptions/14). -/
def State.cardNow (s : State) (j : Job) : Job :=
  let bs := memRead (s.spadOf j.gid j.lw) j.at_ 64
  let c := cardOf bs
  if c.bad (cardReserved bs) then j else { j with card := c, done := c.done }
/-- The suspended cards posted again in FORK order on the new core (14 R317), with their edges derived again; FAULTED ones keep their state. They know what they knew: a
store that nothing orders with the job may be met or not (R313, 24 R443). -/
def State.repost (s : State) (r : SavedWg) : State :=
  r.jobs.foldl (fun s j =>
    if j.st = .suspended then
      let j := { s.cardNow j with core := r.wg.core, st := .posted }
      let j := { j with edges := s.edgesOf j }
      { s with jobs := s.jobs ++ [j] }.writeCard j 4 [1]
    else { s with jobs := s.jobs ++ [{ j with core := r.wg.core }] }) s

/-- What a restored workgroup's threads know (17 R368): each group what its own streams knew; on another core, what any thread of the workgroup knew. -/
def State.meetAgain (s : State) (r : SavedWg) : State :=
  let s := r.groups.foldl State.scalarObserves s
  if r.oldCore = r.wg.core then r.groups.foldl (fun s g => s.meet [g]) s else s.meet r.groups
/-- A workgroup restored (22 R433). What has befallen its grid or its core since it was placed applies to it: QUOTA (21 R416), a trip or a warm core (R410). -/
def State.resumeWg (below : Bool) (s : State) (r : SavedWg) : State :=
  let now := s.recordNow r
  let s := s.recordRead r
  let r := now
  let w := { r.wg with migr := 1 ≤ (s.units.coreSens.getD r.wg.core Sensor.reset).band || (s.clusterAt (coreCluster r.wg.core)).out }
  let w := if (s.clusterAt (coreCluster w.core)).tripped then w.askStop s.fclk .trip else w
  let w := if s.quotaHeld w.gid then w.askStop s.fclk .quota else w
  (({ s with wgs := s.wgs ++ [w], resuming := s.resuming.filter fun x => x.order != r.order }.resumeGroups r below r.groups).repost r).meetAgain r

/-- WORKGROUP_RESUMPTION (22 R433): the gang of a workgroup that has been placed again, whole (02 R28). -/
def execWorkgroupResumption (gid lw : Nat) (s : State) : Out :=
  let d := s.desc gid
  let rs := s.resuming.filter fun r => r.wg.gid == gid && gangIdx d r.wg.lw == gangIdx d lw
  let below := s.cutting gid && rs.any fun r => (s.recordNow r).groups.any fun g => g.stepCount < s.cutK gid
  .next (if rs.any fun r => r.wg.lw == lw then (rs.foldl (State.resumeWg below) s).assignEntries rs.length else s)

-- ### Cuts

/-- Whether every group of a grid is at K or has exited (22 R435). -/
def State.cutReached (s : State) (d : Grid) : Bool :=
  let rs := s.saved.filter fun r => r.wg.gid == d.gid
  (s.groups.all fun g => g.gid != d.gid) && (s.resuming.all fun r => r.wg.gid != d.gid) && (d.isTask || d.walk == d.desc.gangs) && d.aside.isEmpty
    && d.tasks.isEmpty && rs.all fun r => r.groups.all fun g => g.stepCount == s.cutK d.gid

/-- CUT_COMPLETE (22 R435): the reduction tree declares the cut, and the command that asked for it ends. -/
def execCutComplete (gid : Nat) (s : State) : Out :=
  .next (match s.grid? gid with
    | some d => if !d.cut.isEmpty && s.cutReached d then d.cut.foldl (fun s port => s.setStatus port 0) (s.modGrid gid fun x => { x with cut := [], cutMax := 0 }) else s
    | none => s)

end Sys2Proof.Machine
end

