-- ==== Sys2Proof/Machine/Heat.lean ====
section
/-!
DEFINITION. Heat, refresh, clocks, glide operations and energy quotas (21 R406-R417).
-/
namespace Sys2Proof.Machine

-- ### Sensors

/-- The thresholds in units of 0.25 degrees: vaults 85, 95, 105 (21 R408), cores 95, 105, 115 (R410). -/
def thresholds (core : Bool) : List Int := if core then [380, 420, 460] else [340, 380, 420]
/-- The band of a reading by itself. -/
def rawBand (core : Bool) (temp : Int) : Nat := (thresholds core).countP (· ≤ temp)

/-- A sample (21 R406, R407): the first sets the band; then it rises at once and falls by one after 400 us, 3 degrees below the threshold. -/
def Sensor.sample (x : Sensor) (core : Bool) (temp : Int) (us : Nat) : Sensor :=
  let raw := rawBand core temp
  if !x.seen then { band := raw, temp := temp, changed := us, seen := true }
  else if x.band < raw then { x with band := raw, temp := temp, changed := us }
  else if 0 < x.band ∧ temp < (thresholds core).getD (x.band - 1) 0 - 12 ∧ x.changed + 400 ≤ us then { x with band := x.band - 1, temp := temp, changed := us }
  else { x with temp := temp }

def State.setCoreSensor (s : State) (i : Nat) (x : Sensor) : State := { s with units := { s.units with coreSens := s.units.coreSens.set i x } }
def State.setVaultSensor (s : State) (i : Nat) (x : Sensor) : State := { s with units := { s.units with vaultSens := s.units.vaultSens.set i x } }
def State.coreBand (s : State) (core : Nat) : Nat := (s.units.coreSens.getD core Sensor.reset).band

/-- The gangs with a member on a core, as (grid, gang). -/
def State.gangsOn (s : State) (core : Nat) : List (Nat × Nat) :=
  ((s.wgs.filter fun w => w.core == core).map fun w => (w.gid, gangIdx (s.desc w.gid) w.lw)).eraseDups

/-- Groups that stand at a STEP go on when neither a cut nor a migration asks for them any more (22 R436). -/
def State.releaseSteps (s : State) : State :=
  { s with groups := s.groups.map fun g => if g.stepHeld && !s.stepStops g then { g with stepHeld := false } else g }

/-- The migration requests of a core (21 R410): they stand while it is in band 1 or above and are withdrawn in band 0. -/
def State.askMigration (s : State) (core : Nat) (on : Bool) : State :=
  let s := { s with wgs := s.wgs.map fun w => if w.core == core then { w with migr := on } else w }
  if on then s else s.releaseSteps

/-- A core trip (21 R410, R417): the cluster takes no placement, every resident gang is to be saved, a ratio change under way is given up. -/
def State.trip (s : State) (core : Nat) (temp : Int) : State :=
  let cl := coreCluster core
  let s := (s.modCluster cl fun c => { c with tripped := true, pending := none, switching := false }).log 9 core (wrap 16 temp).toNat 0 0
  ((List.range 4).flatMap fun i => s.gangsOn (4 * cl + i)).foldl (fun s g => s.stopGang g.1 g.2 .trip) s
/-- A tripped cluster returns to service when all its cores are in band 0 (21 R410). -/
def State.untrip (s : State) (cl : Nat) : State :=
  if (List.range 4).all fun i => s.coreBand (4 * cl + i) == 0 then s.modCluster cl fun c => { c with tripped := false } else s

/-- SENSOR_SAMPLE (21 R406-R410). -/
def execSensorSample (core : Bool) (idx : Nat) (temp : Int) (s : State) : Out :=
  .next (if core then
    match s.units.coreSens[idx]? with
    | none => s
    | some x =>
      let y := x.sample true temp s.us
      let s := (s.setCoreSensor idx y).askMigration idx (1 ≤ y.band || (s.clusterAt (coreCluster idx)).out)
      let s := if y.band = 3 ∧ !(x.seen ∧ x.band = 3) then s.trip idx temp else s
      s.untrip (coreCluster idx)
  else match s.units.vaultSens[idx]? with
    | none => s
    | some x => s.setVaultSensor idx (x.sample false temp s.us))

-- ### Refresh

/-- tREFI of a band in units of 0.975 us (21 R408). -/
def trefiOf (band : Nat) : Nat :=
  match band with
  | 0 => 4
  | 1 => 2
  | _ => 1
def State.modVault (s : State) (v : Nat) (f : Vault → Vault) : State := { s with units := { s.units with vaults := listMod s.units.vaults v f } }
/-- VAULT_REFRESH (21 R408): a refresh begins, and a change of tREFI takes effect. -/
def execVaultRefresh (v : Nat) (s : State) : Out :=
  .next (s.modVault v fun _ => { trefi := trefiOf (s.units.vaultSens.getD v Sensor.reset).band, busy := true })
/-- REFRESH_END (21 R408). -/
def execRefreshEnd (v : Nat) (s : State) : Out := .next (s.modVault v fun x => { x with busy := false })

-- ### Clocks

/-- The ratio that the limits of a cluster allow (21 R411), in halves of FCLK. A spare cluster has no byte among those of 26 R449, and so no limit of the host
(DESIGN CHOICE, notes/assumptions/60). -/
def State.ratioLimit (s : State) (cl : Nat) : Nat :=
  let host := 2 ^ s.svc.limits.getD cl 2
  let hot := (List.range 4).any fun i => (s.units.coreSens.getD (4 * cl + i) Sensor.reset).seen && 2 ≤ s.coreBand (4 * cl + i)
  min (min host (if s.svc.mxok then 4 else 2)) (if hot then 1 else 4)
/-- A tripped cluster saves its workgroups at its current ratio (21 R417). -/
def State.tripSaves (s : State) (cl : Nat) : Bool :=
  (s.clusterAt cl).tripped && ((s.wgs.any fun w => coreCluster w.core == cl) || s.resuming.any fun r => coreCluster r.wg.core == cl)
/-- RATIO_CHANGE (21 R411): the cluster stops lane issue before its new ratio applies. -/
def execRatioChange (cluster : Nat) (s : State) : Out :=
  let c := s.clusterAt cluster
  .next (if c.switching || s.tripSaves cluster || c.ratio == s.ratioLimit cluster then s
    else s.modCluster cluster fun c => { c with pending := some (s.ratioLimit cluster), switching := true })
/-- RATIO_SWITCH_END (21 R411). -/
def execRatioSwitchEnd (cluster : Nat) (s : State) : Out :=
  .next (s.modCluster cluster fun c => { c with ratio := c.pending.getD c.ratio, pending := none, switching := false })

def State.modDie (s : State) (d : Nat) (f : Die → Die) : State := { s with units := { s.units with dies := listMod s.units.dies d f } }
/-- The step that an average occupancy asks for (21 R412). -/
def nclkStep (level permille : Nat) : Option Bool :=
  if 500 < permille ∧ level < 7 then some true else if permille < 125 ∧ 0 < level then some false else none
/-- NCLK_WINDOW (21 R412): a window of 2 us ends with an average occupancy; steps are at least 10 us apart. -/
def execNclkWindow (die permille : Nat) (s : State) : Out :=
  .next (s.modDie die fun d =>
    if d.nstep.isSome || d.nlast.any (fun t => s.us < t + 10) then d
    else match nclkStep d.nclk permille with
      | some up => { d with nstep := some up, nlast := some s.us }
      | none => d)
/-- NCLK_STEP_DONE (21 R412). -/
def execNclkStepDone (die : Nat) (s : State) : Out :=
  .next (s.modDie die fun d => match d.nstep with
    | some true => { d with nclk := min 7 (d.nclk + 1), nstep := none }
    | some false => { d with nclk := d.nclk - 1, nstep := none }
    | none => d)

-- ### Energy

/-- The handler of a group left as it was entered, in the FCLK of its trap. -/
def Group.leaveEntry (g : Group) (us : Nat) : Group :=
  match g.aside with
  | none => g
  | some a => { g with exm := a.exm, tpart := a.tpart, runq := a.runq, aside := none, spc := g.epc, watch := us - g.watch, trapAt := none,
                       cause := g.cause &&& ~~~(BitVec.ofNat 64 (2 ^ 31)) }
/-- A trap that QUOTA meets in its FCLK goes to the host with it (22 R438): no handler runs (21 R416). -/
def State.trapToHost (s : State) (g : Group) : State :=
  let g := { g.leaveEntry s.us with toHost := true }
  ((s.setGroup g).requestStop g.gid g.lw .trapHost).log 8 (s.ctxOfGrid g.gid) (g.cause.toNat % 256) (s.gridName g.gid) g.lw

/-- A grid whose quota is exhausted (21 R416): its gangs that are placed, restored or not, are pre-empted, and everything of it is held until the host adds quota. -/
def State.exhaust (s : State) (d : Grid) : State :=
  let back := s.resuming.filter fun r => r.wg.gid == d.gid
  let ws := (s.wgs.filter fun w => w.gid == d.gid && !(s.wgGroups w.gid w.lw).isEmpty) ++ (back.filter fun r => !r.groups.isEmpty).map SavedWg.wg
  let s := s.modGrid d.gid fun x => { x with quotaHeld := true }
  let s := ws.foldl (fun s w => s.log 8 d.ctx (8 + 512) d.name w.lw) s
  let s := (s.residentGangs d.gid ++ (back.map fun r => gangIdx d.desc r.wg.lw).eraseDups).foldl (fun s g => s.stopGang d.gid g .quota) s
  let s := (s.groups.filter fun g => g.gid == d.gid && g.trapAt == some s.fclk && g.inh).foldl State.trapToHost s
  s.assignEntries s.saved.length

/-- `uj` microjoules charged to a grid (21 R414-R417); a charge to a grid whose entry has been reused goes to its context (26 R453). -/
def State.chargeGrid (s : State) (gid uj : Nat) : State :=
  match s.grid? gid with
    | none => s
    | some d =>
      let past := if d.unl then 0 else uj - d.left
      let s := s.modGrid gid fun x => { x with left := x.left - uj }
      if d.st = .reused then
        let c := s.svc.ctx d.ctx
        s.setCtx d.ctx { c with energy := c.energy + uj, overrun := c.overrun + past }
      else
        let s' := s.modGrid gid fun x => { x with energy := x.energy + uj, overrun := x.overrun + past }
        if d.unl || uj ≤ d.left || d.quotaHeld || d.st != .live || s.gridOver d then s' else s'.exhaust d
/-- ENERGY_CHARGE (21 R414-R417). -/
def execEnergyCharge (gid uj : Nat) (s : State) : Out := .next (s.chargeGrid gid uj)

/-- A share of some nanojoules, in whole microjoules rounded up (21 R414). -/
def glideShare (nj weight total : Nat) : Nat := (nj * weight + 1000 * total - 1) / (1000 * total)
/-- The energy of a die's glide operations charged to the grids whose work has left it, in proportion to what each adds to the drop (21 R414): what the meters find
is a free value. -/
def State.chargeGlide (s : State) (die : Nat) : State :=
  let gids := (s.units.departed.filter fun x => x.1 == die).map Prod.snd
  let weight (i : Nat) : Nat := Config.glideMeter s.free (i + 1) + 1
  let total := ((List.range gids.length).map weight).sum
  (gids.zipIdx).foldl (fun (u : State) x => u.chargeGrid x.1 (glideShare (Config.glideMeter s.free 0) (weight x.2) total)) s.draw
/-- GLIDE_INTERVAL (21 R413, R414): the work of a die draws `estimate` amperes; glide operations hold the fall to 6 A in the interval, and their energy is
charged to the grids that have departed. -/
def execGlideInterval (die estimate : Nat) (s : State) : Out :=
  let held := max estimate ((s.units.dies.getD die { nclk := 0, nstep := none, nlast := none, estimate := 0, glide := 0 }).estimate - 6)
  let s := s.modDie die fun d => { d with estimate := held, glide := held - estimate }
  .next (if held = estimate then { s with units := { s.units with departed := s.units.departed.filter fun x => x.1 != die } } else s.chargeGlide die)

end Sys2Proof.Machine
end

