-- ==== Sys2Proof/Machine/Readback.lean ====
section
/-!
DEFINITION. What the readback space reads as (26 R449-R453, R456, R461; 20 R396, R401).
-/
namespace Sys2Proof.Machine

/-- The ID register (26 R450). -/
def idReg (v : Svc) : Nat :=
  0x0960 * 2 ^ 48 + 0xB0 * 2 ^ 40 + v.fwok.toNat * 2 ^ 34 + v.sfuok.toNat * 2 ^ 33 + v.mxok.toNat * 2 ^ 32 + v.fwver.toNat

/-- A mailbox (26 R454). -/
def mailboxFields (m : Mailbox) : List (Nat × Nat × Nat) := [(0, 1, m.cmd.toNat), (1, 1, m.status.toNat), (8, 8, m.arg0.toNat), (0x10, 8, m.arg1.toNat)]

/-- Byte `o` of the error log (26 R452). Entry k is the (HEAD - 1 - k)-th of the list, newest first. -/
def logByte (v : Svc) (o : Nat) : Byte :=
  if o < 8 then fieldByte [(0, 8, v.logHead)] o
  else if o < 32 then 0
  else
    let i := o / 32 - 1
    let back := (v.logHead + 2046 - i) % 2047
    if v.logHead ≤ back then 0
    else match v.log[back]? with
      | some e => fieldByte [(0, 8, e.time), (8, 2, e.code), (0xA, 2, e.unit), (0xC, 4, e.detail), (0x10, 8, e.addr), (0x18, 8, e.arg)] (o % 32)
      | none => 0

/-- An entry of the context table (26 R451). -/
def ctxFields (s : State) (c : Nat) : List (Nat × Nat × Nat) :=
  let x := s.svc.ctx c
  [(0, 8, x.troot), (8, 8, x.defl), (0x10, 8, x.wint), (0x18, 8, x.hobj), (0x20, 8, x.savea), (0x28, 2, x.hmask.toNat),
   (0x30, 4, (x.brk[0]).toNat), (0x34, 4, (x.brk[1]).toNat), (0x38, 4, (x.brk[2]).toNat), (0x3C, 4, (x.brk[3]).toNat),
   (0x40, 8, x.energy), (0x48, 8, x.overrun), (0x50, 4, s.ctxLive c)]

-- ### The grid directory (26 R453)

/-- The gangs of a grid that are placed: resident, or placed again and not yet restored. -/
def State.placedGangs (s : State) (gid : Nat) : Nat :=
  (s.residentGangs gid ++ (s.resuming.filter fun r => r.wg.gid == gid).map fun r => gangIdx (s.desc gid) r.wg.lw).eraseDups.length
def gridState (s : State) (d : Grid) : Nat :=
  match d.st with
  | .live => if d.quotaHeld || s.saved.any (fun r => r.wg.gid == d.gid && r.held) then 2 else 1
  | .retired => 3
  | .reused => 0
/-- WAITING: not resident, not set aside, not exited; of a task set, the uncommitted tasks that are not placed. -/
def State.waitingGangs (s : State) (d : Grid) : Nat :=
  if d.isTask then d.tasks.length + (s.saved.countP fun r => r.wg.gid == d.gid)
  else if d.st = .live then d.desc.gangs - s.placedGangs d.gid - d.aside.length - d.exited.length else 0
def gridFields (s : State) (d : Grid) : List (Nat × Nat × Nat) :=
  [(0, 8, d.name), (8, 2, d.ctx), (0xA, 1, gridState s d), (0xB, 1, d.desc.mode), (0x10, 8, s.placedGangs d.gid), (0x18, 8, d.aside.length),
   (0x20, 8, s.waitingGangs d), (0x28, 8, d.exited.length), (0x30, 8, d.energy), (0x38, 8, d.overrun)]
def gridAt (s : State) (e : Nat) : Option Grid := s.grids.find? fun d => d.entry == e && d.st != .reused

-- ### Cores

def coreFields (s : State) (p : Nat) : List (Nat × Nat × Nat) :=
  let x := s.units.coreSens.getD p Sensor.reset
  let cl := s.clusterAt (coreCluster p)
  let part := s.corePart p
  let ts := s.coreTenants p
  let used (f : Desc → Nat) : Nat := (ts.map fun w => f (s.desc w.1.gid)).sum
  let active := (s.logicalOf p).isSome
  let flags := active.toNat + 2 * cl.out.toNat + 4 * cl.tripped.toNat + 8 * (s.wgs.any fun w => w.core == p && w.migr).toNat
  [(0, 8, x.band * 2 ^ 32 + (wrap 16 x.temp).toNat * 2 ^ 16), (8, 8, (s.logicalOf p).getD 0xFFFF), (0x10, 2, part), (0x12, 1, s.load p),
   (0x13, 1, flags), (0x14, 2, s.freeGranules p), (0x16, 2, part % 256 * 16 - used Desc.spwg), (0x18, 1, 32 - used Desc.nbar), (0x19, 1, 48 - ts.length)]
    ++ (List.range 8).map fun k => (0x40 + 8 * k, 8, (s.wp p k).toNat)

-- ### Saved workgroups

def savedFields (s : State) (r : SavedWg) : List (Nat × Nat × Nat) :=
  [(0, 8, s.gridName r.wg.gid), (8, 8, r.wg.lw), (0x10, 4, r.size), (0x14, 1, r.spilled.toNat), (0x15, 1, r.die),
   (0x16, 1, (s.recHeld r).toNat + 2 * r.quota.toNat + 4 * r.double.toNat), (0x17, 1, r.code)]
/-- The record of a directory entry. -/
def State.savedAt (s : State) (e : Nat) : Option SavedWg := s.saved.find? fun r => r.entry == some e

-- ### Group slots

def slotFields (s : State) (g : Group) : List (Nat × Nat × Nat) :=
  let sp (r : Nat) : Nat := (s.special g r).toNat
  [(0, 8, 1 + 2 * g.inh.toNat + 2 ^ 8 * g.part), (8, 8, s.gridName g.gid), (0x10, 8, s.lg g), (0x18, 4, g.spc.toNat), (0x1C, 4, g.lpc.toNat),
   (0x20, 4, g.exm.toNat), (0x24, 1, g.tpart.toNat), (0x28, 8, sp 0x0B), (0x30, 8, sp 0x0E), (0x38, 8, sp 0x0F), (0x40, 8, sp 0x10),
   (0x48, 8, sp 0x11), (0x50, 8, sp 0x12), (0x58, 8, sp 0x0D), (0x60, 8, sp 0x13), (0x68, 8, sp 0x00), (0x70, 8, sp 0x01), (0x78, 8, sp 0x02),
   (0x80, 8, sp 0x03), (0x88, 8, sp 0x07), (0xA0, 8, sp 0x0C), (0xA8, 8, sp 0x08), (0xB0, 8, sp 0x15)]
    ++ (List.finRange 12).map (fun k => (0x90 + k.val, 1, (g.ctrs[k]).toNat))
    ++ (List.finRange 8).map fun k => (0xC0 + 8 * k.val, 8, (g.pins[k]).toNat)

-- ### The space

/-- The state readback region, from its first byte at 0x200_0000 (26 R453). -/
def stateByte (s : State) (o : Nat) : Byte :=
  if o < 0x4000 then (match gridAt s (o / 64) with
    | some d => fieldByte (gridFields s d) (o % 64)
    | none => 0)
  else if 0x10000 ≤ o ∧ o < 0x11000 then ((Config.partImage ((o - 0x10000) / 512)).getD ((o - 0x10000) % 512) 0)
  else if 0x11000 ≤ o ∧ o < 0x11600 then fieldByte [(0, 8, (s.talw ((o - 0x11000) / 8)).toNat)] (o % 8)
  else if 0x11600 ≤ o ∧ o < 0x11608 then fieldByte [(0, 8, s.fclk)] (o - 0x11600)
  else if 0x14000 ≤ o ∧ o < 0x14000 + 416 * 128 then fieldByte (coreFields s ((o - 0x14000) / 128)) (o % 128)
  else if 0x30000 ≤ o ∧ o < 0x30000 + 16384 * 32 then (match s.savedAt ((o - 0x30000) / 32) with
    | some r => fieldByte (savedFields s r) (o % 32)
    | none => 0)
  else if 0x100000 ≤ o ∧ o < 0x100000 + 416 * 48 * 256 then (match s.group? ((o - 0x100000) / 256) with
    | some g => fieldByte (slotFields s g) (o % 256)
    | none => 0)
  else if 0x800000 ≤ o ∧ o < 0x800000 + 4096 * 4096 then
    let x := s.svc.win ((o - 0x800000) / 4096) ((o - 0x800000) / 16 % 256)
    fieldByte [(0, 8, x.wcnt.toNat), (8, 8, x.werr.toNat)] (o % 16)
  else 0

/-- Byte `o` of the readback space (26 R449). OWNSEM's test-and-set is a step of its own (20 R396). -/
def readbackByte (s : State) (o : Nat) : Byte :=
  let v := s.svc
  if o < 8 then fieldByte [(0, 8, idReg v)] o
  else if 0x40 ≤ o ∧ o < 0x48 then fieldByte [(0x40, 8, v.ownsem)] o
  else if 0x80 ≤ o ∧ o < 0x90 then fieldByte [(0x80, 8, v.qtbase), (0x88, 8, v.dbbase)] o
  else if 0x100 ≤ o ∧ o < 0x161 then (if o = 0x160 then BitVec.ofNat 8 v.fclkLimit else BitVec.ofNat 8 (v.limits.getD (o - 0x100) 0))
  else if 0x180 ≤ o ∧ o < 0x188 then BitVec.ofNat 8 (v.ctxStore.getD (o - 0x180) 0)
  else if 0x1000 ≤ o ∧ o < 0x1080 then fieldByte (mailboxFields (s.port ((o - 0x1000) / 64)).mb) (o % 64)
  else if 0x2000 ≤ o ∧ o < 0x6000 then memGet (s.port ((o - 0x2000) / 0x2000)).att (o % 0x2000)
  else if 0x10000 ≤ o ∧ o < 0x20000 then logByte v (o - 0x10000)
  else if 0x100000 ≤ o ∧ o < 0x200000 then fieldByte (ctxFields s ((o - 0x100000) / 256)) (o % 256)
  else if 0x1000000 ≤ o ∧ o < 0x1001000 then memGet v.repairMap (o - 0x1000000)
  else if 0x2000000 ≤ o ∧ o < 0x4000000 then stateByte s (o - 0x2000000)
  else 0
def readback (s : State) (o n : Nat) : List Byte := (List.range n).map fun i => readbackByte s (o + i)

end Sys2Proof.Machine
end

