-- ==== Sys2Proof/Machine/Service.lean ====
section
/-!
DEFINITION. What the host does (20 R394-R399; 26 R449-R461): accesses through a port, OWNSEM, writes to the readback space, reset, power and link.
-/
namespace Sys2Proof.Machine

-- ### OWNSEM

/-- Whether a port holds OWNSEM (20 R396). -/
def State.owns (s : State) (port : Nat) : Bool := s.svc.ownsem == port + 1
def State.setOwner (s : State) (o : Nat) : State := { s with svc := { s.svc with ownsem := o } }
/-- What the module answers to a port's read. -/
def State.answer (s : State) (port : Nat) (bs : List Byte) : State := s.modPort port fun p => { p with read := bs }

/-- The test-and-set of a read of OWNSEM (20 R396). -/
def State.takeOwner (s : State) (port : Nat) : State := if s.svc.ownsem = 0 then s.setOwner (port + 1) else s
/-- A write of 0 through the holding port frees it; every other write is ignored. -/
def State.freeOwner (s : State) (port : Nat) : State := if s.owns port then (s.setOwner 0).modPort port fun p => { p with lost := none } else s
def State.writeOwner (s : State) (port : Nat) (x : Nat) : State := if x = 0 then s.freeOwner port else s

/-- OWNSEM_READ (20 R396). -/
def execOwnsemRead (port : Nat) (s : State) : Out := .next ((s.answer port (readback s 0x40 8)).takeOwner port)
/-- OWNSEM_WRITE (20 R396). -/
def execOwnsemWrite (port : Nat) (v : W64) (s : State) : Out := .next (s.writeOwner port v.toNat)
/-- OWNSEM_RELEASE (20 R396): within 100 us of the loss of the holding port's link, also when the link is up again by then. -/
def execOwnsemRelease (port : Nat) (s : State) : Out := .next (if (s.port port).lost.isSome then s.freeOwner port else s)
/-- The end of those 100 us (20 R396): OWNER is 0 by then. -/
def State.dueOwner (s : State) (port : Nat) : State := if (s.port port).lost.any (s.passed · 100) then s.freeOwner port else s

-- ### Global configuration

/-- A number of `n` bytes with some of them written from byte `o`. -/
def patchNat (old n o : Nat) (bs : List Byte) : Nat :=
  leNat ((leBytes n old).zipIdx.map fun b => if o ≤ b.2 then (bs[b.2 - o]?).getD b.1 else b.1)
/-- A list of byte-sized values with some of them written from index `o`. -/
def patchList (old : List Nat) (o : Nat) (bs : List Byte) : List Nat :=
  old.zipIdx.map fun b => if o ≤ b.2 then ((bs[b.2 - o]?).map (·.toNat)).getD b.1 else b.1

/-- Whether an offset is global configuration that a write can change (26 R449). -/
def isGlobal (o : Nat) : Bool :=
  (0x80 ≤ o && o < 0x90) || (0x100 ≤ o && o < 0x161) || (0x180 ≤ o && o < 0x188) || (0x1000000 ≤ o && o < 0x1001000)
/-- A global write ignored (26 R452 code 5). -/
def State.logGlobal (s : State) (port off : Nat) (bs : List Byte) : State := s.log 5 port 0 off (leNat bs % 2 ^ 64)

/-- The repair map with the reserved bits of its slots zero (00 R4, 26 R456): bits 30-16, of each slot. -/
def repairClean (m : Memory) : Memory :=
  m.filterMap fun c =>
    let b : Byte := if c.1 % 4 = 2 then 0 else if c.1 % 4 = 3 then c.2 &&& 0x80 else c.2
    if b = Config.memDefault then none else some (c.1, b)
/-- A write to global configuration (20 R395, 26 R449): only through the OWNSEM port, and of the limits and sizes only legal values, all or none. -/
def State.writeGlobal (s : State) (port off : Nat) (bs : List Byte) : State :=
  let v := s.svc
  if !s.owns port then s.logGlobal port off bs
  else if off < 0x90 then
    let x := patchNat (v.qtbase + 2 ^ 64 * v.dbbase) 16 (off - 0x80) bs
    { s with svc := { v with qtbase := x % 2 ^ 64, dbbase := x / 2 ^ 64 } }
  else if off < 0x161 then
    let xs := patchList (v.limits ++ [v.fclkLimit]) (off - 0x100) bs
    let ok := xs.zipIdx.all fun x => if x.2 = 96 then 1 ≤ x.1 && x.1 ≤ 180 else x.1 ≤ 2
    if ok then { s with svc := { v with limits := xs.take 96, fclkLimit := xs.getD 96 v.fclkLimit } } else s.logGlobal port off bs
  else if off < 0x188 then
    let xs := patchList v.ctxStore (off - 0x180) bs
    if xs.all fun x => 1 ≤ x && x ≤ 6 then (List.range 8).foldl State.settleStore { s with svc := { v with ctxStore := xs } } else s.logGlobal port off bs
  else { s with svc := { v with repairMap := repairClean (memWrite v.repairMap (off - 0x1000000) (bs.take (0x3E4 - (off - 0x1000000)))) } }

-- ### The context table

/-- An entry with some bytes written (26 R451); its read-only bytes keep, and bits 0, 14 and 15 of HMASK stay zero (22 R421, 00 R4). A new HOBJ has no checked header yet (22 R421). -/
def Ctx.patch (c : Ctx) (o : Nat) (bs : List Byte) : Ctx :=
  let old := c.troot + 2 ^ 64 * c.defl + 2 ^ 128 * c.wint + 2 ^ 192 * c.hobj + 2 ^ 256 * c.savea + 2 ^ 320 * c.hmask.toNat
  let x := patchNat old 42 o bs
  let b (i : Nat) (r : W32) : W32 := BitVec.ofNat 32 (patchNat (r.toNat * 2 ^ (8 * (0x30 + 4 * i))) (0x34 + 4 * i) o bs / 2 ^ (8 * (0x30 + 4 * i)))
  let hobj := x / 2 ^ 192 % 2 ^ 64
  { c with troot := x % 2 ^ 64, defl := x / 2 ^ 64 % 2 ^ 64, wint := x / 2 ^ 128 % 2 ^ 64, hobj := hobj, savea := x / 2 ^ 256 % 2 ^ 64,
           hmask := BitVec.ofNat 16 (x / 2 ^ 320) &&& 0x3FFE, brk := #v[b 0 c.brk[0], b 1 c.brk[1], b 2 c.brk[2], b 3 c.brk[3]],
           hk := if hobj = c.hobj then c.hk else none }
/-- Whether an offset lies in the context table. -/
def isCtxTable (o : Nat) : Bool := 0x100000 ≤ o && o < 0x200000
/-- A write within an entry of the context table. A new translation root has no entry in any TLB (13 R276; DESIGN CHOICE, notes/assumptions/6). -/
def State.writeCtxEntry (s : State) (off : Nat) (bs : List Byte) : State :=
  let c := (off - 0x100000) / 256
  let x := (s.svc.ctx c).patch (off % 256) bs
  let s := if x.troot = (s.svc.ctx c).troot then s else s.invalidate c 0 (2 ^ 57)
  s.setCtx c x

-- ### Mailboxes and registers

/-- The command that a CMD byte names (26 R454). -/
def commandOf (port : Nat) (cmd : Byte) (a b : W64) : Option Instr :=
  match cmd.toNat with
  | 1 => some (.preempt port a b)
  | 2 => some (.resume port a b)
  | 3 => some (.endgrid port a)
  | 4 => some (.cut port a)
  | 5 => some (.inval port a b)
  | 6 => some (.quotaadd port a b)
  | 7 => some (.endqf port a)
  | 8 => some (.repair port a b)
  | 9 => some (.attest port)
  | 10 => some (.fwload port a b)
  | 11 => some (.recread port a b)
  | 12 => some (.recwrite port a b)
  | _ => none

abbrev stOk : Byte := 0
abbrev stNogrid : Byte := 1
abbrev stBadarg : Byte := 2
abbrev stNotowner : Byte := 3
abbrev stBadimage : Byte := 4
abbrev stExhausted : Byte := 5
abbrev stRunning : Byte := 0xFF

/-- CMD written to a mailbox through a port (26 R454): ignored and logged while a command runs; else the command runs next, with what the port held when CMD
came (20 R395). Without verified firmware only FWLOAD does (R459). -/
def State.startCommand (s : State) (port via : Nat) (cmd : Byte) : State :=
  let m := (s.port port).mb
  if m.status = stRunning then s.log 6 port cmd.toNat 0 0
  else
    let s := s.modPort port fun p => { p with mb := { m with cmd := cmd, status := stRunning, via := via, own := s.owns via } }
    match if s.svc.fwok || cmd == 10 then commandOf port cmd m.arg0 m.arg1 else none with
    | some i => { s with agenda := s.agenda ++ [.act i] }
    | none => s.setStatus port stBadarg

/-- A write within a mailbox: arguments first, CMD last. -/
def State.writeMailbox (s : State) (port via o : Nat) (bs : List Byte) : State :=
  let s := s.modPort port fun p => { p with mb := { p.mb with arg0 := BitVec.ofNat 64 (patchNat (p.mb.arg0.toNat * 2 ^ 64) 16 o bs / 2 ^ 64),
                                                              arg1 := BitVec.ofNat 64 (patchNat (p.mb.arg1.toNat * 2 ^ 128) 24 o bs / 2 ^ 128) } }
  match if o = 0 then bs.head? else none with
  | some c => s.startCommand port via c
  | none => s

/-- A write to the other registers of the space (20 R394): OWNSEM, mailboxes, NONCE; read-only bytes ignore it. -/
def State.writeRegister (s : State) (port off : Nat) (bs : List Byte) : State :=
  if off = 0x40 then s.writeOwner port (leNat bs)
  else if 0x1000 ≤ off ∧ off < 0x1080 then s.writeMailbox ((off - 0x1000) / 64) port (off % 64) bs
  else if 0x2000 ≤ off ∧ off < 0x6000 then
    let o := off % 0x2000
    s.modPort ((off - 0x2000) / 0x2000) fun p => { p with att := memWrite p.att o (bs.take (0x20 - o)) }
  else s
/-- Where the fields of the space begin and end (26 R449): a write is split there. -/
def spaceCuts : List Nat :=
  [0x40, 0x48, 0x80, 0x90, 0x100, 0x161, 0x180, 0x188, 0x1000, 0x1040, 0x1080, 0x2000, 0x4000, 0x6000, 0x100000, 0x200000, 0x1000000, 0x1001000]
/-- Bytes of a write from an offset up to the next field, or to the next entry of the context table. -/
def spaceRun (off : Nat) : Nat := if isCtxTable off then 256 - off % 256 else ((spaceCuts.find? (off < ·)).getD (2 ^ 26)) - off
/-- A write through a port within one field of the readback space. -/
def State.writeField (s : State) (port off : Nat) (bs : List Byte) : State :=
  if isGlobal off then s.writeGlobal port off bs
  else if isCtxTable off then s.writeCtxEntry off bs
  else s.writeRegister port off bs
/-- The fields of a write in ascending order; the fuel counts them. -/
def State.writeFields (s : State) (port off : Nat) (bs : List Byte) : Nat → State
  | 0 => s
  | n + 1 => if bs.isEmpty then s else (s.writeField port off (bs.take (spaceRun off))).writeFields port (off + spaceRun off) (bs.drop (spaceRun off)) n
/-- A write through a port to the readback space: every field that it covers takes its bytes (00 R3). -/
def State.writeSpace (s : State) (port off : Nat) (bs : List Byte) : State := s.writeFields port off bs bs.length

/-- GLOBAL_CONFIG_WRITE (20 R395, 26 R449), CONTEXT_TABLE_WRITE (26 R451) and REGISTER_WRITE (20 R394, 26 R449, R454): a write that begins there. -/
def execGlobalConfigWrite (port off : Nat) (data : List Byte) (s : State) : Out := .next (if isGlobal off then s.writeSpace port off data else s)
def execContextTableWrite (port off : Nat) (data : List Byte) (s : State) : Out := .next (if isCtxTable off then s.writeSpace port off data else s)
def execRegisterWrite (port off : Nat) (data : List Byte) (s : State) : Out :=
  .next (if isGlobal off || isCtxTable off then s else s.writeSpace port off data)

-- ### Accesses

/-- The host physical address `h` behind a port, as the model keeps it (20 R397). -/
def hostAddr (port h : Nat) : Nat := Config.hostBase + port * 2 ^ 56 + h

/-- A read of memory by a host processor: the newest bytes, whose releases it takes (notes/assumptions/5); an uncorrectable error is logged (26 R452 code 10). -/
def State.hostRead (s : State) (port addr len : Nat) : State :=
  let x := s.readLocs none (Reader.latest (hostThread port)) 0 (globLocs addr len)
  let s' := ((s.answer port x.1).joinView (.host port) (gained (hostThread port) scopeSystem x.2.msgs (View.fresh.withBytes x.2.stamps))).drawFor len
  match s.eccBad.find? fun a => addr ≤ a && a < addr + len with
  | some a => s'.logEcc a
  | none => s'
/-- HOST_ACCESS (20 R394): a host processor reads or writes the readback window of its port, device DRAM, doorbells among it, or its own memory
(addresses from Config.hostBase). Without verified firmware the module serves only the window (26 R459). -/
def execHostAccess (port addr len : Nat) (write : Option (List Byte)) (s : State) : Out :=
  let base := (s.port port).base.toNat
  .next (if !(s.port port).up then s
    else if base ≤ addr ∧ addr < base + 2 ^ 26 then
      match write with
      | some bs => s.writeSpace port (addr - base) bs
      | none =>
        let s' := s.answer port (readback s (addr - base) len)
        if overlaps (addr - base) len 0x40 8 then s'.takeOwner port else s'
    else if (s.svc.fwok && addr + len ≤ 2 ^ 39) ∨ Config.hostBase ≤ addr then
      match write with
      | some bs => s.putBytes (s.hostWriter port) addr bs
      | none => s.hostRead port addr len
    else s)

/-- LINK_DOWN (20 R399); OWNSEM is to leave a port that holds it (R396). -/
def execLinkDown (port : Nat) (s : State) : Out := .next (s.modPort port fun p =>
  { p with up := false, lost := p.lost.orElse fun _ => if s.owns port then some s.moment else none })
/-- LINK_TRAINING (26 R449): the link comes up, and the host sets the base of its readback window. -/
def execLinkTraining (port : Nat) (base : W64) (s : State) : Out := .next (s.modPort port fun p => { p with up := true, base := base })

-- ### Reset and power

/-- The stoker cores after a reset: all but the spare of the repair map serve the blocks in order (01 R13, 26 R456). -/
def coresFor (spare : Nat) : Vector StokerCore 5 :=
  Vector.ofFn fun i => { block := if i.val = spare then none else some (if i.val < spare then i.val else i.val - 1), halted := false }
/-- The slots of the repair map but for the stoker's (26 R456). -/
def repairSlots : List Nat := (List.range 248).map (4 * ·)

/-- The module after a reset with a memory (26 R456, R459, R460): the repair map, the stored image and the leaf counter are not volatile; the stored image
runs; every USED slot is in effect; the links stay as they are. A cluster lost, or a sub-array fenced, without a slot of the map to say so is in service again until it
fails again (DESIGN CHOICE, notes/assumptions/57, 60). The model's own counters go on. -/
def State.afterReset (s : State) (mem : Memory) : State :=
  let map := memSet s.svc.repairMap 0x3E3 0
  let v := { Svc.reset with fwok := Config.imageVerifies s.svc.image, fwver := Config.imageVersion s.svc.image, image := s.svc.image, running := s.svc.image,
                            leaf := s.svc.leaf, repairMap := map,
                            ports := s.svc.ports.map fun (p : Port) => { Port.reset with up := p.up, base := p.base } }
  let v := { v with inEffect := repairSlots.filter (slotUsed v) }
  let subs (e : Nat) : List Nat := ([0x20 + 8 * e, 0x24 + 8 * e].filter (slotWorks v)).map (slotReplaced v)
  { State.reset with mem := mem, svc := v, free := s.free, nextName := s.nextName, turns := s.turns,
                     stoker := { Stoker.reset with cores := coresFor (memGet map 0x3E1).toNat },
                     units := { Units.reset with clusters := (List.range 104).map fun e =>
                       { Cluster.reset with fenced := subs e, out := e < 96 && slotWorks v (4 * (e / 12)) && slotReplaced v (4 * (e / 12)) == e } } }

/-- A module reset: memory keeps its contents. -/
def State.moduleReset (s : State) : State := { (s.afterReset s.mem) with eccBad := s.eccBad }
/-- MODULE_RESET (26 R456, R458, R459). -/
def execModuleReset (s : State) : Out := .next s.moduleReset
/-- POWER_LOSS: device DRAM is lost; host memory is not the module's. -/
def execPowerLoss (s : State) : Out := .next (s.afterReset (s.mem.filter fun c => Config.hostBase ≤ c.1))

end Sys2Proof.Machine
end

