-- ==== Sys2Proof/Machine/Xmss.lean ====
section
/-!
DEFINITION. XMSS-SHAKE256_20_256 of NIST SP 800-208 (26 R460, R461): the identity key from its seeds, its public key and its signatures in the byte layout
of that standard. The spec names the standard and gives no algorithm: this file is PRESUMED from it (notes/assumptions/61).
-/
namespace Sys2Proof.Machine

/-- A number as `n` bytes, most significant first. -/
def beBytes (n x : Nat) : List Byte := (leBytes n x).reverse
/-- The keyed hash number `t`: 0 F, 1 H, 2 H_msg, 3 PRF, 4 PRF_keygen. -/
def xmssHash (t : Nat) (key m : List Byte) : List Byte := shake256 (beBytes 32 t ++ key ++ m)
def xorBytes (x y : List Byte) : List Byte := (x.zip y).map fun p => p.1 ^^^ p.2

/-- 32 bytes of a seed: 0 of the secret keys, 1 of the message keys, 2 the public one. -/
def xmssSeed (i : Nat) : List Byte := ((Config.identitySeed i) ++ List.replicate 32 0).take 32
def pubSeed : List Byte := xmssSeed 2

/-- A hash address in the one tree of the one layer: its type (0 a one-time key, 1 an L-tree, 2 the tree), its three words, key or mask. -/
def xmssAdrs (type a b c mask : Nat) : List Byte := beBytes 12 0 ++ [type, a, b, c, mask].flatMap (beBytes 4)
def xmssPrf (type a b c mask : Nat) : List Byte := xmssHash 3 pubSeed (xmssAdrs type a b c mask)

/-- `n` steps of chain `j` of one-time key `i`, from step `k`. -/
def wotsChain (i j : Nat) (x : List Byte) (k : Nat) : Nat → List Byte
  | 0 => x
  | n + 1 => wotsChain i j (xmssHash 0 (xmssPrf 0 i j k 0) (xorBytes x (xmssPrf 0 i j k 1))) (k + 1) n
/-- The secret element of a chain. -/
def wotsSecret (i j : Nat) : List Byte := xmssHash 4 (xmssSeed 0) (pubSeed ++ xmssAdrs 0 i j 0 0)
/-- A one-time public key: the ends of its 67 chains. -/
def wotsPublic (i : Nat) : List (List Byte) := (List.range 67).map fun j => wotsChain i j (wotsSecret i j) 0 15

/-- The digits in base 16 of a message of 32 bytes, then those of its checksum. -/
def nibbles (bs : List Byte) : List Nat := bs.flatMap fun b => [b.toNat / 16, b.toNat % 16]
def wotsDigits (m : List Byte) : List Nat :=
  let d := nibbles m
  d ++ (nibbles (beBytes 2 ((d.map fun x => 15 - x).sum * 16))).take 3
def wotsSign (i : Nat) (m : List Byte) : List (List Byte) := (wotsDigits m).zipIdx.map fun d => wotsChain i d.2 (wotsSecret i d.2) 0 d.1

/-- Two nodes hashed together at an address. -/
def randHash (type a b c : Nat) (x y : List Byte) : List Byte :=
  xmssHash 1 (xmssPrf type a b c 0) (xorBytes x (xmssPrf type a b c 1) ++ xorBytes y (xmssPrf type a b c 2))
/-- One level of an L-tree; an odd last node goes up as it is. -/
def ltreeLevel (i h : Nat) : Nat → List (List Byte) → List (List Byte)
  | k, x :: y :: xs => randHash 1 i h k x y :: ltreeLevel i h (k + 1) xs
  | _, xs => xs
/-- The root of the L-tree of a one-time key: seven levels for 67 ends. -/
def ltreeRoot (i : Nat) (pk : List (List Byte)) : List Byte := ((List.range 7).foldl (fun xs h => ltreeLevel i h 0 xs) pk).headD []
/-- Node `i` of a height of the tree. -/
def xmssNode : Nat → Nat → List Byte
  | 0, i => ltreeRoot i (wotsPublic i)
  | h + 1, i => randHash 2 0 h i (xmssNode h (2 * i)) (xmssNode h (2 * i + 1))

/-- The public key: algorithm number, root, public seed (68 bytes). -/
def identityKey : List Byte := beBytes 4 0x12 ++ xmssNode 20 0 ++ pubSeed
/-- The signature of a message with a leaf: the leaf's index, the randomiser, the one-time signature, the authentication path (2,820 bytes). -/
def identitySign (leaf : Nat) (m : List Byte) : List Byte :=
  let r := xmssHash 3 (xmssSeed 1) (beBytes 32 leaf)
  let digest := xmssHash 2 (r ++ xmssNode 20 0 ++ beBytes 32 leaf) m
  beBytes 4 leaf ++ r ++ (wotsSign leaf digest).flatten
    ++ (List.range 20).flatMap fun h => xmssNode h (if leaf / 2 ^ h % 2 = 0 then leaf / 2 ^ h + 1 else leaf / 2 ^ h - 1)

end Sys2Proof.Machine
end

