-- ==== Sys2Proof/Machine/Commands.lean ====
section
/-!
DEFINITION. The mailbox commands (26 R454-R457, R459-R461), the end of a grid (R448), the end of an invalidation (13 R276) and of a repair (R457).
-/
namespace Sys2Proof.Machine

-- ### Grids and gangs by name

/-- The grid of a name that is LIVE or HELD and has not met its end (26 R448), the oldest. -/
def State.gridToEnd (s : State) (name : W64) : Option Grid := s.grids.find? fun d => d.name == name.toNat && d.st == .live && !s.gridOver d
/-- The grid that a command names (26 R454): such a one, or one whose entry is still LIVE though its last workgroup has exited. -/
def State.gridNamed (s : State) (name : W64) : Option Grid := (s.gridToEnd name).or (s.grids.find? fun d => d.name == name.toNat && d.st == .live)
/-- A command on a grid; STATUS reads NOGRID without one. -/
def onGrid (s : State) (port : Nat) (name : W64) (f : Grid → State) : Out :=
  .next (match s.gridNamed name with
    | none => s.setStatus port stNogrid
    | some d => f d)
/-- The value of PREEMPT that names every gang. -/
abbrev everyGang : Nat := 2 ^ 63 - 1

/-- The record of a saved gang with its hold set or released; a released gang joins the candidates last (04 R79). -/
def State.holdGang (s : State) (d : Grid) (gang : Nat) : State :=
  let s := { s with saved := s.saved.map fun (r : SavedWg) => if r.wg.gid == d.gid && gangIdx d.desc r.wg.lw == gang then { r with held := true } else r }
  s.assignEntries s.saved.length
def State.releaseGang (s : State) (d : Grid) (gang : Nat) : State :=
  (s.savedGang d.gid gang).foldl (fun s r => if r.held then
    { s with nextName := s.nextName + 1, saved := s.saved.map fun x => if x.order == r.order then { x with held := false, rank := s.nextName } else x }
    else s) s

/-- PREEMPT of one gang (26 R454): a placed one is asked to stop, and to be held when HOLD says so; a saved one is then held. Of one that has exited in this FCLK the
request goes to what runs next on its cores (03 R58, 19 R390). -/
def State.preemptGang (s : State) (d : Grid) (hold : Bool) (gang : Nat) : State :=
  if !(s.gangWgs d.gid gang).isEmpty || s.gangResuming d.gid gang || (s.exits.any fun x => x.1 == d.gid && x.2.1 == gang) then
    s.askGang d.gid gang (if hold then .hostHold else .host)
  else if hold then s.holdGang d gang else s
/-- The gangs of a grid that are placed or saved, or have exited in this FCLK. -/
def State.startedGangs (s : State) (d : Grid) : List Nat :=
  (s.residentGangs d.gid ++ (((s.saved ++ s.resuming).filter fun r => r.wg.gid == d.gid).map fun r => gangIdx d.desc r.wg.lw)
    ++ (s.exits.filter fun x => x.1 == d.gid).map fun x => x.2.1).eraseDups

/-- PREEMPT (26 R454). -/
def execPreempt (port : Nat) (grid arg : W64) (s : State) : Out :=
  onGrid s port grid fun d =>
    let hold := arg.getLsbD 63
    let i := arg.toNat % 2 ^ 63
    if i = everyGang then ((s.startedGangs d).foldl (fun s g => s.preemptGang d hold g) s).setStatus port stOk
    else if d.desc.gangs ≤ i then s.setStatus port stBadarg
    else (s.preemptGang d hold i).setStatus port stOk

/-- RESUME (26 R454). -/
def execResume (port : Nat) (grid gang : W64) (s : State) : Out :=
  onGrid s port grid fun d =>
    if d.desc.gangs ≤ gang.toNat then s.setStatus port stBadarg else (s.releaseGang d gang.toNat).setStatus port stOk

-- ### ENDGRID

/-- The group of a slot stopped as for a pre-emption (26 R448): what it has issued is performed. -/
def State.stopSlot (s : State) (slot : Nat) : State :=
  match s.group? slot with
  | some g => let p := s.finish g; let q := p.1.endMid p.2; q.1.setGroup q.2
  | none => s
/-- What is left of a grid discarded (26 R448): issued words complete, then groups, workgroups, records, jobs and tasks are gone, their pins dropped,
their resources free. Stores that were performed stay, and come before the end of the packet (03 R55). -/
def State.discard (s : State) (gid : Nat) : State :=
  let slots := (s.groups.filter fun g => g.gid == gid).map Group.slot
  let s := slots.foldl State.stopSlot s
  let mine (r : SavedWg) : Bool := r.wg.gid == gid
  let gs := (s.groups.filter fun g => g.gid == gid) ++ ((s.saved ++ s.resuming).filter mine).flatMap SavedWg.groups
  let s := gs.foldl State.leaveHands s
  let s := (s.wgs.filter fun w => w.gid == gid).foldl (fun (u : State) w => { u with order := u.order.dropSpad gid w.lw }) s
  let held := ((s.groups.filter fun g => g.gid == gid).map fun g => (g.core, g.regs.length / 8))
    ++ (s.resuming.filter mine).map fun r => (r.wg.core, (r.groups.map fun g => g.regs.length / 8).sum)
  let s := slots.foldl State.removeGroup s
  let s := { s with wgs := s.wgs.filter fun w => w.gid != gid, saved := s.saved.filter fun r => !mine r, resuming := s.resuming.filter fun r => !mine r,
                    jobs := s.jobs.filter fun j => j.gid != gid }
  let s := (List.range 8).foldl State.settleStore (s.assignEntries s.saved.length)
  held.foldl (fun s x => s.freed x.1 x.2) (s.dropNames View.fresh (gs.flatMap fun g => g.pins.toList))

/-- ENDGRID (26 R448): the packet completes with ENDED. A grid whose last workgroup has exited retires normally, and the command reports NOGRID. -/
def execEndgrid (port : Nat) (grid : W64) (s : State) : Out :=
  .next (match s.gridToEnd grid with
    | none => s.setStatus port stNogrid
    | some d => (((s.discard d.gid).retire d).pktDone d.q d.pi errEnded).setStatus port stOk)

-- ### Cuts, invalidations, quotas, queues

/-- CUT (22 R435): each placed gang runs to its next completed STEP. STATUS runs until CUT_COMPLETE. -/
def execCut (port : Nat) (grid : W64) (s : State) : Out :=
  onGrid s port grid fun d =>
    let k := maxCount ((s.saved.filter fun r => r.wg.gid == d.gid).flatMap SavedWg.groups)
    s.modGrid d.gid fun x => { x with cut := x.cut ++ [port], cutMax := if x.cut.isEmpty then k else x.cutMax }

/-- INVAL (13 R276). -/
def execInval (port : Nat) (ctx range : W64) (s : State) : Out :=
  .next (if 4096 ≤ ctx.toNat then s.setStatus port stBadarg else s.modPort port fun p => { p with inval := some (ctx.toNat, range.toNat) })
/-- The range of an INVAL (26 R454): a base and 2^n bytes. -/
def invalRange (x : Nat) : Nat × Nat := (bits x 56 12 * 2 ^ 12, bits x 56 12 * 2 ^ 12 + 2 ^ (x % 64))
/-- Whether an access of a context to a range, whose address has been translated, is still to be performed. -/
def State.accessWaits (s : State) (ctx lo hi : Nat) : Bool :=
  let hit (a : LaneAcc) : Bool := (match a.place with
    | .glob _ => true
    | .spad _ _ => false) && lo ≤ a.ea && a.ea < hi
  s.groups.any fun g => s.ctxOfGrid g.gid == ctx && (g.mid.toList ++ g.late.map Late.word).any fun w => (w.accs.drop w.done).any hit
/-- INVAL_COMPLETE (13 R276): no access uses an entry of the range any more that was old at this moment. It waits for the accesses that have been translated and are
still to be performed. -/
def execInvalComplete (port : Nat) (s : State) : Out :=
  .next (match (s.port port).inval with
    | some (ctx, x) => if s.accessWaits ctx (invalRange x).1 (invalRange x).2 then s else ((s.modPort port fun p => { p with inval := none }).invalidate ctx (invalRange x).1 (invalRange x).2).setStatus port stOk
    | none => s)

/-- QUOTAADD (21 R415, R416). -/
def execQuotaadd (port : Nat) (grid uj : W64) (s : State) : Out :=
  onGrid s port grid fun d =>
    if d.unl then s.setStatus port stBadarg
    else (s.modGrid d.gid fun x => { x with left := x.left + uj.toNat, quotaHeld := x.quotaHeld && x.left + uj.toNat == 0 }).setStatus port stOk

/-- A command of global configuration (20 R395): it takes effect only when its CMD came through the port that held OWNSEM then; else it reports NOTOWNER, and the error
log says so (26 R452 code 5). -/
def ownerOnly (s : State) (port : Nat) (f : Out) : Out :=
  let m := (s.port port).mb
  if m.own then f else .next ((s.logGlobal m.via (0x1000 + 64 * port) [m.cmd]).setStatus port stNotowner)

/-- ENDQF (03 R66): a FAULTED queue returns to IDLE. -/
def execEndqf (port : Nat) (q : W64) (s : State) : Out :=
  ownerOnly s port <| .next (if 65536 ≤ q.toNat ∨ !s.stoker.faulted.contains q.toNat then s.setStatus port stBadarg
    else
      let s := { s with stoker := { s.stoker with faulted := s.stoker.faulted.filter (· != q.toNat) } }
      ((if s.serves then s.qWrite q.toNat 0x22 1 0 else none).getD s).setStatus port stOk)

-- ### Repair

/-- The units that the row of a slot allows (26 R456), none for the stoker slot and for an offset that is no slot. -/
def repairUnits (off : Nat) : Option (Nat × Nat) :=
  if off % 4 ≠ 0 then none
  else if off < 0x20 then some (12 * (off / 4), 12)
  else if off < 0x360 then some (0, 17)
  else if off < 0x3A0 then some (0, 24)
  else if off < 0x3E0 then some (0, 144)
  else none
/-- The cluster of a cluster slot. -/
def isClusterSlot (off : Nat) : Bool := off < 0x20
/-- The engine of a sub-array slot. -/
def slotEngine (off : Nat) : Option Nat := if 0x20 ≤ off ∧ off < 0x360 then some ((off - 0x20) / 8) else none

/-- A cluster taken from service (26 R457): no placement, and its workgroups migrate at their next STEP. -/
def State.retireCluster (s : State) (cl : Nat) : State :=
  (List.range 4).foldl (fun s i => s.askMigration (4 * cl + i) true) (s.modCluster cl fun c => { c with out := true })

/-- REPAIR (26 R457). -/
def execRepair (port : Nat) (slot unit : W64) (s : State) : Out :=
  let off := slot.toNat
  ownerOnly s port <| .next (match repairUnits off with
      | none => s.setStatus port stBadarg
      | some (first, n) =>
        if unit.toNat < first ∨ first + n ≤ unit.toNat ∨ slotUsed s.svc off then s.setStatus port stBadarg
        else
          let s := s.repairBytes off (leBytes 4 (2 ^ 31 + unit.toNat))
          (if isClusterSlot off then s.retireCluster unit.toNat else s).setStatus port stOk)

/-- Whether the unit that a slot replaces holds no work: a cluster without workgroups, an engine without queued words. -/
def State.unitIdle (s : State) (off : Nat) : Bool :=
  if isClusterSlot off then (List.range 4).all fun i => (s.coreTenants (4 * slotReplaced s.svc off + i)).isEmpty
  else match slotEngine off with
    | some e => s.groups.all fun g => g.cluster != e || g.mq.isEmpty
    | none => true

/-- REPAIR_TAKES_EFFECT (26 R457): the spare of a USED slot takes the place of its unit, which the error log records (R452 code 4). -/
def execRepairTakesEffect (slot : Nat) (s : State) : Out :=
  .next (if (repairUnits slot).isSome && slotUsed s.svc slot && !s.svc.inEffect.contains slot && s.unitIdle slot then
    let unit := slotReplaced s.svc slot
    let s := { s with svc := { s.svc with inEffect := s.svc.inEffect ++ [slot] } }
    let s := match slotEngine slot with
      | some e => s.modCluster e fun c => { c with fenced := c.fenced ++ [unit], tests := c.tests.filter fun x => x.1 != unit }
      | none => s
    s.log 4 slot unit 0 0
  else s)

/-- The slots of the row that a slot begins, of the rows whose units the hardware does not fence itself: clusters, vault channels, Carelle lanes (26 R456). -/
def rowSlots (off : Nat) : List Nat :=
  if off < 0x20 ∧ off % 4 = 0 then [off]
  else if 0x360 ≤ off ∧ off < 0x3A0 ∧ off % 8 = 0 then [off, off + 4]
  else if off = 0x3A0 ∨ off = 0x3C0 then (List.range 8).map fun i => off + 4 * i
  else []
/-- A unit fails, or the spare of a cluster row, when no spare of its row is left (01 R24): the error log says so (26 R452 code 4), and a cluster without a working
substitute takes no placement; its workgroups move at their next STEP (DESIGN CHOICE, notes/assumptions/60). -/
def State.loseUnit (s : State) (off unit : Nat) : State :=
  let mine : Bool := match repairUnits off with
    | some (first, n) => (first ≤ unit && unit < first + n) || (isClusterSlot off && unit == 96 + off / 4)
    | none => false
  if rowSlots off ≠ [] ∧ mine ∧ (rowSlots off).all (slotUsed s.svc) then
    (if isClusterSlot off then s.retireCluster unit else s).log 4 0xFFFF unit 0 0
  else s

-- ### Identity

/-- What ATTEST leaves in the port's buffer (26 R461): ID, LEAF, SIGLEN, FWHASH, SIG, PUBKEY, RMAP; the bytes between are zero. -/
def attestBytes (v : Svc) (nonce : List Byte) (leaf : Nat) : List Byte :=
  let id := leBytes 8 (idReg v)
  let rmap := memRead v.repairMap 0 4096
  let fwhash := shake256 v.running
  let digest := shake256 (nonce ++ id ++ rmap ++ fwhash)
  let zeros (n : Nat) : List Byte := List.replicate n 0
  id ++ leBytes 4 leaf ++ leBytes 4 2820 ++ fwhash ++ zeros 48 ++ identitySign leaf digest ++ zeros 124 ++ identityKey ++ zeros 956 ++ rmap

/-- ATTEST (26 R460, R461): the counter advances first, then the module signs with the old index. A power loss between the two leaves that leaf spent.
An ATTEST waits while the other port's runs. -/
def execAttest (port : Nat) (s : State) : Out :=
  let again (s : State) : State := { s with agenda := s.agenda ++ [.act (.attest port)] }
  .next (match (s.port port).leaf with
    | some i =>
      (s.modPort port fun p => { p with leaf := none, att := memWrite p.att 0x20 (attestBytes s.svc (memRead p.att 0 32) i) }).setStatus port stOk
    | none =>
      if s.svc.ports.any fun p => p.leaf.isSome then again s
      else if 2 ^ 20 ≤ s.svc.leaf then s.setStatus port stExhausted
      else again ({ s with svc := { s.svc with leaf := s.svc.leaf + 1 } }.modPort port fun p => { p with leaf := some s.svc.leaf }))

-- ### Firmware and records

/-- FWLOAD (26 R459). -/
def execFwload (port : Nat) (addr len : W64) (s : State) : Out :=
  let a := addr.toNat
  let n := len.toNat
  ownerOnly s port <|
  if a % 4096 ≠ 0 ∨ 2 ^ 56 < a + n ∨ n % 4096 ≠ 0 ∨ n < 2 ^ 16 ∨ 2 ^ 24 < n then .next (s.setStatus port stBadarg)
  else
    let bs := loadBytes s 0 (hostAddr port a) n
    let s := s.moduleRead (hostAddr port a) n
    if !Config.imageVerifies bs then .next (s.setStatus port stBadimage)
    else
      let s := { s with svc := { s.svc with image := bs } }.setStatus port stOk
      .next (if s.svc.fwok then s else s.moduleReset)

/-- A host address of a record that is not 4 KiB-aligned, or does not lie behind one port (20 R397). -/
def recAddrBad (addr size : Nat) : Bool := addr % 4096 != 0 || 2 ^ 56 < addr + size
/-- RECREAD (26 R454): the record of a saved workgroup, to host memory. -/
def execRecread (port : Nat) (idx addr : W64) (s : State) : Out :=
  .next (match s.savedAt idx.toNat with
    | none => s.setStatus port (if addr.toNat % 4096 ≠ 0 then stBadarg else stNogrid)
    | some r =>
      if recAddrBad addr.toNat r.size then s.setStatus port stBadarg
      else ((s.recordRead r).putBytes (s.hostWriter port) (hostAddr port addr.toNat) (s.recordNow r).bytes).setStatus port stOk)

/-- Whether a record may be written over (26 R455): held by itself, or saved by the quota that holds its grid (22 R424). -/
def State.recOpen (s : State) (r : SavedWg) : Bool := r.held || (r.byQuota && s.quotaHeld r.wg.gid)
/-- RECWRITE (26 R455): a record from host memory, over a held one that it agrees with. -/
def execRecwrite (port : Nat) (idx addr : W64) (s : State) : Out :=
  .next (match s.savedAt idx.toNat with
    | none => s.setStatus port stBadarg
    | some r =>
      if recAddrBad addr.toNat r.size || !s.recOpen r then s.setStatus port stBadarg
      else
        let u := s.moduleRead (hostAddr port addr.toNat) r.size
        match r.rewrite (loadBytes s 0 (hostAddr port addr.toNat) r.size) with
        | none => u.setStatus port stBadarg
        | some r' =>
          let u := { u with saved := u.saved.map fun (x : SavedWg) => if x.order == r.order then r' else x }
          (if r.spilled then u.writeRecord r.savedAt r' else u).setStatus port stOk)

end Sys2Proof.Machine
end

