-- ==== Sys2Proof/Machine/LaneFp.lean ====
section
/-!
DEFINITION. FP32 and packed 16-bit lane arithmetic (10 R210-R214).
-/
namespace Sys2Proof.Machine

def execFadd (h : LaneCtl) (d a : VReg) (b : BOpnd) (f : BitVec 4) (s : State) : Out := alu2 s h latA .fp d a b (aluFadd f)
def execFsub (h : LaneCtl) (d a : VReg) (b : BOpnd) (f : BitVec 4) (s : State) : Out := alu2 s h latA .fp d a b (aluFsub f)
def execFmul (h : LaneCtl) (d a : VReg) (b : BOpnd) (f : BitVec 4) (s : State) : Out := alu2 s h latA .fp d a b (aluFmul f)
def execFfma (h : LaneCtl) (d a : VReg) (b : BOpnd) (c : VReg) (f : BitVec 4) (s : State) : Out := alu3 s h latA .fp d a b c (aluFfma f)
def execFmin (h : LaneCtl) (d a : VReg) (b : BOpnd) (_f : BitVec 4) (s : State) : Out := alu2 s h latA .fp d a b aluFmin
def execFmax (h : LaneCtl) (d a : VReg) (b : BOpnd) (_f : BitVec 4) (s : State) : Out := alu2 s h latA .fp d a b aluFmax
/-- FCMP (10 R212). -/
def execFcmp (h : LaneCtl) (m : BitVec 3) (a : VReg) (b : BOpnd) (f : BitVec 4) (s : State) : Out :=
  aluMask s h latA .fp m a b fun x y => fCompare f.toNat x.toNat y.toNat
def execFclass (h : LaneCtl) (d a : VReg) (_f : BitVec 4) (s : State) : Out := alu1 s h latA d a aluFclass
/-- FSCALE: its immediate is an integer (10 R199). -/
def execFscale (h : LaneCtl) (d a : VReg) (b : BOpnd) (f : BitVec 4) (s : State) : Out := alu2 s h latA .int d a b (aluFscale f)
def execFrnd (h : LaneCtl) (d a : VReg) (f : BitVec 4) (s : State) : Out := alu1 s h latA d a (aluFrnd f)
def execHadd2 (h : LaneCtl) (d a : VReg) (b : BOpnd) (f : BitVec 4) (s : State) : Out := alu2 s h latA .packed d a b (aluAdd2 fp16 f)
def execHmul2 (h : LaneCtl) (d a : VReg) (b : BOpnd) (f : BitVec 4) (s : State) : Out := alu2 s h latA .packed d a b (aluMul2 fp16 f)
def execHfma2 (h : LaneCtl) (d a : VReg) (b : BOpnd) (c : VReg) (f : BitVec 4) (s : State) : Out := alu3 s h latA .packed d a b c (aluFma2 fp16 f)
def execBadd2 (h : LaneCtl) (d a : VReg) (b : BOpnd) (f : BitVec 4) (s : State) : Out := alu2 s h latA .packed d a b (aluAdd2 bf16 f)
def execBmul2 (h : LaneCtl) (d a : VReg) (b : BOpnd) (f : BitVec 4) (s : State) : Out := alu2 s h latA .packed d a b (aluMul2 bf16 f)
def execBfma2 (h : LaneCtl) (d a : VReg) (b : BOpnd) (c : VReg) (f : BitVec 4) (s : State) : Out := alu3 s h latA .packed d a b c (aluFma2 bf16 f)

end Sys2Proof.Machine
end

