-- ==== Sys2Proof/Machine/LaneInt.lean ====
section
/-!
DEFINITION. Integer lane arithmetic (10 R202-R209).
-/
namespace Sys2Proof.Machine

def execIadd (h : LaneCtl) (d a : VReg) (b : BOpnd) (f : BitVec 4) (s : State) : Out := alu2 s h latB .int d a b (aluAdd f)
def execIsub (h : LaneCtl) (d a : VReg) (b : BOpnd) (f : BitVec 4) (s : State) : Out := alu2 s h latB .int d a b (aluSub f)
def execIadd3 (h : LaneCtl) (d a : VReg) (b : BOpnd) (c : VReg) (f : BitVec 4) (s : State) : Out := alu3 s h latB .int d a b c (aluAdd3 f)
def execImul (h : LaneCtl) (d a : VReg) (b : BOpnd) (_f : BitVec 4) (s : State) : Out := alu2 s h latA .int d a b aluMul
def execImulh (h : LaneCtl) (d a : VReg) (b : BOpnd) (f : BitVec 4) (s : State) : Out := alu2 s h latA .int d a b (aluMulh f)
def execImad (h : LaneCtl) (d a : VReg) (b : BOpnd) (c : VReg) (f : BitVec 4) (s : State) : Out := alu3 s h latA .int d a b c (aluMad f)
def execIwadd (h : LaneCtl) (d a : VReg) (b : BOpnd) (f : BitVec 4) (s : State) : Out := alu2 s h latB .int d a b (aluWadd f)
def execIdp4 (h : LaneCtl) (d a : VReg) (b : BOpnd) (c : VReg) (f : BitVec 4) (s : State) : Out := alu3 s h latA .int d a b c (aluDp4 f)
def execImin (h : LaneCtl) (d a : VReg) (b : BOpnd) (f : BitVec 4) (s : State) : Out := alu2 s h latB .int d a b (aluMin f)
def execImax (h : LaneCtl) (d a : VReg) (b : BOpnd) (f : BitVec 4) (s : State) : Out := alu2 s h latB .int d a b (aluMax f)
def execIabs (h : LaneCtl) (d a : VReg) (f : BitVec 4) (s : State) : Out := alu1 s h latB d a (aluAbs f)
def execIand (h : LaneCtl) (d a : VReg) (b : BOpnd) (_f : BitVec 4) (s : State) : Out := alu2 s h latB .int d a b (· &&& ·)
def execIor (h : LaneCtl) (d a : VReg) (b : BOpnd) (_f : BitVec 4) (s : State) : Out := alu2 s h latB .int d a b (· ||| ·)
def execIxor (h : LaneCtl) (d a : VReg) (b : BOpnd) (_f : BitVec 4) (s : State) : Out := alu2 s h latB .int d a b (· ^^^ ·)
def execInot (h : LaneCtl) (d a : VReg) (_f : BitVec 4) (s : State) : Out := alu1 s h latB d a (~~~ ·)
def execIshl (h : LaneCtl) (d a : VReg) (b : BOpnd) (f : BitVec 4) (s : State) : Out := alu2 s h latB .int d a b (aluShl f)
def execIshr (h : LaneCtl) (d a : VReg) (b : BOpnd) (f : BitVec 4) (s : State) : Out := alu2 s h latB .int d a b (aluShr f)
def execIsra (h : LaneCtl) (d a : VReg) (b : BOpnd) (f : BitVec 4) (s : State) : Out := alu2 s h latB .int d a b (aluSra f)
def execIbfe (h : LaneCtl) (d a : VReg) (b : BOpnd) (f : BitVec 4) (s : State) : Out := alu2 s h latB .int d a b (aluBfe f)
def execIbfi (h : LaneCtl) (d a : VReg) (b : BOpnd) (c : VReg) (_f : BitVec 4) (s : State) : Out := alu3 s h latB .int d a b c aluBfi
def execIpopc (h : LaneCtl) (d a : VReg) (_f : BitVec 4) (s : State) : Out := alu1 s h latB d a aluPopc
def execIclz (h : LaneCtl) (d a : VReg) (_f : BitVec 4) (s : State) : Out := alu1 s h latB d a aluClz
/-- ICMP (10 R208). -/
def execIcmp (h : LaneCtl) (m : BitVec 3) (a : VReg) (b : BOpnd) (f : BitVec 4) (s : State) : Out := aluMask s h latB .int m a b (intCond f.toNat)
/-- ISEL (10 R209). -/
def execIsel (h : LaneCtl) (d a : VReg) (b : BOpnd) (m : BitVec 3) (_f : BitVec 4) (s : State) : Out :=
  laneAlu s h latB d (regName a :: opndRegs b) fun g _ =>
    let va := g.readReg s.free (regName a)
    let vb := g.readB s.free .int b
    let mk := g.mask s.free m
    Vector.ofFn fun l => if mk.getLsbD l.val then va[l] else vb[l]

end Sys2Proof.Machine
end

