-- ==== Sys2Proof/Machine/ScalarAlu.lean ====
section
/-!
DEFINITION. Integer and address arithmetic, compares and selects of the scalar stream (08 R147-R155).
-/
namespace Sys2Proof.Machine

/-- A scalar word of two sources. -/
def scalar2 (s : State) (d a b : BitVec 8) (op : W64 → W64 → W64) : Out := scalarAlu s d fun g => op (g.sreg s.free a) (g.sreg s.free b)
/-- A scalar word that reads its destination too. -/
def scalar3 (s : State) (d a b : BitVec 8) (op : W64 → W64 → W64 → W64) : Out :=
  scalarAlu s d fun g => op (g.sreg s.free d) (g.sreg s.free a) (g.sreg s.free b)

/-- Bits [127:64] of the product (08 R150). -/
def mulHigh (u : Bool) (a b : W64) : W64 := wrap 64 ((if u then (a.toNat : Int) * b.toNat else a.toInt * b.toInt) / 2 ^ 64)
/-- The shift count: the low six bits. -/
def shift6 (b : W64) : Nat := b.toNat % 64
def sminOp (u : Bool) (a b : W64) : W64 := if u then (if b.ult a then b else a) else (if b.slt a then b else a)
def smaxOp (u : Bool) (a b : W64) : W64 := if u then (if a.ult b then b else a) else (if a.slt b then b else a)
/-- Quotient and remainder of 08 R151, rounded toward zero; by zero: all ones and the dividend. -/
def sdivOp (u : Bool) (a b : W64) : W64 := if b = 0 then BitVec.allOnes 64 else if u then a / b else wrap 64 (Int.tdiv a.toInt b.toInt)
def sremOp (u : Bool) (a b : W64) : W64 := if b = 0 then a else if u then a % b else wrap 64 (Int.tmod a.toInt b.toInt)

/-- The field descriptor of SBFE and SBFI (08 R152). -/
def sfPos (b : W64) : Nat := b.toNat % 64
def sfLen (b : W64) : Nat := min (bits b.toNat 14 8) 64
def sbfeOp (a b : W64) : W64 :=
  let len := sfLen b
  let f := a.toNat / 2 ^ sfPos b % 2 ^ len
  if len = 0 then 0 else if b.getLsbD 16 then wrap 64 (sgn len f) else BitVec.ofNat 64 f
def sbfiOp (d a b : W64) : W64 :=
  let m : W64 := BitVec.ofNat 64 ((2 ^ sfLen b - 1) * 2 ^ sfPos b)
  (d &&& ~~~m) ||| (a <<< sfPos b &&& m)

def execSadd (d a b : BitVec 8) (s : State) : Out := scalar2 s d a b (· + ·)
def execSsub (d a b : BitVec 8) (s : State) : Out := scalar2 s d a b (· - ·)
def execSaddi (d a : BitVec 8) (i : BitVec 9) (s : State) : Out := scalar2 s d a 0 fun x _ => x + i.signExtend 64
def execSmul (d a b : BitVec 8) (s : State) : Out := scalar2 s d a b (· * ·)
def execSmulh (d a b : BitVec 8) (u : Bool) (s : State) : Out := scalar2 s d a b (mulHigh u)

/-- SDIV and SREM run for a while and can be abandoned (08 R148, R149): the result is written by SCALAR_RESULT_READY. -/
def divide (s : State) (d a b : BitVec 8) (op : W64 → W64 → W64) : Out :=
  scalarWord s d fun g =>
    .next (s.draw.setGroup { g.advance with spend := some { idx := g.spc, d := d, v := op (g.sreg s.free a) (g.sreg s.free b), div := true, skip := g.skip } })
def execSdiv (d a b : BitVec 8) (u : Bool) (s : State) : Out := divide s d a b (sdivOp u)
def execSrem (d a b : BitVec 8) (u : Bool) (s : State) : Out := divide s d a b (sremOp u)

def execSand (d a b : BitVec 8) (s : State) : Out := scalar2 s d a b (· &&& ·)
def execSor (d a b : BitVec 8) (s : State) : Out := scalar2 s d a b (· ||| ·)
def execSxor (d a b : BitVec 8) (s : State) : Out := scalar2 s d a b (· ^^^ ·)
def execSshl (d a b : BitVec 8) (s : State) : Out := scalar2 s d a b fun x y => x <<< shift6 y
def execSshr (d a b : BitVec 8) (s : State) : Out := scalar2 s d a b fun x y => x >>> shift6 y
def execSsra (d a b : BitVec 8) (s : State) : Out := scalar2 s d a b fun x y => x.sshiftRight (shift6 y)
def execSmin (d a b : BitVec 8) (u : Bool) (s : State) : Out := scalar2 s d a b (sminOp u)
def execSmax (d a b : BitVec 8) (u : Bool) (s : State) : Out := scalar2 s d a b (smaxOp u)
/-- SLUI (08 R153). -/
def execSlui (d : BitVec 8) (i : BitVec 17) (s : State) : Out := scalar3 s d 0 0 fun x _ _ => x <<< 17 + i.setWidth 64
def execSlea (d a b : BitVec 8) (dw : Bool) (s : State) : Out := scalar2 s d a b fun x y => x + (if dw then y <<< 3 else y <<< 2)
def execSbfe (d a b : BitVec 8) (s : State) : Out := scalar2 s d a b sbfeOp
def execSbfi (d a b : BitVec 8) (s : State) : Out := scalar3 s d a b sbfiOp
def execSclz (d a : BitVec 8) (s : State) : Out := scalar2 s d a 0 fun x _ => BitVec.ofNat 64 (leadZeros x)
def execSpopc (d a : BitVec 8) (s : State) : Out := scalar2 s d a 0 fun x _ => BitVec.ofNat 64 (popCount x)
def execSsel (d a b : BitVec 8) (s : State) : Out := scalar3 s d a b fun x y z => if x != 0 then y else z
/-- SCMP (08 R154). -/
def execScmp (c : BitVec 3) (d a b : BitVec 8) (s : State) : Out := scalar2 s d a b fun x y => if intCond c.toNat x y then 1 else 0

/-- A scalar result arrives (08 R148). -/
def execScalarResultReady (slot : Nat) (s : State) : Out :=
  withGroup s slot fun g => match g.spend with
    | some p => s.draw.setGroup { (g.writeSreg s.free p.d p.v) with spend := none }
    | none => s

end Sys2Proof.Machine
end

