-- ==== Sys2Proof/Machine/Dispatch.lean ====
section
/-!
DEFINITION. The meaning of every instruction: one arm per constructor, each one direct call.
-/
namespace Sys2Proof.Machine

def exec (i : Instr) (s : State) : Host.Outcome State Fault Refusal :=
  match i with
  | .sadd d a b => Sys2Proof.Machine.execSadd d a b s
  | .ssub d a b => Sys2Proof.Machine.execSsub d a b s
  | .saddi d a imm => Sys2Proof.Machine.execSaddi d a imm s
  | .smul d a b => Sys2Proof.Machine.execSmul d a b s
  | .smulh d a b u => Sys2Proof.Machine.execSmulh d a b u s
  | .sdiv d a b u => Sys2Proof.Machine.execSdiv d a b u s
  | .srem d a b u => Sys2Proof.Machine.execSrem d a b u s
  | .sand d a b => Sys2Proof.Machine.execSand d a b s
  | .sor d a b => Sys2Proof.Machine.execSor d a b s
  | .sxor d a b => Sys2Proof.Machine.execSxor d a b s
  | .sshl d a b => Sys2Proof.Machine.execSshl d a b s
  | .sshr d a b => Sys2Proof.Machine.execSshr d a b s
  | .ssra d a b => Sys2Proof.Machine.execSsra d a b s
  | .smin d a b u => Sys2Proof.Machine.execSmin d a b u s
  | .smax d a b u => Sys2Proof.Machine.execSmax d a b u s
  | .slui d imm => Sys2Proof.Machine.execSlui d imm s
  | .slea d a b dw => Sys2Proof.Machine.execSlea d a b dw s
  | .sbfe d a b => Sys2Proof.Machine.execSbfe d a b s
  | .sbfi d a b => Sys2Proof.Machine.execSbfi d a b s
  | .sclz d a => Sys2Proof.Machine.execSclz d a s
  | .spopc d a => Sys2Proof.Machine.execSpopc d a s
  | .ssel d a b => Sys2Proof.Machine.execSsel d a b s
  | .scmp c d a b => Sys2Proof.Machine.execScmp c d a b s
  | .sld t d a imm => Sys2Proof.Machine.execSld t d a imm s
  | .sst t b a imm => Sys2Proof.Machine.execSst t b a imm s
  | .sldc d imm => Sys2Proof.Machine.execSldc d imm s
  | .sbr o => Sys2Proof.Machine.execSbr o s
  | .sbc c a o => Sys2Proof.Machine.execSbc c a o s
  | .brl u n k o => Sys2Proof.Machine.execBrl u n k o s
  | .scall d o => Sys2Proof.Machine.execScall d o s
  | .sloop a o => Sys2Proof.Machine.execSloop a o s
  | .lrun count target => Sys2Proof.Machine.execLrun count target s
  | .sret a => Sys2Proof.Machine.execSret a s
  | .lsync => Sys2Proof.Machine.execLsync s
  | .waitc k n => Sys2Proof.Machine.execWaitc k n s
  | .barw id => Sys2Proof.Machine.execBarw id s
  | .barg id => Sys2Proof.Machine.execBarg id s
  | .step n => Sys2Proof.Machine.execStep n s
  | .phint n => Sys2Proof.Machine.execPhint n s
  | .sget d r => Sys2Proof.Machine.execSget d r s
  | .sset r a => Sys2Proof.Machine.execSset r a s
  | .trap n => Sys2Proof.Machine.execTrap n s
  | .rett => Sys2Proof.Machine.execRett s
  | .exit => Sys2Proof.Machine.execExit s
  | .grow n => Sys2Proof.Machine.execGrow n s
  | .shrink n => Sys2Proof.Machine.execShrink n s
  | .setbnd n => Sys2Proof.Machine.execSetbnd n s
  | .pin k a => Sys2Proof.Machine.execPin k a s
  | .unpin k => Sys2Proof.Machine.execUnpin k s
  | .reclaim d a => Sys2Proof.Machine.execReclaim d a s
  | .oapp d a => Sys2Proof.Machine.execOapp d a s
  | .odecl a => Sys2Proof.Machine.execOdecl a s
  | .fork d a => Sys2Proof.Machine.execFork d a s
  | .rvz a => Sys2Proof.Machine.execRvz a s
  | .wpwait n a => Sys2Proof.Machine.execWpwait n a s
  | .tspawn a b => Sys2Proof.Machine.execTspawn a b s
  | .tdone => Sys2Proof.Machine.execTdone s
  | .put a => Sys2Proof.Machine.execPut a s
  | .wcwait a b => Sys2Proof.Machine.execWcwait a b s
  | .iadd h d a b f => Sys2Proof.Machine.execIadd h d a b f s
  | .isub h d a b f => Sys2Proof.Machine.execIsub h d a b f s
  | .iadd3 h d a b c f => Sys2Proof.Machine.execIadd3 h d a b c f s
  | .imul h d a b f => Sys2Proof.Machine.execImul h d a b f s
  | .imulh h d a b f => Sys2Proof.Machine.execImulh h d a b f s
  | .imad h d a b c f => Sys2Proof.Machine.execImad h d a b c f s
  | .iwadd h d a b f => Sys2Proof.Machine.execIwadd h d a b f s
  | .idp4 h d a b c f => Sys2Proof.Machine.execIdp4 h d a b c f s
  | .imin h d a b f => Sys2Proof.Machine.execImin h d a b f s
  | .imax h d a b f => Sys2Proof.Machine.execImax h d a b f s
  | .iabs h d a f => Sys2Proof.Machine.execIabs h d a f s
  | .iand h d a b f => Sys2Proof.Machine.execIand h d a b f s
  | .ior h d a b f => Sys2Proof.Machine.execIor h d a b f s
  | .ixor h d a b f => Sys2Proof.Machine.execIxor h d a b f s
  | .inot h d a f => Sys2Proof.Machine.execInot h d a f s
  | .ishl h d a b f => Sys2Proof.Machine.execIshl h d a b f s
  | .ishr h d a b f => Sys2Proof.Machine.execIshr h d a b f s
  | .isra h d a b f => Sys2Proof.Machine.execIsra h d a b f s
  | .ibfe h d a b f => Sys2Proof.Machine.execIbfe h d a b f s
  | .ibfi h d a b c f => Sys2Proof.Machine.execIbfi h d a b c f s
  | .ipopc h d a f => Sys2Proof.Machine.execIpopc h d a f s
  | .iclz h d a f => Sys2Proof.Machine.execIclz h d a f s
  | .icmp h m a b f => Sys2Proof.Machine.execIcmp h m a b f s
  | .isel h d a b m f => Sys2Proof.Machine.execIsel h d a b m f s
  | .fadd h d a b f => Sys2Proof.Machine.execFadd h d a b f s
  | .fsub h d a b f => Sys2Proof.Machine.execFsub h d a b f s
  | .fmul h d a b f => Sys2Proof.Machine.execFmul h d a b f s
  | .ffma h d a b c f => Sys2Proof.Machine.execFfma h d a b c f s
  | .fmin h d a b f => Sys2Proof.Machine.execFmin h d a b f s
  | .fmax h d a b f => Sys2Proof.Machine.execFmax h d a b f s
  | .fcmp h m a b f => Sys2Proof.Machine.execFcmp h m a b f s
  | .fclass h d a f => Sys2Proof.Machine.execFclass h d a f s
  | .fscale h d a b f => Sys2Proof.Machine.execFscale h d a b f s
  | .frnd h d a f => Sys2Proof.Machine.execFrnd h d a f s
  | .hadd2 h d a b f => Sys2Proof.Machine.execHadd2 h d a b f s
  | .hmul2 h d a b f => Sys2Proof.Machine.execHmul2 h d a b f s
  | .hfma2 h d a b c f => Sys2Proof.Machine.execHfma2 h d a b c f s
  | .badd2 h d a b f => Sys2Proof.Machine.execBadd2 h d a b f s
  | .bmul2 h d a b f => Sys2Proof.Machine.execBmul2 h d a b f s
  | .bfma2 h d a b c f => Sys2Proof.Machine.execBfma2 h d a b c f s
  | .cvt h d a f => Sys2Proof.Machine.execCvt h d a f s
  | .cvtef h d a f => Sys2Proof.Machine.execCvtef h d a f s
  | .pack h d a b f => Sys2Proof.Machine.execPack h d a b f s
  | .unpack h d a f => Sys2Proof.Machine.execUnpack h d a f s
  | .cbdec h d a b f => Sys2Proof.Machine.execCbdec h d a b f s
  | .cbenc h d a b f => Sys2Proof.Machine.execCbenc h d a b f s
  | .vmov h d a f => Sys2Proof.Machine.execVmov h d a f s
  | .vmovi h d imm => Sys2Proof.Machine.execVmovi h d imm s
  | .laneid h d f => Sys2Proof.Machine.execLaneid h d f s
  | .mand h d a b => Sys2Proof.Machine.execMand h d a b s
  | .mor h d a b => Sys2Proof.Machine.execMor h d a b s
  | .mnot h d a => Sys2Proof.Machine.execMnot h d a s
  | .mget h d a => Sys2Proof.Machine.execMget h d a s
  | .mset h d a => Sys2Proof.Machine.execMset h d a s
  | .vote h d a f => Sys2Proof.Machine.execVote h d a f s
  | .shfl h d a b f => Sys2Proof.Machine.execShfl h d a b f s
  | .scan h d a f ty excl => Sys2Proof.Machine.execScan h d a f ty excl s
  | .red h d a f ty => Sys2Proof.Machine.execRed h d a f ty s
  | .vtos h d a b first sx => Sys2Proof.Machine.execVtos h d a b first sx s
  | .stov h d a hi => Sys2Proof.Machine.execStov h d a hi s
  | .wsr h d k => Sys2Proof.Machine.execWsr h d k s
  | .wsw h k a => Sys2Proof.Machine.execWsw h k a s
  | .frcp h d a => Sys2Proof.Machine.execFrcp h d a s
  | .frsq h d a => Sys2Proof.Machine.execFrsq h d a s
  | .fsqrt h d a => Sys2Proof.Machine.execFsqrt h d a s
  | .fexp2 h d a => Sys2Proof.Machine.execFexp2 h d a s
  | .flog2 h d a => Sys2Proof.Machine.execFlog2 h d a s
  | .fsin h d a => Sys2Proof.Machine.execFsin h d a s
  | .fcos h d a => Sys2Proof.Machine.execFcos h d a s
  | .ftanh h d a => Sys2Proof.Machine.execFtanh h d a s
  | .kdef h d a b c len slice => Sys2Proof.Machine.execKdef h d a b c len slice s
  | .ldk h d m => Sys2Proof.Machine.execLdk h d m s
  | .douse h d => Sys2Proof.Machine.execDouse h d s
  | .ld h d m => Sys2Proof.Machine.execLd h d m s
  | .st h c m => Sys2Proof.Machine.execSt h c m s
  | .lds h d m => Sys2Proof.Machine.execLds h d m s
  | .sts h c m => Sys2Proof.Machine.execSts h c m s
  | .ldt h d m => Sys2Proof.Machine.execLdt h d m s
  | .atom h d c m => Sys2Proof.Machine.execAtom h d c m s
  | .atoms h d c m => Sys2Proof.Machine.execAtoms h d c m s
  | .fence h ord scope => Sys2Proof.Machine.execFence h ord scope s
  | .pref h m => Sys2Proof.Machine.execPref h m s
  | .mmq h reuse d a sb sc => Sys2Proof.Machine.execMmq h reuse d a sb sc s
  | .mdrain h d sk => Sys2Proof.Machine.execMdrain h d sk s
  | .mzero h d => Sys2Proof.Machine.execMzero h d s
  | .mwait h => Sys2Proof.Machine.execMwait h s
  | .dualWord h x y => Sys2Proof.Machine.execDualWord h x y s
  | .wordCompletion slot idx => Sys2Proof.Machine.execWordCompletion slot idx s
  | .barrierRelease slot gang id => Sys2Proof.Machine.execBarrierRelease slot gang id s
  | .oappGrant slot => Sys2Proof.Machine.execOappGrant slot s
  | .growGrant core => Sys2Proof.Machine.execGrowGrant core s
  | .progress slot => Sys2Proof.Machine.execProgress slot s
  | .emberDemotion slot d => Sys2Proof.Machine.execEmberDemotion slot d s
  | .rekindle slot d => Sys2Proof.Machine.execRekindle slot d s
  | .doorbell q v src => Sys2Proof.Machine.execDoorbell q v src s
  | .stokerRound core => Sys2Proof.Machine.execStokerRound core s
  | .stokerRepoll q => Sys2Proof.Machine.execStokerRepoll q s
  | .packetComplete q imm => Sys2Proof.Machine.execPacketComplete q imm s
  | .signalWatchRead q => Sys2Proof.Machine.execSignalWatchRead q s
  | .waitTo q => Sys2Proof.Machine.execWaitTo q s
  | .ioCopyGranule q imm => Sys2Proof.Machine.execIoCopyGranule q imm s
  | .gridRetire gid => Sys2Proof.Machine.execGridRetire gid s
  | .stokerHalt core => Sys2Proof.Machine.execStokerHalt core s
  | .stokerTakeover core => Sys2Proof.Machine.execStokerTakeover core s
  | .stokerReload core => Sys2Proof.Machine.execStokerReload core s
  | .qfault q => Sys2Proof.Machine.execQfault q s
  | .dispatcherDecision => Sys2Proof.Machine.execDispatcherDecision s
  | .quantumExpiry gid gang => Sys2Proof.Machine.execQuantumExpiry gid gang s
  | .preemptionRequest gid gang why => Sys2Proof.Machine.execPreemptionRequest gid gang why s
  | .saveComplete gid gang => Sys2Proof.Machine.execSaveComplete gid gang s
  | .workgroupResumption gid lw => Sys2Proof.Machine.execWorkgroupResumption gid lw s
  | .matrixPass cluster => Sys2Proof.Machine.execMatrixPass cluster s
  | .jobStart job => Sys2Proof.Machine.execJobStart job s
  | .jobGranule job => Sys2Proof.Machine.execJobGranule job s
  | .jobSuspend job => Sys2Proof.Machine.execJobSuspend job s
  | .taskCommit gid => Sys2Proof.Machine.execTaskCommit gid s
  | .sensorSample core idx temp => Sys2Proof.Machine.execSensorSample core idx temp s
  | .vaultRefresh v => Sys2Proof.Machine.execVaultRefresh v s
  | .refreshEnd v => Sys2Proof.Machine.execRefreshEnd v s
  | .ratioChange cluster => Sys2Proof.Machine.execRatioChange cluster s
  | .ratioSwitchEnd cluster => Sys2Proof.Machine.execRatioSwitchEnd cluster s
  | .nclkWindow die permille => Sys2Proof.Machine.execNclkWindow die permille s
  | .nclkStepDone die => Sys2Proof.Machine.execNclkStepDone die s
  | .glideInterval die estimate => Sys2Proof.Machine.execGlideInterval die estimate s
  | .energyCharge gid uj => Sys2Proof.Machine.execEnergyCharge gid uj s
  | .putDelivery ctx win off data => Sys2Proof.Machine.execPutDelivery ctx win off data s
  | .putAck id ok => Sys2Proof.Machine.execPutAck id ok s
  | .putTimeout id => Sys2Proof.Machine.execPutTimeout id s
  | .hostAccess port addr len write => Sys2Proof.Machine.execHostAccess port addr len write s
  | .linkDown port => Sys2Proof.Machine.execLinkDown port s
  | .ownsemRelease port => Sys2Proof.Machine.execOwnsemRelease port s
  | .ownsemRead port => Sys2Proof.Machine.execOwnsemRead port s
  | .ownsemWrite port v => Sys2Proof.Machine.execOwnsemWrite port v s
  | .globalConfigWrite port off data => Sys2Proof.Machine.execGlobalConfigWrite port off data s
  | .contextTableWrite port off data => Sys2Proof.Machine.execContextTableWrite port off data s
  | .registerWrite port off data => Sys2Proof.Machine.execRegisterWrite port off data s
  | .preempt port grid arg => Sys2Proof.Machine.execPreempt port grid arg s
  | .resume port grid gang => Sys2Proof.Machine.execResume port grid gang s
  | .endgrid port grid => Sys2Proof.Machine.execEndgrid port grid s
  | .cut port grid => Sys2Proof.Machine.execCut port grid s
  | .cutComplete gid => Sys2Proof.Machine.execCutComplete gid s
  | .inval port ctx range => Sys2Proof.Machine.execInval port ctx range s
  | .invalComplete port => Sys2Proof.Machine.execInvalComplete port s
  | .quotaadd port grid uj => Sys2Proof.Machine.execQuotaadd port grid uj s
  | .endqf port q => Sys2Proof.Machine.execEndqf port q s
  | .repair port slot unit => Sys2Proof.Machine.execRepair port slot unit s
  | .repairTakesEffect slot => Sys2Proof.Machine.execRepairTakesEffect slot s
  | .attest port => Sys2Proof.Machine.execAttest port s
  | .fwload port addr len => Sys2Proof.Machine.execFwload port addr len s
  | .recread port idx addr => Sys2Proof.Machine.execRecread port idx addr s
  | .recwrite port idx addr => Sys2Proof.Machine.execRecwrite port idx addr s
  | .moduleReset => Sys2Proof.Machine.execModuleReset s
  | .linkTraining port base => Sys2Proof.Machine.execLinkTraining port base s
  | .powerLoss => Sys2Proof.Machine.execPowerLoss s
  | .scalarResultReady slot => Sys2Proof.Machine.execScalarResultReady slot s

end Sys2Proof.Machine
end

