-- ==== Sys2Proof/Machine/Schedule.lean ====
section
/-!
DEFINITION. One turn of the module: a word of a scalar or a lane stream (07 R127-R129, R462; 06 R124; 22 R425), a step of a unit or of the host, or
time. Which turn comes next is `State.agenda`; while it is empty, a rotation over everything that is open (notes/assumptions/1).
-/
namespace Sys2Proof.Machine

-- ### Time

/-- `n` FCLK pass (notes/assumptions/8): CLKF, the microseconds at the FCLK limit, LCLK by cluster; WSWs complete (11 R239), OWNSEM leaves a port whose link
has been lost for 100 us (20 R396). A new FCLK has had no turn. -/
def State.tick (s : State) (n : Nat) : State :=
  let per := 10 * max s.svc.fclkLimit 1
  let f := s.usFrac + n
  let s := { s with fclk := s.fclk + n, us := s.us + f / per, usFrac := f % per, seat := if n = 0 then s.seat else Seat.first, exits := if n = 0 then s.exits else [],
                    units := { s.units with clusters := s.units.clusters.map fun (c : Cluster) => { c with halves := c.halves + n * c.ratio } } }
  let s := { s with groups := s.groups.map s.completeWs }
  (s.dueOwner 0).dueOwner 1

-- ### Breakpoints

/-- BREAK (22 R425): RETT to the same word issues it. -/
def State.break (s : State) (g : Group) (lane : Bool) (idx : Nat) : State := s.trapAt { g with skip := some (lane, idx) } lane { code := 12, addr := 0 } false

/-- Whether a word would raise ILLEGAL where it stands: the causes that depend on the state, which come before BREAK (22 R420). -/
def illegalNow (s : State) (g : Group) : Instr → Bool
  | .barw id | .barg id => (s.desc g.gid).nbar ≤ id.toNat
  | .rett => !g.inh
  | .exit => s.inTask g && g.k == 0
  | .tspawn _ _ | .tdone => !(s.inTask g && g.k == 0)
  | .fork _ _ | .rvz _ | .wpwait _ _ | .pin _ _ | .unpin _ | .reclaim _ _ | .put _ | .wcwait _ _ => s.inTask g
  | .oapp _ a | .odecl a => s.inTask g || g.oclosed.getLsbD (streamOf (g.sreg s.free a)).toNat
  | i => laneIllegal s g i

-- ### Words

/-- A word of the scalar stream as fetched (22 R420): a fetch fault, ILLEGAL, BREAK, or the word's own meaning. -/
def scalarFetched (s : State) (g : Group) : Fetched → Out
  | .fault f => s.trapScalar g f
  | .beyond => s.trapScalar g illegal
  | .word w => match decodeScalar w with
    | none => s.trapScalar g illegal
    | some i => if breaks s g false g.spc.toNat && !illegalNow s g i then .next (s.break g false g.spc.toNat) else exec i s
/-- The next scalar word of a slot. It waits while a lane word has lanes left to perform (notes/assumptions/5). -/
def scalarTurn (slot : Nat) (s : State) : Out :=
  match s.group? slot with
  | none => .next s
  | some g => if s.scalarOpen g then scalarFetched { s with cur := slot } g (fetchScalar s g g.spc.toNat) else .next s

/-- Whether a lane word may pass the words of its group whose accesses are still to be performed: it makes no access and rebuilds nothing, or it is a relaxed access that
meets them in no byte (13 R284, R287; notes/assumptions/5). -/
def State.passesLate (s : State) (g : Group) (i : Instr) : Bool :=
  match s.splitReady g i with
  | some (p, _, w) => g.passes p w
  | none => match lanePorts s g i, i with
    | _, .kdef _ _ _ _ _ _ _ | _, .mmq _ _ _ _ _ _ | _, .fence _ _ _ => false
    | some p, _ => !p.mem && (g.toRekindle p.reads p.writes 0xFFFFFFFF).isEmpty && (vecNumbers p.writes).all fun k => !g.isEmber k
    | none, _ => true
/-- What comes before a lane word: the accesses that it may not pass are performed. -/
def State.beforeWord (s : State) (g : Group) (i : Instr) : State :=
  if g.late.isEmpty || s.passesLate g i then s else let x := s.performAll g; x.1.setGroup x.2
/-- A word of the lane stream: as the run buffer holds it, else fetched now (07 R462). -/
def laneFetched (s : State) (g : Group) (idx : Nat) : Fetched → Out
  | .fault f => s.trapLane g f
  | .beyond => s.trapLane g illegal
  | .word w => match decodeLane w with
    | none => s.trapLane g illegal
    | some i => if breaks s g true idx && !illegalNow s g i then .next (s.break g true idx) else exec i (s.beforeWord g i)
/-- Whether a lane stream may have a turn: a group that a switch point parks issues no word (07 R139), and the scratchpad accesses of a core's groups go word by word
(13 R279). -/
def State.laneOpen (s : State) (g : Group) : Bool := !s.laneFrozen g && (!g.parked || g.drained) && !s.spadBusy g
/-- The next lane word of a slot. One that is ILLEGAL awaits the park as well: it is a word that would issue (DESIGN CHOICE, notes/assumptions/66). -/
def laneTurn (slot : Nat) (s : State) : Out :=
  match s.group? slot with
  | none => .next s
  | some g => match g.runq with
    | [] => .next s
    | r :: _ =>
      if !s.laneOpen g then .next s
      else laneFetched { s with cur := slot } g r.next (match r.buf with
        | some w :: _ => .word w
        | _ => fetchLane s g (s.codeObj g) r.next)

/-- One lane of the next word of a slot, a store or an atomic that its run buffer holds (13 R279, R291): no breakpoint names it, and it is not ILLEGAL. -/
def partTurn (slot : Nat) (s : State) : Out :=
  .next (match s.group? slot with
    | none => s
    | some g => match g.runq with
      | { next := idx, buf := some w :: _, .. } :: _ =>
        if s.laneOpen g then s.partLane g ((decodeLane w).filter fun i => !breaks s g true idx && !illegalNow s g i) else s
      | _ => s)

/-- The next word of a slot issued with its accesses left to be performed later, where its run buffer holds it (17 R371). -/
def lateTurn (slot : Nat) (s : State) : Out :=
  .next (match s.group? slot with
    | none => s
    | some g => match g.runq with
      | { next := idx, buf := some w :: _, .. } :: _ =>
        match (decodeLane w).filter fun i => s.laneOpen g && !breaks s g true idx && !illegalNow s g i with
        | some i => s.issueLate g i
        | none => s
      | _ => s)
/-- Those accesses performed. -/
def performTurn (slot id : Nat) (s : State) : Out :=
  withGroup s slot fun g => match g.late.find? fun x => x.id == id with
    | some x => let r := s.performWord g x; r.1.setGroup r.2
    | none => s

/-- Whether an instruction is a step of a unit or of the host: it has no encoding. -/
def isStep (i : Instr) : Bool := encode i == .none

/-- One turn. An entry that names a word instead of a step does nothing: words come from the streams. -/
def runTurn (t : Turn) (s : State) : Out :=
  match t with
  | .scalar slot => scalarTurn slot s
  | .lane slot => laneTurn slot s
  | .part slot => partTurn slot s
  | .late slot => lateTurn slot s
  | .perform slot id => performTurn slot id s
  | .act i => if isStep i then exec i s else .next s
  | .tick n => .next (s.tick n)
  | .lost off unit => .next (s.loseUnit off unit)

-- ### The order within an FCLK

/-- Whether the next scalar word of a group is TDONE. -/
def State.atTdone (s : State) (g : Group) : Bool :=
  match fetchScalar s g g.spc.toNat with
  | .word w => decodeScalar w == some .tdone
  | _ => false
/-- The port of a step of the host that accesses the module. -/
def hostPortOf : Instr → Option Nat
  | .hostAccess p _ _ _ | .ownsemRead p | .ownsemWrite p _ | .globalConfigWrite p _ _ | .contextTableWrite p _ _ | .registerWrite p _ _ => some p
  | _ => none
/-- The seat of a turn (notes/assumptions/1): of the turns of one FCLK, lane words, with the rekindling for them, come before scalar words (22 R420, 07 R146), each by LG
(13 R279, 14 R307); of groups with one LG, which belong to different grids or sets, the one whose grid was launched first (DESIGN CHOICE, notes/assumptions/1); then TDONE and commits (19 R387) and the watchdog; then the steps of the units (03 R58, 14 R318, 22 R438), a REPAIR last (26 R457); then the host's accesses by port
(20 R394, R396). -/
def State.seatOf (s : State) (t : Turn) : Seat :=
  let key (slot : Nat) : Nat := ((s.group? slot).map fun g => s.lg g * 2 ^ 64 + g.gid).getD 0
  match t with
  | .lane slot | .late slot => { phase := 1, key := 2 * key slot + 1 }
  | .part slot | .perform slot _ => { phase := 1, key := 2 * key slot }
  | .scalar slot => { phase := if (s.group? slot).any s.atTdone then 3 else 2, key := key slot }
  | .act (.taskCommit _) | .act (.progress _) => { phase := 3, key := 0 }
  | .act (.rekindle slot _) => { phase := 1, key := 2 * key slot }
  | .act (.repair _ _ _) => { phase := 4, key := 1 }
  | .act i => match hostPortOf i with
    | some p => { phase := 5 + p, key := 0 }
    | none => { phase := 4, key := 0 }
  | .lost _ _ => { phase := 4, key := 0 }
  | .tick _ => { phase := 0, key := 0 }
/-- Whether a turn may still come in an FCLK whose last turn had a seat: each stream has one turn in an FCLK, a step may follow its like. -/
def Seat.allows (last next : Seat) (word : Bool) : Bool :=
  last.phase < next.phase || (last.phase == next.phase && (last.key < next.key || (last.key == next.key && !word)))
def Turn.isWord : Turn → Bool
  | .scalar _ | .lane _ | .late _ => true
  | _ => false
/-- The module in the FCLK in which a turn comes: this one, or the next when the turn's place in this one is past. -/
def State.seated (s : State) (t : Turn) : State :=
  match t with
  | .tick _ => s
  | _ =>
    let s := if s.seat.allows (s.seatOf t) t.isWord then s else s.tick 1
    { s with seat := s.seatOf t }

-- ### The rotation

/-- The steps open for the words of a group: completions, results, rekindling, barriers, grants, the watchdog. -/
def State.groupSteps (s : State) (g : Group) : List Instr :=
  g.flights.map (fun f => .wordCompletion g.slot f.id) ++ (if g.spend.isSome then [.scalarResultReady g.slot] else [])
    ++ (List.finRange 8).filterMap (fun i => if g.bars.getLsbD i.val then some (.barrierRelease g.slot (4 ≤ i.val) (BitVec.ofNat 2 i.val)) else none)
    ++ (if g.growAsk.isSome then [.growGrant g.core] else []) ++ (if g.progto != 0 then [.progress g.slot] else [])
    ++ (s.nextRekindle g).toList.map (fun d => .rekindle g.slot (BitVec.ofNat 8 d)) ++ if g.mq.isEmpty && g.trial.isNone then [] else [.matrixPass g.cluster]
/-- The steps open for jobs. -/
def Job.openSteps (j : Job) : List Instr :=
  match j.st with
  | .posted => [.jobStart j.id]
  | .running => [.jobGranule j.id]
  | _ => []
/-- The steps open for packets and watches. -/
def Pkt.openSteps (p : Pkt) : List Instr :=
  match p.work with
  | .ready | .woken => [.packetComplete p.q p.i]
  | .copy _ _ _ _ => [.ioCopyGranule p.q p.i]
  | _ => []
def Stoker.openSteps (k : Stoker) : List Instr :=
  (k.bells.take 1).map (fun b => .doorbell b.1 b.2.1 b.2.2) ++ (if k.slots.isEmpty then [] else (List.range 5).map .stokerRound)
    ++ k.pkts.flatMap Pkt.openSteps ++ k.watches.flatMap (fun w => [.signalWatchRead w.q, .waitTo w.q])
    ++ (List.range 5).flatMap fun i => if (k.cores[i]?).any (·.halted) then [.stokerTakeover i, .stokerReload i] else []
/-- The steps open for a grid. -/
def State.gridSteps (s : State) (d : Grid) : List Instr :=
  if d.st != .live then []
  else [.dispatcherDecision, .gridRetire d.gid] ++ (s.quantumNext d).toList.map (.quantumExpiry d.gid) ++ (if d.cut.isEmpty then [] else [.cutComplete d.gid])
    ++ (s.residentGangs d.gid).filterMap fun g => if (s.gangStop d.gid g).isSome then some (.saveComplete d.gid g) else none
/-- The steps open for the units and the readback space. -/
def State.unitSteps (s : State) : List Instr :=
  ((List.range 104).flatMap fun c =>
      if (s.clusterAt c).switching then [.ratioSwitchEnd c] else if (s.clusterAt c).ratio != s.ratioLimit c then [.ratioChange c] else [])
    ++ ((List.range 10).filterMap fun d => if (s.units.dies[d]?).any (·.nstep.isSome) then some (.nclkStepDone d) else none)
    ++ ((List.range 192).filterMap fun v => if (s.units.vaults[v]?).any (·.busy) then some (.refreshEnd v) else none)
    ++ (List.range 2).flatMap (fun p => (if (s.port p).inval.isSome then [.invalComplete p] else []) ++ if (s.port p).lost.isSome then [.ownsemRelease p] else [])
    ++ ((s.svc.puts.filter s.putLate).map fun r => .putTimeout r.id)
    ++ repairSlots.filterMap fun o => if slotUsed s.svc o && !s.svc.inEffect.contains o then some (.repairTakesEffect o) else none
/-- Everything that is open. -/
def State.openSteps (s : State) : List Instr :=
  s.groups.flatMap s.groupSteps ++ s.jobs.flatMap Job.openSteps ++ s.stoker.openSteps ++ s.grids.flatMap s.gridSteps
    ++ s.resuming.map (fun r => .workgroupResumption r.wg.gid r.wg.lw) ++ s.unitSteps
def State.openTurns (s : State) : List Turn := (s.groups.flatMap fun g => [.scalar g.slot, .lane g.slot] ++ g.late.map fun x => .perform g.slot x.id) ++ s.openSteps.map .act
/-- The turn of the rotation. -/
def State.pick (s : State) : Option Turn :=
  let ts := s.openTurns
  ts[s.turns % ts.length]?

/-- The next turn of the module: the agenda's, else one FCLK passes and the rotation goes on. -/
def nextTurn (s : State) : Out :=
  match s.agenda with
  | t :: ts => runTurn t ({ s with agenda := ts }.seated t)
  | [] =>
    let s' := { s.tick 1 with turns := s.turns + 1 }
    match s'.pick with
    | some t => runTurn t { s' with seat := s'.seatOf t }
    | none => .next s'

-- ### A word to run

/-- A kernel at physical and virtual address 0x10000: a scalar section at 0x10100, a lane section at 0x20000, a data section at 0x18000. -/
def probeKernel : KObj := { KObj.zero with addr := 0x10000, soff := 0x100, slen := 0x1000, loff := 0x10000, llen := 0x3000, doff := 0x8000, dlen := 0x8000 }
/-- The grid of that kernel: four barriers, a scratchpad of 16 units, the whole allotment with 16 granules of vector registers. -/
def probeGrid : Grid :=
  { gid := 0, entry := 0, name := 0x1000, q := 0, pi := 0, ctx := 0, isTask := false, st := .live,
    desc := { Desc.zero with kobj := 0x10000, nbar := 4, rgran := 32, vbnd0 := 16, part := 40 * 2 ^ 8 + 8, spwg := 16 }, ko := probeKernel, foot := none,
    walk := 1, aside := [], exited := [], obase := Vector.replicate 16 0, closed := [], left := 0, unl := true, energy := 0, overrun := 0,
    quotaHeld := false, quantum := none, waits := [], born := 0, start := View.fresh, cut := [], cutMax := 0, tasks := [], nextSeq := 1, retiredAt := 0 }
/-- Translation tables that map the first GiB to itself with every permission (13 R273, R274): tables at 0x2000, 0x3000 and 0x4000. -/
def probeTables (m : Memory) : Memory :=
  memWrite (memWrite (memWrite m 0x2000 (leBytes 8 0x3001)) 0x3000 (leBytes 8 0x4001)) 0x4000 (leBytes 8 0x1F)

/-- A group of that kernel in slot 0, whose next turn is the word: the scalar word 0, or the lane word 0, queued by an LRUN. It stands for a launch:
no program runs from reset before the host has one launched (notes/assumptions/2). -/
def State.placeWord (s : State) (scalar : Bool) (w : Nat) : State :=
  let mem := memWrite (probeTables s.mem) (if scalar then 0x10100 else 0x20000) (leBytes (if scalar then 4 else 12) w)
  let g := newGroup s probeGrid 0 0 0 none
  let g := if scalar then g else { g with runq := [{ next := 0, buf := [some w], prev := none, reads := [], view := View.fresh, heard := [], obs := [] }] }
  let wg : Wg := { gid := 0, lw := 0, core := 0, lcore := 0, spad := [], ws := Vector.replicate 16 0, wsPend := [], stop := none, stopAt := 0, hold := false,
                   quota := false, atStep := false, moves := false, migr := false, placed := s.moment, task := none }
  { s with mem := mem, groups := [g], wgs := [wg], grids := [probeGrid], svc := { s.svc with ctxs := [(0, { Ctx.reset with troot := 0x2000 })] },
           seat := Seat.first, agenda := [if scalar then .scalar 0 else .lane 0] }

end Sys2Proof.Machine
end

