-- ==== Sys2Proof/Machine/Step.lean ====
section
/-!
DEFINITION. The step of the machine, and a state whose next step runs a given word.
-/
namespace Sys2Proof.Machine

/-- One step: the next turn (notes/assumptions/1). -/
def step (s : State) : Host.Outcome State Fault Refusal := nextTurn s

/-- The state with the word of the opcode table placed where the next step fetches (notes/assumptions/2). -/
def State.withFetchWord (s : State) (nbits w : Nat) : State := s.placeWord (nbits ≤ 32) (w % 2 ^ nbits)

end Sys2Proof.Machine
end

