-- ==== Sys2Proof/Safety.lean ====
section
/-!
DEFINITION. What counts as a safe run: the machine goes on at every step, and its memory stays in canonical form.
-/
namespace Sys2Proof.Machine

/-- An outcome that goes on. -/
def Runs (o : Out) : Prop := ∃ t, o = .next t

/-- Device DRAM and host memory are in canonical form (State.lean). -/
def State.memOk (s : State) : Prop := memWf s.mem = true

/-- A safe state: the next step goes on, and leaves memory in canonical form. -/
def State.safe (s : State) : Prop := ∃ t, step s = .next t ∧ t.memOk

/-- A group without issued words on their way, recipes, EMBER registers, deferred errors and lanes left to perform. -/
structure Group.plain (g : Group) : Prop where
  flights  : g.flights = []
  recipes  : g.recipes = []
  embers   : ∀ r ∈ g.regs, r.st ≠ .ember
  deferred : g.deferred = []
  mid      : g.mid = none

/-- Nothing of the group is on its way: no queued matrix word, no MMQ that waits for its pass under TRAP, no lane word, no scalar result. -/
structure Group.still (g : Group) : Prop where
  mq      : g.mq = []
  trial   : g.trial = none
  flights : g.flights = []
  spend   : g.spend = none
  late    : g.late = []

/-- A byte of global memory that the ordered task of a thread has stored: its own bytes hide memory (19 R385). -/
def Overlaid (t : Option Task) (l : Loc) (b : Byte) : Prop := l.spad = none ∧ ∃ t', t = some t' ∧ t'.buf.lookup l.at_ = some b
/-- No uncorrectable error and no link that is down stands in the way of a byte (20 R399). -/
def Clean (s : State) (l : Loc) : Prop := l.spad = none → errOf s l.at_ 1 = 0
/-- A reader that gets what the locations hold now: it reads the newest, or knows every write of them (17 R355). -/
def UpToDate (s : State) (r : Reader) (ls : List Loc) : Prop := r.newest = true ∨ ∀ l ∈ ls, ∀ v ∈ s.order.versions l, r.knows v = true

/-- What a read of some locations may return (17 R355, R363; 19 R385): of each byte the task's own store; else what it holds now, or a write that no write known to the
reader follows, or one that races with the read; a reader that is up to date gets what the locations hold now. -/
structure Reads (s : State) (t : Option Task) (r : Reader) (ls : List Loc) (bs : List Byte) : Prop where
  length : bs.length = ls.length
  own    : ∀ (i : Nat) l b, ls[i]? = some l → Overlaid t l b → bs[i]? = some b
  some_  : ∀ (i : Nat) l, ls[i]? = some l → (¬∃ b, Overlaid t l b) → Clean s l → bs[i]? = some (s.byteNow l)
    ∨ ∃ (k : Nat) (v : Version), (s.order.versions l)[k]? = some v ∧ bs[i]? = some v.val
      ∧ (r.races v = true ∨ ∀ j, j < k → ∀ v', (s.order.versions l)[j]? = some v' → r.knows v' = false)
  now    : UpToDate s r ls → ∀ (i : Nat) l, ls[i]? = some l → (¬∃ b, Overlaid t l b) → Clean s l → bs[i]? = some (s.byteNow l)

/-- Whether `cur` names a resident group: what `step` sees to before it executes a word. -/
def State.atGroup (s : State) : Prop := (s.group? s.cur).isSome = true

end Sys2Proof.Machine
end

