-- ==== Sys2Proof/Certificates/Slice0/Obligations.lean ====
section
/-!
DEFINITION. The statements about the machine, for the provers. Each says, from the spec's rules, what an instruction or the machine does: the next state
it answers, what that state holds, and what it leaves unchanged. The helpers in `Sys2Proof.Claims` write out in full what the states have in common.
-/
namespace Sys2Proof.Claims
open Sys2Proof Sys2Proof.Machine

/-- The state with a group put in its slot. Everything else of the module stays: memory, workgroups, grids, queues, units, clocks. -/
def withGroupIn (s : State) (g : Group) : State := { s with groups := s.groups.map fun x => if x.slot == g.slot then g else x }
/-- The same when the word drew a free value. -/
def drawn (s : State) (g : Group) : State := { withGroupIn s g with free := s.free + 1 }

/-- The group at its next scalar word: only SPC moves; SKIP is spent if it named a scalar word, and a STEP no longer holds the group. -/
def nextWord (g : Group) : Group := { g with spc := g.spc + 1, skip := g.clearSkip false, stepHeld := false }
/-- The group at a branch target. -/
def jump (g : Group) (pc : W32) : Group := { g with spc := pc, skip := g.clearSkip false, stepHeld := false }
/-- The group with a scalar register written; s0 discards the write (06 R107). -/
def withScalar (g : Group) (d : BitVec 8) (v : W64) : Group := if d = 0 then g else { g with sregs := g.sregs.set d.toNat v d.isLt }
/-- The group at its next word, with a result for `d` on its way (08 R148); with that of a division goes the SKIP that it has spent, which comes back when the division is
abandoned (R149, 22 R425). -/
def arriving (g : Group) (d : BitVec 8) (div : Bool) (v : W64) : Group :=
  { nextWord g with spend := some { idx := g.spc, d := d, v := v, div := div, skip := if div then g.skip else none } }
/-- The watchdog's count starts anew (22 R426): from this microsecond, or inside a handler, where it stands still, from 0. -/
def touched (s : State) (g : Group) : Group := { g with watch := if g.inh then 0 else (s.us : Int) }
/-- The same machine but for what the threads of the memory model know (17). -/
def Knows (s u : State) : Prop := u = { s with order := u.order }
/-- The same group but for the messages that the scalar stream's reads have met, which an acquire fence of a later run may take (17 R359), and the writes that it has
observed (R357). -/
def Heard (g g' : Group) : Prop := g' = { g with heard := g'.heard, sobs := g'.sobs }
/-- The release fences that the scalar stream knows complete, and those of `ms` with them, one of a scope (17 R358). -/
def fencesKnown (old ms : List Msg) : List Msg := ms.foldl (fun old m => m :: old.filter fun x => x.scope != m.scope) old
/-- The group once its scalar stream knows every lane access so far (08 R165, 13 R297, 17 R352). -/
def allKnown (g : Group) : Group := { g with slack := [], srelv := fencesKnown g.srelv (g.slack.flatMap Slack.rels) }
/-- A zero count of counter `k` proves a word complete to a WAITC: not one that issues in the same FCLK (07 R140, 08 R164). -/
def proves (s : State) (g : Group) (k : BitVec 4) (x : Slack) : Bool := x.ctr == k && !(x.id + 1 == g.nextId && g.last == some (s.fclk, k))
/-- The gang has been asked to stop, in a FCLK before this one: its groups issue no word any more (22 R428, R438). -/
def Halted (s : State) (gid gang : Nat) : Prop := ∃ w ∈ s.wgs, w.gid = gid ∧ gangIdx (s.desc gid) w.lw = gang ∧ w.stop ≠ none ∧ w.stopAt < s.fclk
/-- What a view holds is part of another. -/
def Covered (v w : View) : Prop := v.base ≤ w.base ∧ (∀ n ∈ v.extra, n ∈ w.extra) ∧ (∀ x ∈ v.bytes, x ∈ w.bytes) ∧ ∀ p ∈ v.upto, ∃ n, (p.1, n) ∈ w.upto ∧ p.2 ≤ n
/-- WAITC's view of a counter: without the increment of a lane word that issues in the same FCLK (08 R164). -/
def counted (s : State) (g : Group) (k : Fin 12) : Nat := if g.last = some (s.fclk, BitVec.ofNat 4 k) then g.ctrs[k].toNat - 1 else g.ctrs[k].toNat

/-- No lane word on its way writes scalar register `d` (07 R131; 0 for none). -/
def Settled (g : Group) (d : BitVec 8) : Prop := d = 0 ∨ ∀ f ∈ g.flights, ∀ v, Eff.sreg d v ∉ f.effs
/-- A group at a scalar word that writes `d` (0 for none): no result is on its way (08 R148), no queued run reads `d` (07 R130), and no lane word on its way
writes it (R131). -/
structure AtScalar (s : State) (g : Group) (d : BitVec 8) : Prop where
  here    : s.group? s.cur = some g
  idle    : g.spend = none
  unread  : d = 0 ∨ ∀ r ∈ g.runq, d ∉ r.reads
  settled : Settled g d

/-- What a scalar word reads from a register. -/
abbrev rd (s : State) (g : Group) (k : BitVec 8) : W64 := g.sreg s.free k

/-- The word writes a value to `d` and goes on to the next word, and changes nothing else. -/
def Gives (i : Instr) (d : BitVec 8) (v : State → Group → W64) : Prop :=
  ∀ s g, AtScalar s g d → exec i s = .next (drawn s (nextWord (withScalar g d (v s g))))

/-- Quotient and remainder of 64-bit integers, rounded toward zero; by zero: all ones and the dividend (08 R151). -/
def quotient (u : Bool) (x y : W64) : W64 :=
  if y = 0 then BitVec.ofNat 64 (2 ^ 64 - 1) else if u then BitVec.ofNat 64 (x.toNat / y.toNat) else BitVec.ofInt 64 (Int.tdiv x.toInt y.toInt)
def remainder (u : Bool) (x y : W64) : W64 :=
  if y = 0 then x else if u then BitVec.ofNat 64 (x.toNat % y.toNat) else BitVec.ofInt 64 (x.toInt - Int.tdiv x.toInt y.toInt * y.toInt)

/-- `n` bytes as a 64-bit value, sign- or zero-extended (08 R156). -/
def extended (signed : Bool) (n x : Nat) : W64 :=
  if signed ∧ 2 ^ (8 * n - 1) ≤ x then BitVec.ofInt 64 ((x : Int) - 2 ^ (8 * n)) else BitVec.ofNat 64 x

/-- The group stands at the quiet point: no run queued, c0-c11 zero, no deferred load error (12 R245, 08 R168). -/
structure Quiet (g : Group) : Prop where
  runs     : g.runq = []
  counters : g.ctrs = Vector.replicate 12 0
  deferred : g.deferred = []
/-- The group has issued no lane memory word that is not complete (08 R165). -/
structure MemoryDone (g : Group) : Prop where
  runs     : g.runq = []
  flights  : ∀ f ∈ g.flights, f.cls.isMemory = false
  deferred : g.deferred = []
/-- Nor an MMQ that has still to read its B tile: every access of the group is performed (13 R297, 15 R334). -/
structure AccessesDone (g : Group) : Prop extends MemoryDone g where
  tiles : ∀ f ∈ g.flights, f.cls ≠ .mmq

/-- The group at its next word with `n` granules of VOID registers at the top of its allotment (12 R246). -/
def grown (s : State) (g : Group) (n : Nat) : Group :=
  { touched s (nextWord g) with regs := g.regs ++ List.replicate (8 * n) { st := .void, val := Vector.replicate 32 0 }, growAsk := none }

/-- What an append to stream `q` leaves (13 R294): the register and the base of OAPP, the group's and the grid's record that the stream is closed; the bases
of other streams and memory stay. -/
def Appended (s : State) (g : Group) (gr : Grid) (q : BitVec 4) (take : Option (BitVec 8 × Nat)) (u : State) : Prop :=
  ∃ gr', u.mem = s.mem ∧ u.grid? g.gid = some gr' ∧ u.group? g.slot =
    (let g' := match take with
      | some (d, _) => withScalar g d (BitVec.ofNat 64 (gr.obase[q.toNat]'(q.isLt)).toNat)
      | none => g
     some { touched s (nextWord g') with oclosed := g.oclosed ||| BitVec.ofNat 16 (2 ^ q.toNat) })
    ∧ gr'.obase[q.toNat]'(q.isLt) = gr.obase[q.toNat]'(q.isLt) + BitVec.ofNat 48 ((take.map Prod.snd).getD 0)
    ∧ (∀ r : Fin 16, r.val ≠ q.toNat → gr'.obase[r] = gr.obase[r])
    ∧ (gr'.closed.lookup (s.lg g)).getD 0 = (gr.closed.lookup (s.lg g)).getD 0 ||| BitVec.ofNat 16 (2 ^ q.toNat)

/-- E of 07 R135: the FCLK that DIST asks for at half, once and twice the FCLK (01 R15 ratios in halves); DIST 0 counts as 1. -/
def gap (ratio dist : Nat) : Nat :=
  if ratio = 1 then 2 * max dist 1 else if ratio = 4 then (max dist 1 + 1) / 2 else max dist 1
/-- A lane word is eligible (07 R133, R135, R139): every counter of WAIT is 0, the counter of SETC is not full, its distance to the lane word before it is
met, no switch point holds the group. -/
structure Eligible (s : State) (g : Group) (h : LaneCtl) : Prop where
  waits    : ∀ k : Fin 12, h.wait.getLsbD k.val = true → g.ctrs[k] = 0
  room     : ∀ k : Fin 12, h.setc.toNat = k.val → g.ctrs[k] ≠ 255
  distance : ∀ t c, g.last = some (t, c) → t + gap (s.clusterAt (g.slot / 192)).ratio h.dist.toNat ≤ s.fclk
  unparked : g.parked = false
/-- The lanes a word acts on (07 R141): those of EXM that PRED selects; a word without PRED takes those of EXM. -/
def onLanes (s : State) (g : Group) (h : LaneCtl) (whole : Bool) : W32 :=
  if whole then g.exm
  else g.exm &&& (if h.pred.getLsbD 3 then ~~~(g.mask s.free (h.pred.setWidth 3)) else g.mask s.free (h.pred.setWidth 3))
/-- The group at an eligible lane word that has a lane to act on, or is a word of the whole group (06 R119), with its registers inside the allotment (12 R244), with no earlier word on its way and no
recipe. -/
structure AtLane (s : State) (g : Group) (h : LaneCtl) (whole : Bool) (regs : List RName) : Prop where
  here     : s.group? s.cur = some g
  eligible : Eligible s g h
  plain    : g.plain
  acts     : whole = true ∨ onLanes s g h whole ≠ 0
  inside   : ∀ r ∈ regs, g.inAllot r = true

/-- The control fields of a lane word (06 R113-R114); none of a scalar word or a step of a unit. -/
def laneCtl : Instr → Option LaneCtl
  | .mwait h => some h
  | .douse h _ | .pref h _ | .mzero h _ => some h
  | .vmovi h _ _ | .laneid h _ _ | .mnot h _ _ | .mget h _ _ | .mset h _ _ | .wsr h _ _ | .wsw h _ _ | .frcp h _ _ | .frsq h _ _ => some h
  | .fsqrt h _ _ | .fexp2 h _ _ | .flog2 h _ _ | .fsin h _ _ | .fcos h _ _ | .ftanh h _ _ | .ldk h _ _ | .ld h _ _ | .st h _ _ => some h
  | .lds h _ _ | .sts h _ _ | .ldt h _ _ | .fence h _ _ | .mdrain h _ _ | .dualWord h _ _ => some h
  | .iabs h _ _ _ | .inot h _ _ _ | .ipopc h _ _ _ | .iclz h _ _ _ | .fclass h _ _ _ | .frnd h _ _ _ | .cvt h _ _ _ | .cvtef h _ _ _ | .unpack h _ _ _ => some h
  | .vmov h _ _ _ | .mand h _ _ _ | .mor h _ _ _ | .vote h _ _ _ | .stov h _ _ _ | .atom h _ _ _ | .atoms h _ _ _ => some h
  | .iadd h _ _ _ _ | .isub h _ _ _ _ | .imul h _ _ _ _ | .imulh h _ _ _ _ | .iwadd h _ _ _ _ | .imin h _ _ _ _ | .imax h _ _ _ _ | .iand h _ _ _ _ | .ior h _ _ _ _ => some h
  | .ixor h _ _ _ _ | .ishl h _ _ _ _ | .ishr h _ _ _ _ | .isra h _ _ _ _ | .ibfe h _ _ _ _ | .icmp h _ _ _ _ | .fadd h _ _ _ _ | .fsub h _ _ _ _ | .fmul h _ _ _ _ => some h
  | .fmin h _ _ _ _ | .fmax h _ _ _ _ | .fcmp h _ _ _ _ | .fscale h _ _ _ _ | .hadd2 h _ _ _ _ | .hmul2 h _ _ _ _ | .badd2 h _ _ _ _ | .bmul2 h _ _ _ _ | .pack h _ _ _ _ => some h
  | .cbdec h _ _ _ _ | .cbenc h _ _ _ _ | .shfl h _ _ _ _ | .red h _ _ _ _ | .kdef h _ _ _ _ _ _ => some h
  | .iadd3 h _ _ _ _ _ | .imad h _ _ _ _ _ | .idp4 h _ _ _ _ _ | .ibfi h _ _ _ _ _ | .isel h _ _ _ _ _ | .ffma h _ _ _ _ _ | .hfma2 h _ _ _ _ _ | .bfma2 h _ _ _ _ _ | .scan h _ _ _ _ _ => some h
  | .vtos h _ _ _ _ _ | .mmq h _ _ _ _ _ => some h
  | _ => none
/-- The lane words that have no PRED: they act on the lanes of EXM, and check their registers whatever these are (06 R119). -/
def wholeWord : Instr → Bool
  | .wsw _ _ _ | .fence _ _ _ | .mdrain _ _ _ | .mzero _ _ | .mwait _ => true
  | _ => false

/-- The registers of a lane word in field order (06 R114-R116): the destinations, then a, b and c. -/
def fieldRegs (s : State) (g : Group) (i : Instr) : List RName :=
  match i with
  | .mdrain _ d _ | .mzero _ d => tileRegs d
  | i => ((lanePorts s g i).map fun p => p.writes ++ p.reads).getD []

/-- The contents of a register by lane; a VOID register reads 0 (10 R200). -/
def lanesOf (g : Group) (r : VReg) : LaneVec := g.stored (g.place (regName r))
/-- The b operand by lane (06 R116, 10 R214): a register, the low half of a scalar register, or the immediate as the word reads it. -/
def opnd (s : State) (g : Group) (k : ImmKind) (b : BOpnd) : LaneVec :=
  match b with
  | .v r => lanesOf g r
  | .s j => Vector.replicate 32 (BitVec.ofNat 32 (rd s g j).toNat)
  | .imm i => Vector.replicate 32 (match k with
    | .int => BitVec.ofInt 32 i.toInt
    | .fp => BitVec.ofNat 32 (i.toNat * 2 ^ 16)
    | .packed => BitVec.ofNat 32 (i.toNat * 2 ^ 16 + i.toNat))

/-- A memory word of an ORD (06 R117: 1 .acq, 2 .rel, 3 .ar, 4 .sc), which acquires, releases, or both (13 R287, R292). -/
def memWord (load fence : Bool) (ord : BitVec 3) : WordClass :=
  .memory { load := load, fence := fence, acq := ord.toNat = 1 ∨ ord.toNat = 3 ∨ ord.toNat = 4, rel := 2 ≤ ord.toNat ∧ ord.toNat ≤ 4 }
/-- The word issues with these results on their way, and nothing else changes. -/
def Issues (i : Instr) (h : LaneCtl) (whole : Bool) (cls : WordClass) (lat : Nat) (regs : List RName) (effs : State → Group → W32 → List Eff) : Prop :=
  ∀ s g, AtLane s g h whole regs → exec i s = .next (drawn s (g.issued s.fclk h cls lat true (effs s g (onLanes s g h whole))))
/-- A word of the vector stream that computes each active lane of `d` from the same lane of its operands. -/
def Lane1 (i : Instr) (h : LaneCtl) (lat : Nat) (d a : VReg) (op : W32 → W32) : Prop :=
  Issues i h false .inOrder lat [regName d, regName a] fun _ g on =>
    [.reg (g.place (regName d)) on (Vector.ofFn fun l => op (lanesOf g a)[l])]
def Lane2 (i : Instr) (h : LaneCtl) (lat : Nat) (k : ImmKind) (d a : VReg) (b : BOpnd) (op : W32 → W32 → W32) : Prop :=
  Issues i h false .inOrder lat (regName d :: regName a :: opndRegs b) fun s g on =>
    [.reg (g.place (regName d)) on (Vector.ofFn fun l => op (lanesOf g a)[l] (opnd s g k b)[l])]
def Lane3 (i : Instr) (h : LaneCtl) (lat : Nat) (k : ImmKind) (d a : VReg) (b : BOpnd) (c : VReg) (op : W32 → W32 → W32 → W32) : Prop :=
  Issues i h false .inOrder lat (regName d :: regName a :: opndRegs b ++ [regName c]) fun s g on =>
    [.reg (g.place (regName d)) on (Vector.ofFn fun l => op (lanesOf g a)[l] (opnd s g k b)[l] (lanesOf g c)[l])]
/-- A compare: a mask with one bit a lane. -/
def LaneMask (i : Instr) (h : LaneCtl) (lat : Nat) (k : ImmKind) (m : BitVec 3) (a : VReg) (b : BOpnd) (op : W32 → W32 → Bool) : Prop :=
  ∀ s g, AtLane s g h false (regName a :: opndRegs b) → ∃ bits : W32, (∀ l : Fin 32, bits[l] = op (lanesOf g a)[l] (opnd s g k b)[l])
    ∧ exec i s = .next (drawn s (g.issued s.fclk h .inOrder lat true [.mask m (onLanes s g h false) bits]))

/-- 10 R202: F 0 keeps the low 32 bits of the unsigned result, F 1 saturates the signed result, F 2 the unsigned one. -/
def narrowed (f : BitVec 4) (u x : Int) : W32 :=
  BitVec.ofInt 32 (if f = 0 then u else if f = 1 then max (-2 ^ 31) (min x (2 ^ 31 - 1)) else max 0 (min u (2 ^ 32 - 1)))

/-- The operations of an X half and of a Y half of a dual word by their codes (06 R121), each as its full form with the same F has it (10 R202-R207, R210, R211, R215, R222, 11 R230); `t` is TPART, `l` the lane. -/
def halfX (op : Nat) (f : BitVec 4) (a b : W32) : W32 :=
  if op = 1 then BitVec.ofNat 32 (fAdd fp32 (rmOf f.toNat) a.toNat b.toNat)
  else if op = 2 then BitVec.ofNat 32 (fSub fp32 (rmOf f.toNat) a.toNat b.toNat)
  else if op = 3 then BitVec.ofNat 32 (fMul fp32 (rmOf f.toNat) a.toNat b.toNat)
  else if op = 4 then BitVec.ofNat 32 (fMinMax fp32 false a.toNat b.toNat)
  else BitVec.ofNat 32 (fMinMax fp32 true a.toNat b.toNat)
def halfY (op : Nat) (f : BitVec 4) (t l : Nat) (a b : W32) : W32 :=
  let count : Nat := if f = 0 then b.toNat % 32 else min b.toNat 32
  if op = 1 then narrowed f (a.toNat + b.toNat) (a.toInt + b.toInt)
  else if op = 2 then narrowed f ((a.toNat : Int) - b.toNat) (a.toInt - b.toInt)
  else if op = 3 then a * b
  else if op = 4 then (if (if f = 0 then b.toInt < a.toInt else b.toNat < a.toNat) then b else a)
  else if op = 5 then (if (if f = 0 then a.toInt < b.toInt else a.toNat < b.toNat) then b else a)
  else if op = 6 then (if f ≠ 0 ∧ a.toInt = -2 ^ 31 then BitVec.ofNat 32 (2 ^ 31 - 1) else BitVec.ofNat 32 a.toInt.natAbs)
  else if op = 7 then a &&& b
  else if op = 8 then a ||| b
  else if op = 9 then a ^^^ b
  else if op = 0xA then ~~~a
  else if op = 0xB then a <<< count
  else if op = 0xC then a >>> count
  else if op = 0xD then a.sshiftRight count
  else if op = 0xE then a
  else if op = 0xF then aluCvt f a
  else BitVec.ofNat 32 (if f = 0 then l else l % 2 ^ t)

/-- The sixteen 16-bit entries of lane `l` that the eight registers from `b` hold, low halves first (10 R219). -/
def bookAt (g : Group) (b : VReg) (l : Fin 32) : List Nat :=
  (List.range 8).flatMap fun i =>
    let x := (g.stored (g.place { regName b with k := b.k.toNat + i }))[l].toNat
    [x % 2 ^ 16, x / 2 ^ 16]

/-- What a cell (l, n) of an integer tile stands for, modulo 2^32: its register, its open sum and its cinder entry (15 R329, R332, R337). -/
def tileSum (s : State) (g : Group) (d : BitVec 8) (l n : Nat) : W32 :=
  (g.stored (g.bound + d.toNat + n)).getD l 0
    + (((g.tile? d).map fun t => (t.cells.getD n (Vector.replicate 32 0)).getD l 0).getD 0)
    + BitVec.ofInt 32 (65536 * cinderCount (s.clusterAt (g.slot / 192)).cinder g.slot d l n)
/-- Open sums and cinder entries only where the window has rows (15 R326, R337). -/
def Tidy (s : State) (g : Group) (d : BitVec 8) : Prop :=
  ∀ l n, (∀ t, g.tile? d = some t → t.rows.getLsbD l = false) →
    cinderCount (s.clusterAt (g.slot / 192)).cinder g.slot d l n = 0 ∧ ∀ t, g.tile? d = some t → (t.cells.getD n (Vector.replicate 32 0)).getD l 0 = 0
/-- The exact sum of the products of cell (l, n) in an integer pass (15 R323, R324, R329). -/
def productSum (m : Mmq) (bs : List Byte) (l n : Nat) : Int :=
  ((List.range 32).map fun kk => intElem m.afmt (aElem (fmtBits m.afmt) m.a l kk) * intElem m.blk.bfmt (bElem (fmtBits m.blk.bfmt) bs kk n)).sum
/-- Two dyadic numbers of one value; one not above the other; the distance of the first pair not above that of the second. -/
def Same (x y : Dy) : Prop := (x.sub y).m = 0
def AtMost (x y : Dy) : Prop := (x.sub y).m ≤ 0
def NotFarther (x y z : Dy) : Prop := AtMost (x.sub y).abs (x.sub z).abs

/-- The format of an element of a float operand and its code (15 R320): a CB4 code stands for its BF16 entry of the codebook (09 R178). -/
def elemFmt (f : Nat) : Fmt := [fp32, fp16, bf16, e4m3, e5m2].getD f bf16
def elemCode (f : Nat) (cb : List W16) (x : Nat) : Nat := if f < 5 then x else (cb.getD x 0).toNat
/-- The exact product of two values; none for a NaN and for zero times infinity. -/
def timesOf : FVal → FVal → Option FVal
  | .fin n m e, .fin n' m' e' => some (.fin (n != n') (m * m') (e + e'))
  | .fin n m _, .inf n' => if m = 0 then none else some (.inf (n != n'))
  | .inf n, .fin n' m' _ => if m' = 0 then none else some (.inf (n != n'))
  | .inf n, .inf n' => some (.inf (n != n'))
  | _, _ => none
/-- The codes of product kk of cell (l, n) (15 R323, R324), the product (15 R329; two CB4 operands give the FP32 entry of the table of 09 R178), and the NaN that it gives when it has
no value: A's element, else B's, else the default NaN (15 R330). -/
def cellCodes (m : Mmq) (bs : List Byte) (l n kk : Nat) : Nat × Nat :=
  (elemCode m.afmt m.acb (aElem (fmtBits m.afmt) m.a l kk), elemCode m.blk.bfmt m.bcb (bElem (fmtBits m.blk.bfmt) bs kk n))
def tableEntry (x : Nat × Nat) : Nat := fMul fp32 .rne (fConv bf16 fp32 .rne x.1) (fConv bf16 fp32 .rne x.2)
def cellProduct (m : Mmq) (bs : List Byte) (l n kk : Nat) : Option FVal :=
  let x := cellCodes m bs l n kk
  if m.afmt = 5 ∧ m.blk.bfmt = 5 then (if (fp32.read (tableEntry x)).isNan then none else some (fp32.read (tableEntry x)))
  else timesOf ((elemFmt m.afmt).read x.1) ((elemFmt m.blk.bfmt).read x.2)
def cellNan (m : Mmq) (bs : List Byte) (l n kk : Nat) : Nat :=
  let x := cellCodes m bs l n kk
  if m.afmt = 5 ∧ m.blk.bfmt = 5 then fp32.quiet (tableEntry x)
  else if ((elemFmt m.afmt).read x.1).isNan then fp32.quiet (fConv (elemFmt m.afmt) fp32 .rne x.1)
  else if ((elemFmt m.blk.bfmt).read x.2).isNan then fp32.quiet (fConv (elemFmt m.blk.bfmt) fp32 .rne x.2)
  else 0x7FC00000
/-- Cell (l, n) of a float pass (09 R192, 15 R329, R330): P and the exact sum of the 32 products, rounded once to the nearest; a NaN of P goes first, then that of the first product that has none;
infinities of both signs give the default NaN. -/
def FloatCell (m : Mmq) (bs : List Byte) (l n : Nat) (x y : W32) : Prop :=
  let v := fp32.read x.toNat
  (v.isNan = true → y.toNat = fp32.quiet x.toNat)
  ∧ (v.isNan = false → ∀ kk, kk < 32 → cellProduct m bs l n kk = none → (∀ i, i < kk → cellProduct m bs l n i ≠ none) → y.toNat = cellNan m bs l n kk)
  ∧ (v.isNan = false → ∀ ps : Fin 32 → FVal, (∀ kk, cellProduct m bs l n kk.val = some (ps kk)) →
    let all := v :: List.ofFn ps
    (FVal.inf false ∈ all → FVal.inf true ∈ all → y = 0x7FC00000)
    ∧ (FVal.inf false ∈ all → FVal.inf true ∉ all → y = 0x7F800000)
    ∧ (FVal.inf false ∉ all → FVal.inf true ∈ all → y = 0xFF800000)
    ∧ (FVal.inf false ∉ all → FVal.inf true ∉ all → ∃ sum, Same sum (all.foldl (fun a z => a.add z.dy) Dy.zero) ∧ y.toNat = fp32.round .rne (all.all FVal.neg) sum))
/-- The record of an MMQ's tile as its pass finds it (15 R326): KW, ROWS, P, the interval, whether an operand is scaled, and the scales of the window, which the MMQ gives when KW is 0 (R329). -/
def recKw (g : Group) (m : Mmq) : Nat := ((g.tile? m.d).map Tile.kw).getD 0
def recRows (g : Group) (m : Mmq) : W32 := ((g.tile? m.d).map Tile.rows).getD 0
def recCell (g : Group) (m : Mmq) (l n : Nat) : W32 := ((g.tile? m.d).map fun t => (t.cells.getD n (Vector.replicate 32 0)).getD l 0).getD 0
def recKlens (g : Group) (m : Mmq) : Nat × Nat := ((g.tile? m.d).map fun t => (t.aklen, t.bklen)).getD (m.blk.aklen, m.blk.bklen)
def blockLen (klen : Nat) : Nat := if klen = 0 then 128 else 2 ^ (klen + 4)
def recInterval (g : Group) (m : Mmq) : Nat := min 128 (min (blockLen (recKlens g m).1) (blockLen (recKlens g m).2))
def recScales (g : Group) (m : Mmq) : Option (List Byte) × Option (List Byte) :=
  match g.tile? m.d with
  | some t => if t.kw = 0 then (m.asc, m.bsc) else (t.asc, t.bsc)
  | none => (m.asc, m.bsc)
/-- Scale `i` of an operand as FP32 (09 R179, 15 R332): 2^(e - 127), a NaN for 0xFF, 1.0 where the operand is unscaled. -/
def scaleOf (sc : Option (List Byte)) (i : Nat) : W32 :=
  match sc with
  | none => 0x3F800000
  | some bs => let e := (bs.getD i 0).toNat
    if e = 255 then 0x7FC00000 else if e = 0 then 0x00400000 else BitVec.ofNat 32 (e * 2 ^ 23)
/-- The tile of a float window as a drain leaves it (15 R332): the cells of the lanes of ROWS replace the tile's, and when an operand is scaled the scales of those lanes and of every column go to
the side-band; other lanes stay. -/
def DrainedFloat (g g' : Group) (d : BitVec 8) (rows : W32) (cell : Nat → Nat → W32) (scaled : Bool) (sc : Option (List Byte) × Option (List Byte)) : Prop :=
  (∀ (n : Fin 32) (l : Fin 32), (g'.stored (g.bound + d.toNat + n.val))[l] = if rows[l] then cell l.val n.val else (g.stored (g.bound + d.toNat + n.val))[l])
  ∧ (scaled = true → ∀ l : Fin 32, (g'.stored (g.bound + d.toNat + 32))[l] = (if rows[l] then scaleOf sc.1 l.val else (g.stored (g.bound + d.toNat + 32))[l])
    ∧ (g'.stored (g.bound + d.toNat + 33))[l] = scaleOf sc.2 l.val)
  ∧ (scaled = false → ∀ n, n = 32 ∨ n = 33 → g'.stored (g.bound + d.toNat + n) = g.stored (g.bound + d.toNat + n))

/-- How a pass reads the B tile of a queued MMQ (15 R334): by what its group knew when it issued; stores performed since then, the group's own among them, may be met or not. -/
def tileReader (s : State) (g : Group) (m : Mmq) : Reader :=
  { th := s.lanesThread g, scope := 5, view := m.view, holes := m.holes ++ stampsFrom m.stamp s.order.stamp, own := false, newest := false }
def tileLocs (g : Group) (m : Mmq) : List Loc := (List.range (fmtBytes m.blk.bfmt)).map fun i => { spad := some (g.gid, m.blw), at_ := m.boff + i }

/-- EA(l) of a memory word (13 R283): base + the lane's offset + DISP, modulo 2^64. -/
def laneEa (s : State) (g : Group) (m : MemOp) (l : Nat) : Nat :=
  (rd s g m.a + (if m.voff then ((lanesOf g { acc := false, k := m.b }).getD l 0).signExtend 64 else 0) + m.disp.signExtend 64).toNat
/-- The places of the active lanes, in ascending lanes: every lane passes the checks of 13 R275. -/
def Placed (s : State) (g : Group) (h : LaneCtl) (m : MemOp) (check : Nat → Except Nat Place) (pls : List (Nat × Place)) : Prop :=
  pls.map Prod.fst = (List.range 32).filter (fun l => (onLanes s g h false).getLsbD l) ∧ ∀ x ∈ pls, check (laneEa s g m x.1) = .ok x.2
/-- No uncorrectable error and no link that is down stands in the way of a place (20 R399). -/
def Readable (s : State) (n : Nat) (pls : List (Nat × Place)) : Prop := ∀ x ∈ pls, ∀ p, x.2 = .glob p → errOf s p n = 0 ∧ linkUp s p = true
/-- The effects of a load: register `d + i` takes `v i` in the active lanes. -/
def loads (d : BitVec 8) (n : Nat) (on : W32) (v : Nat → LaneVec) : List Eff := (List.range n).map fun i => .reg (d.toNat + i) on (v i)
/-- Byte `k` of the element that lane `l` stores from the registers at `c` (13 R286). -/
def storedByte (g : Group) (c : BitVec 8) (l k : Nat) : Byte :=
  BitVec.ofNat 8 (((g.stored (c.toNat + k / 4)).getD l 0).toNat / 2 ^ (8 * (k % 4)))

/-- A store of `n` bytes at the places reaches memory: the link of host memory is up, and no half that it makes of sixteen bytes rings a doorbell (13 R286, 03 R47, 20 R399). -/
def Storable (s : State) (n : Nat) (pls : List (Nat × Place)) : Prop :=
  ∀ x ∈ pls, ∀ p, x.2 = .glob p → ∀ q, q = p ∨ 8 < n ∧ q = p + 8 → linkUp s q = true ∧ bellOf s q (min n 8) = none
/-- How a lane reads a place (17 R351, R355): by the scope of the word and what the lane knows; in a scratchpad of their own core the groups know each other's writes (13 R279). -/
def placeReader (s : State) (g : Group) (m : MemOp) (l : Nat) (pl : Place) : Reader :=
  { s.laneReader g l m.scope.toNat with own := s.ownPlace g pl }
/-- The group after a word that accesses memory but for what its lanes have heard and observed (17 R357, R359), and what the word leaves on its counter for a WAITC to prove
(R352): its stores, which no wait has covered, and what it has made known. -/
def Moved (h : LaneCtl) (g g' : Group) : Prop :=
  g' = { g with acqv := g'.acqv, obsv := g'.obsv, slack := g'.slack }
    ∧ ∃ new, g'.slack = g.slack ++ new ∧ ∀ y ∈ new, y.ctr = h.setc ∧ (y.stores = [] ∨ y.waited = false)
/-- The values of an atomic over its lanes in ascending order (13 R290): the memory after, and by lane what each found. -/
def atomSeq (type : BitVec 4) (data : Nat → List W32) : Memory → List (Nat × Nat) → Memory × List (Nat × Nat)
  | m, [] => (m, [])
  | m, (l, p) :: rest =>
    let old := memNat m p (atomSize type)
    let r := atomSeq type data (memWrite m p (leBytes (atomSize type) (atomNew type old (data l)))) rest
    (r.1, (l, old) :: r.2)

/-- What weighs in a request to stop a workgroup (22 R438): a trap to the host before QUOTA, QUOTA before a PREEMPT that holds, that before every other. -/
def weight : StopReason → Nat
  | .trapHost => 3
  | .quota => 2
  | .hostHold => 1
  | _ => 0

/-- A workgroup asked to stop in a FCLK (22 R427): the weightier request stands, from the FCLK of the first one, and a PREEMPT that holds and a quota are remembered. -/
def asked (fclk : Nat) (why : StopReason) (w : Wg) : Wg :=
  { w with hold := w.hold || why == .hostHold, quota := w.quota || why == .quota, stopAt := if w.stop.isSome then w.stopAt else fclk, stop := match w.stop with
    | some y => if weight y < weight why then some why else some y
    | none => some why }

/-- The members of a gang asked to stop, resident or placed and not yet restored; nothing else changes. -/
def gangAsked (s : State) (gid gang : Nat) (why : StopReason) : State :=
  let one (w : Wg) : Wg := if w.gid = gid ∧ w.lw ∈ gangOf (s.desc gid) gang then asked s.fclk why w else w
  { s with wgs := s.wgs.map one, resuming := s.resuming.map fun r => { r with wg := one r.wg } }

/-- A byte as it stood at a stamp: the newest of its writes up to then, where it has any. -/
def byteAt (s : State) (t a : Nat) : Byte :=
  match (s.order.versions { spad := none, at_ := a }).find? fun v => v.stamp ≤ t with
  | some v => v.val
  | none => memGet s.mem a
/-- A 64-bit word that the constant cache may give (02 R30, 08 R158): the one of the launch, or of any time since, whole. -/
def ConstWord (s : State) (gid : Nat) (as : List Nat) (v : Nat) : Prop :=
  let born := ((s.grid? gid).map Grid.born).getD 0
  ∃ t, (t = born ∨ born < t ∧ ∃ a ∈ as, ∃ x ∈ s.order.versions { spad := none, at_ := a }, x.stamp = t) ∧ v = leNat (as.map (byteAt s t))
/-- The same machine but for the record of the granules that waiting GROWs keep from the dispatcher (12 R246). -/
def Granted (s u : State) : Prop := u = { s with units := { s.units with withheld := u.units.withheld } }

/-- Where `n` bytes of a region of a job lie, from byte `o` of the region on (14 R304, 13 R272, R275). -/
def RegionAt (s : State) (j : Job) (need : Nat) (x : Region) (o n : Nat) (ps : List Place) : Prop :=
  ps.length = n ∧ ∀ i, i < n → match x.spad with
    | some lw => ps[i]? = some (.spad lw (x.base + o + i))
    | none => ∃ p, s.translate (s.ctxOfGrid j.gid) need (x.base + o + i) = .ok p ∧ ps[i]? = some (.glob p)
/-- Bytes that a job may read of a region (14 R313, 17 R365). -/
def RegionReads (s : State) (j : Job) (x : Region) (o n : Nat) (bs : List Byte) : Prop :=
  ∃ ps, RegionAt s j needRead x o n ps ∧ Reads s none (s.jobReader j) (ps.map (Place.loc j.gid)) bs
/-- What element `e` of a GATHER or SCATTER writes (14 R304): the element of the table that index `e` names goes to place `e` of the stream, or the other way round. -/
def Moves (s : State) (j : Job) (gather : Bool) (table stream idx : Region) (e : Nat) (ws : List (Place × Byte)) : Prop :=
  ∃ ib bs qs, RegionReads s j idx (4 * e) 4 ib ∧ leNat ib * 2 ^ j.card.opx + 2 ^ j.card.opx ≤ table.len
    ∧ (if gather then RegionReads s j table (leNat ib * 2 ^ j.card.opx) (2 ^ j.card.opx) bs ∧ RegionAt s j needWrite stream (e * 2 ^ j.card.opx) (2 ^ j.card.opx) qs
       else RegionReads s j stream (e * 2 ^ j.card.opx) (2 ^ j.card.opx) bs ∧ RegionAt s j needWrite table (leNat ib * 2 ^ j.card.opx) (2 ^ j.card.opx) qs)
    ∧ ws = qs.zip bs

/-- Bytes `o` to `o + n - 1` of a packet. -/
def fieldOf (bs : List Byte) (o n : Nat) : Nat := leNat ((bs.drop o).take n)
/-- What the operations of a SIGNAL make of the signal's word (03 R51). -/
def signalled (op : Nat) (v x : W64) : W64 :=
  if op = 0 then v else if op = 1 then x + v else if op = 2 then x - v else if op = 3 then x ||| v else x &&& v

/-- What a completing packet writes first (03 R55, R56), from the state in which its work is known: CSIG falls by one as an atomic with release, or is not accessible, which is
PKTFAULT; an error goes to ERRSIG with release and to ERR, where an ERRSIG that is not accessible is PKTFAULT. With a header that cannot be read the code reaches no ERRSIG (notes/assumptions/59). -/
def Reported (t : State) (p : Pkt) (u : State) : Prop :=
  let c := qCtx t p.q
  let lower (a x : Nat) : Option State := t.ctxWrite { t.unitRelease with rmw := true } c a (leBytes 8 ((x + (2 ^ 64 - 1)) % 2 ^ 64))
  ∃ v e, (match p.csig with
      | none => v = t ∧ e = p.err
      | some a => (∃ x, t.ctxNat c a 8 = some x ∧ lower a x = some v ∧ e = p.err)
          ∨ ((∀ x, t.ctxNat c a 8 = some x → lower a x = none) ∧ v = t.eccSeen c needRead a 8 ∧ e = if p.err = 0 then 5 else p.err))
    ∧ if e = 0 then u = v else ∃ w f, (match v.qHeader p.q with
        | none => w = v ∧ f = e
        | some h => if h.errsig = 0 then w = v ∧ f = e
           else match v.ctxWrite v.unitRelease c h.errsig (leBytes 8 (e * 2 ^ 48 + p.i % 2 ^ 48)) with
             | some w' => w = w' ∧ f = e
             | none => w = v ∧ f = 5)
      ∧ (w.qWrite p.q 0x23 1 f = some u ∨ w.qWrite p.q 0x23 1 f = none ∧ u = w)

/-- The rest of a completion (03 R54, R60, R66): the packet leaves the list, INCOMP counts one less, a queue whose header cannot be read is FAULTED, and the queue frees its slot if
RIDX = WIDX. -/
def closing (u : State) (p : Pkt) : State :=
  let v := ({ u with stoker := { u.stoker with pkts := u.stoker.pkts.filter fun x => !(x.q == p.q && x.i == p.i) } }).writeIncomp p.q
  (if (v.qHeader p.q).isNone = true ∧ p.q ∉ v.stoker.faulted then v.queueError p.q 8 else v).settleQueue p.q
/-- A packet whose work ends at its launch: it is consumed (03 R49) and completes with a code. -/
def ended (s : State) (q i va : Nat) (csig : Option Nat) (err : Nat) : State :=
  ((s.consume q i va).completePkt { q := q, i := i, csig := csig, err := err, work := .ready }).settleQueue q

/-- What a sample does to a sensor (21 R407, R408, R410), `ts` its thresholds in quarters of a degree. -/
def Sampled (ts : List Int) (x : Sensor) (temp : Int) (us : Nat) (y : Sensor) : Prop :=
  let raw := ts.countP fun t => t ≤ temp
  y.temp = temp ∧ y.seen = true
    ∧ (x.seen = false → y.band = raw)
    ∧ (x.seen = true → x.band < raw → y.band = raw)
    ∧ (x.seen = true → raw ≤ x.band → y.band = if 0 < x.band ∧ temp < ts.getD (x.band - 1) 0 - 12 ∧ x.changed + 400 ≤ us then x.band - 1 else x.band)

/-- From an offset of the readback space on, it shows these fields: offset, bytes, value (26 R449, R453). -/
def Shows (s : State) (o : Nat) (fs : List (Nat × Nat × Nat)) : Prop := ∀ x ∈ fs, leNat (readback s (o + x.1) x.2.1) = x.2.2 % 2 ^ (8 * x.2.1)
/-- The gangs of a grid that are placed, restored or not. -/
def gangsPlaced (s : State) (gid : Nat) : Nat :=
  (((s.wgs.filter fun w => w.gid == gid).map fun w => gangIdx (s.desc gid) w.lw).eraseDups
    ++ (s.resuming.filter fun r => r.wg.gid == gid).map fun r => gangIdx (s.desc gid) r.wg.lw).eraseDups.length
/-- What the readback space shows (26 R449-R454): ID, OWNSEM, QTBASE, DBBASE, mailboxes, error log, context table, grid directory, SFU images, TALW, CLKF, core table, saved
workgroups, group slots, window counts. A LIVE grid is HELD when its quota or the host holds a workgroup of it. -/
def ReadsBack (s : State) : Prop :=
  Shows s 0 [(0, 8, 0x0960 * 2 ^ 48 + 0xB0 * 2 ^ 40 + s.svc.fwok.toNat * 2 ^ 34 + s.svc.sfuok.toNat * 2 ^ 33 + s.svc.mxok.toNat * 2 ^ 32 + s.svc.fwver.toNat),
    (0x40, 8, s.svc.ownsem), (0x80, 8, s.svc.qtbase), (0x88, 8, s.svc.dbbase)]
  ∧ (∀ p, p < 2 → Shows s (0x1000 + 64 * p) [(0, 1, (s.port p).mb.cmd.toNat), (1, 1, (s.port p).mb.status.toNat), (8, 8, (s.port p).mb.arg0.toNat), (0x10, 8, (s.port p).mb.arg1.toNat)])
  ∧ (Shows s 0x10000 [(0, 8, s.svc.logHead)] ∧ ∀ b e, s.svc.log[b]? = some e → b < s.svc.logHead → b < 2047 → Shows s (0x10000 + 32 * (1 + (s.svc.logHead - 1 - b) % 2047))
      [(0, 8, e.time), (8, 2, e.code), (0xA, 2, e.unit), (0xC, 4, e.detail), (0x10, 8, e.addr), (0x18, 8, e.arg)])
  ∧ (∀ c, c < 4096 → let x := s.svc.ctx c
      Shows s (0x100000 + 256 * c) [(0, 8, x.troot), (8, 8, x.defl), (0x10, 8, x.wint), (0x18, 8, x.hobj), (0x20, 8, x.savea), (0x28, 2, x.hmask.toNat), (0x30, 4, (x.brk[0]).toNat),
        (0x34, 4, (x.brk[1]).toNat), (0x38, 4, (x.brk[2]).toNat), (0x3C, 4, (x.brk[3]).toNat), (0x40, 8, x.energy), (0x48, 8, x.overrun),
        (0x50, 4, (s.grids.countP fun d => d.ctx == c && d.st == .live) + (s.saved ++ s.resuming).countP fun r => s.ctxOfGrid r.wg.gid == c)])
  ∧ (∀ e d, e < 256 → s.grids.find? (fun d => d.entry == e && d.st != .reused) = some d →
      let held : Bool := d.quotaHeld || s.saved.any fun r => r.wg.gid == d.gid && r.held
      let waiting : Nat := if d.isTask then d.tasks.length + s.saved.countP fun r => r.wg.gid == d.gid
        else if d.st = .live then d.desc.gangs - gangsPlaced s d.gid - d.aside.length - d.exited.length else 0
      Shows s (0x2000000 + 64 * e) [(0, 8, d.name), (8, 2, d.ctx), (0xA, 1, if d.st = .retired then 3 else if held then 2 else 1), (0xB, 1, d.desc.mode), (0xC, 4, 0),
        (0x10, 8, gangsPlaced s d.gid), (0x18, 8, d.aside.length), (0x20, 8, waiting), (0x28, 8, d.exited.length), (0x30, 8, d.energy), (0x38, 8, d.overrun)])
  ∧ (∀ e, e < 256 → (∀ d ∈ s.grids, ¬(d.entry = e ∧ d.st ≠ .reused)) → Shows s (0x2000000 + 64 * e) [(0, 64, 0)])
  ∧ (∀ k o, k < 8 → o < 512 → leNat (readback s (0x2010000 + 512 * k + o) 1) = ((Config.partImage k).getD o 0).toNat)
  ∧ (∀ i, i < 192 → Shows s (0x2011000 + 8 * i) [(0, 8, (s.talw i).toNat)]) ∧ Shows s 0x2011600 [(0, 8, s.fclk)]
  ∧ (∀ p, p < 416 → let x := s.units.coreSens.getD p Sensor.reset
      let cl := s.clusterAt (p / 4)
      let ts := s.coreTenants p
      let part := (ts.head?.map fun w => (s.desc w.1.gid).part).getD 0
      let used (f : Desc → Nat) : Nat := (ts.map fun w => f (s.desc w.1.gid)).sum
      let granules := (ts.map fun w => (w.2.map fun g => g.regs.length / 8).sum).sum
      Shows s (0x2014000 + 128 * p) ([(0, 8, x.band * 2 ^ 32 + (BitVec.ofInt 16 x.temp).toNat * 2 ^ 16), (8, 8, (s.logicalOf p).getD 0xFFFF), (0x10, 2, part),
          (0x12, 1, (ts.map fun w => w.2.length).sum),
          (0x13, 1, (s.logicalOf p).isSome.toNat + 2 * cl.out.toNat + 4 * cl.tripped.toNat + 8 * (s.wgs.any fun w => w.core == p && w.migr).toNat),
          (0x14, 2, part / 2 ^ 8 * 64 - granules), (0x16, 2, part % 256 * 16 - used Desc.spwg), (0x18, 1, 32 - used Desc.nbar), (0x19, 1, 48 - ts.length), (0x1A, 38, 0)]
        ++ (List.range 8).map fun k => (0x40 + 8 * k, 8, (s.wp p k).toNat)))
  ∧ (∀ e r, e < 16384 → s.saved.find? (fun r => r.entry == some e) = some r → Shows s (0x2030000 + 32 * e) [(0, 8, ((s.grid? r.wg.gid).map Grid.name).getD 0), (8, 8, r.wg.lw),
      (0x10, 4, r.size), (0x14, 1, r.spilled.toNat), (0x15, 1, r.die), (0x16, 1, (r.held || s.quotaHeld r.wg.gid).toNat + 2 * r.quota.toNat + 4 * r.double.toNat), (0x17, 1, r.code),
      (0x18, 8, 0)])
  ∧ (∀ e, e < 16384 → (∀ r ∈ s.saved, r.entry ≠ some e) → Shows s (0x2030000 + 32 * e) [(0, 32, 0)])
  ∧ (∀ slot g, slot < 416 * 48 → s.group? slot = some g → let sp (r : Nat) : Nat := (s.special g r).toNat
      Shows s (0x2100000 + 256 * slot) ([(0, 8, 1 + 2 * g.inh.toNat + 2 ^ 8 * g.part), (8, 8, ((s.grid? g.gid).map Grid.name).getD 0), (0x10, 8, g.lw * (s.desc g.gid).wgsize + g.k),
          (0x18, 4, g.spc.toNat), (0x1C, 4, g.lpc.toNat), (0x20, 4, g.exm.toNat), (0x24, 1, g.tpart.toNat), (0x25, 3, 0), (0x28, 8, sp 0x0B), (0x30, 8, sp 0x0E), (0x38, 8, sp 0x0F),
          (0x40, 8, sp 0x10), (0x48, 8, sp 0x11), (0x50, 8, sp 0x12), (0x58, 8, sp 0x0D), (0x60, 8, sp 0x13), (0x68, 8, sp 0x00), (0x70, 8, sp 0x01), (0x78, 8, sp 0x02),
          (0x80, 8, sp 0x03), (0x88, 8, sp 0x07), (0x9C, 4, 0), (0xA0, 8, sp 0x0C), (0xA8, 8, sp 0x08), (0xB0, 8, sp 0x15), (0xB8, 8, 0)]
        ++ (List.finRange 12).map (fun k => (0x90 + k.val, 1, (g.ctrs[k]).toNat)) ++ (List.finRange 8).map fun k => (0xC0 + 8 * k.val, 8, (g.pins[k]).toNat)))
  ∧ (∀ slot, slot < 416 * 48 → s.group? slot = none → Shows s (0x2100000 + 256 * slot) [(0, 256, 0)])
  ∧ ∀ c w, c < 4096 → w < 256 → Shows s (0x2800000 + 4096 * c + 16 * w) [(0, 8, (s.svc.win c w).wcnt.toNat), (8, 8, (s.svc.win c w).werr.toNat)]

/-- An integer with a sign. -/
def signed (neg : Bool) (m : Nat) : Int := if neg then -(m : Int) else m
/-- The exact sum of ±m·2^e and ±m'·2^e'. -/
def exactSum (n : Bool) (m : Nat) (e : Int) (n' : Bool) (m' : Nat) (e' : Int) : Dy :=
  { m := signed n m * 2 ^ (e - min e e').toNat + signed n' m' * 2 ^ (e' - min e e').toNat, e := min e e' }
/-- The sign of an exact sum that is zero (09 R181): that of two zeros of one sign, else minus only in .rdn. -/
def zeroSign (rm : RM) (n : Bool) (m : Nat) (n' : Bool) (m' : Nat) : Bool := if m = 0 ∧ m' = 0 ∧ n = n' then n else rm == .rdn

/-- CVTEF over the lanes of a tile from lane l on (09 R185), by the carry that the lane before leaves: an inactive lane is passed over; a finite value with the carry is
rounded to the nearest, and what the rounding leaves is carried on, unless the result is not finite or has saturated; a NaN or an infinity is converted, and clears the carry. -/
inductive Feedback (dst : Fmt) (on : W32) (x y : LaneVec) : Nat → Nat → Dy → Prop where
  | last (l : Nat) (carry : Dy) : Feedback dst on x y 0 l carry
  | skip (n l : Nat) (carry : Dy) : on.getLsbD l = false → Feedback dst on x y n (l + 1) carry → Feedback dst on x y (n + 1) l carry
  | step (n l : Nat) (carry left t : Dy) (neg : Bool) (m : Nat) (e : Int) (r : Nat) : on.getLsbD l = true → fp32.read ((x.getD l 0).toNat) = .fin neg m e →
      Same t (Dy.add { m := signed neg m, e := e } carry) → r = dst.round .rne (neg && m == 0 && carry.m == 0) t → y.getD l 0 = BitVec.ofNat 32 r →
      ((∃ n' m' e', dst.read r = .fin n' m' e' ∧ (dst.e4m3 = true → AtMost t.abs (Dy.ofInt 464) ∧ ¬Same t.abs (Dy.ofInt 464))
          ∧ Same left (t.sub { m := signed n' m', e := e' }))
        ∨ ((∀ n' m' e', dst.read r ≠ .fin n' m' e') ∨ dst.e4m3 = true ∧ AtMost (Dy.ofInt 464) t.abs) ∧ left.m = 0) →
      Feedback dst on x y n (l + 1) left → Feedback dst on x y (n + 1) l carry
  | other (n l : Nat) (carry left : Dy) : on.getLsbD l = true → (∀ neg m e, fp32.read ((x.getD l 0).toNat) ≠ .fin neg m e) →
      y.getD l 0 = BitVec.ofNat 32 (fConv fp32 dst .rne (x.getD l 0).toNat) → left.m = 0 → Feedback dst on x y n (l + 1) left → Feedback dst on x y (n + 1) l carry

/-- A finite value or an infinity below another. -/
def Below : FVal → FVal → Prop
  | .inf n, .inf n' => n = true ∧ n' = false
  | .inf n, .fin _ _ _ => n = true
  | .fin _ _ _, .inf n' => n' = false
  | .fin n m e, .fin n' m' e' => (exactSum n m e (!n') m' e').m < 0
  | _, _ => False
/-- The first entry is nearer to ±m·2^e than the second; infinite entries lie at infinite distance. -/
def Nearer (n : Bool) (m : Nat) (e : Int) : FVal → FVal → Prop
  | .fin _ _ _, .inf _ => True
  | .fin n1 m1 e1, .fin n2 m2 e2 =>
    ¬AtMost (exactSum n2 m2 e2 (!n) m e).abs (exactSum n1 m1 e1 (!n) m e).abs
  | _, _ => False
/-- The code that CBENC chooses for `a` among sixteen entries (10 R221). -/
def Chosen (a : FVal) (v : Nat → FVal) (c : Nat) : Prop :=
  let first (p : Nat → Prop) : Prop := (p c ∧ ∀ i, i < c → ¬p i) ∨ ((∀ i, i < 16 → ¬p i) ∧ c = 0)
  match a with
  | .nan _ _ => first fun i => (v i).isNan = true
  | .inf n => ((∃ i, i < 16 ∧ v i = .inf n) → first fun i => v i = .inf n)
      ∧ ((∀ i, i < 16 → v i ≠ .inf n) → first fun i => (v i).isNan = false ∧ ∀ j, j < 16 → (v j).isNan = false → if n then ¬Below (v j) (v i) else ¬Below (v i) (v j))
  | .fin n m e => first fun i => (v i).isNan = false ∧ ∀ j, j < 16 → (v j).isNan = false → ¬Nearer n m e (v j) (v i)

/-- Combine of 11 R232: operation, type (0 .s32, 1 .u32, 2 .f32). -/
def combined (op ty : Nat) (p q : W32) : W32 :=
  let lt (x y : W32) : Bool := if ty = 0 then x.toInt < y.toInt else x.toNat < y.toNat
  if op = 0 then (if ty = 2 then BitVec.ofNat 32 (fAdd fp32 .rne p.toNat q.toNat) else p + q)
  else if op = 1 then (if ty = 2 then BitVec.ofNat 32 (fMinMax fp32 false p.toNat q.toNat) else if lt q p then q else p)
  else if op = 2 then (if ty = 2 then BitVec.ofNat 32 (fMinMax fp32 true p.toNat q.toNat) else if lt p q then q else p)
  else if op = 3 then p &&& q else if op = 4 then p ||| q else p ^^^ q
/-- The tree of 09 R191 over 2^t positions: the trees of its halves combined; a position without a value gives way to the other. -/
def treeOf (op ty : Nat) : Nat → (Nat → Option W32) → Option W32
  | 0, s => s 0
  | t + 1, s => match treeOf op ty t s, treeOf op ty t (fun i => s (i + 2 ^ t)) with
    | some p, some q => some (combined op ty p q)
    | some p, none => some p
    | none, q => q
/-- The values of the active lanes of the tile of lane `l` that come before it, in lane order. -/
def before (t : Nat) (on : W32) (x : LaneVec) (l : Nat) : List W32 :=
  ((List.range l).filter fun i => i / 2 ^ t = l / 2 ^ t ∧ on.getLsbD i = true).map fun i => x.getD i 0

end Sys2Proof.Claims

open Sys2Proof Sys2Proof.Machine Sys2Proof.Claims

-- ### Decoding and the step

/-- Words that the spec writes out: SADDI and SLUI (08 R153), TRAP 5 and RETT (22 R423), a DUAL bit that no half backs, an unassigned opcode. -/
def Obligations.SpecWordsDecode : Prop :=
  decodeScalar 0x06120010 = some (.saddi 9 0 16) ∧ decodeScalar 0x20120010 = some (.slui 9 16) ∧ decodeScalar 0xFE14000A = some (.trap 5)
    ∧ decodeScalar 0xFE160000 = some .rett ∧ decodeScalar 0 = none ∧ decodeLane (2 ^ 94 + 15 * 2 ^ 74) = none
    ∧ decodeLane (15 * 2 ^ 74 + 0x1C3 * 2 ^ 62) = some (.mwait { sw := false, dist := 0, wait := 0, setc := 15, pred := 0 })

/-- Decoding the encoding of a well-formed scalar word gives it back, with every operand (06 R106-R112). -/
def Obligations.ScalarRoundTrip : Prop := ∀ i w, i.wf = true → encodeScalar i = some w → w < 2 ^ 32 ∧ decodeScalar w = some i
/-- Decoding the encoding of a well-formed lane word gives it back, with every operand (06 R113-R123). -/
def Obligations.LaneRoundTrip : Prop := ∀ i w, i.wf = true → encodeLane i = some w → w < 2 ^ 96 ∧ decodeLane w = some i
/-- A word names one instruction: what decodes is well-formed and encodes to that word and no other, in one stream only. -/
def Obligations.DecodedWordsEncode : Prop :=
  (∀ w i, decodeScalar w = some i → i.wf = true ∧ encodeScalar i = some w ∧ encodeLane i = none)
    ∧ ∀ w i, decodeLane w = some i → i.wf = true ∧ encodeLane i = some w ∧ encodeScalar i = none

/-- A step runs the decoded instruction. The head of the agenda says whose turn it is, and `seated` puts the turn in this FCLK or, when its place in it is past, in the
next. A scalar turn of a group that is not held runs the word that SPC names (07 R127); a lane turn runs the next word of the oldest queued run (07 R128); in both,
when the word decodes and no breakpoint matches, the step is the meaning of that instruction for that group. A step of a unit or of the host is the meaning of that step;
otherwise time passes. A turn that is the first of its FCLK keeps the FCLK; memory and the agenda stay in any case. That the agenda orders the turns, and the order
within an FCLK, is the model's (notes/assumptions/1); so is it that a scalar word waits while a lane word of the group has lanes left to perform, and a lane word of a group while
another group has such a word in the workgroup's scratchpad, and that a lane word comes after the accesses of its group that are still to be performed, but for a word that may pass them
(notes/assumptions/5). -/
def Obligations.StepRunsDecodedInstruction : Prop :=
  (∀ s g ts w i u, s.agenda = .scalar g.slot :: ts → u = { s with agenda := ts }.seated (.scalar g.slot) → u.group? g.slot = some g → u.frozen g = false →
    g.spend = none → g.mid = none → g.entryWaits u.fclk = false → fetchScalar u g g.spc.toNat = .word w → decodeScalar w = some i → breaks { u with cur := g.slot } g false g.spc.toNat = false →
    step s = exec i { u with cur := g.slot })
  ∧ (∀ s g ts r rs w ws i u, s.agenda = .lane g.slot :: ts → u = { s with agenda := ts }.seated (.lane g.slot) → u.group? g.slot = some g → u.laneFrozen g = false →
    (g.parked = false ∨ g.drained = true) → u.spadBusy g = false → g.runq = r :: rs → r.buf = some w :: ws → decodeLane w = some i → breaks { u with cur := g.slot } g true r.next = false →
    step s = exec i ({ u with cur := g.slot }.beforeWord g i))
  ∧ (∀ (s : State) g i, (g.late = [] ∨ s.passesLate g i = true → s.beforeWord g i = s)
    ∧ (g.late ≠ [] → s.passesLate g i = false → s.beforeWord g i = withGroupIn (s.performAll g).1 (s.performAll g).2))
  ∧ ((∀ s i ts, s.agenda = .act i :: ts → encode i = .none → step s = exec i ({ s with agenda := ts }.seated (.act i)))
    ∧ (∀ s n ts, s.agenda = .tick n :: ts → step s = .next ({ s with agenda := ts }.tick n))
    ∧ ∀ (s : State) (t : Turn), (s.seated t).mem = s.mem ∧ (s.seated t).agenda = s.agenda ∧ s.fclk ≤ (s.seated t).fclk ∧ (s.seated t).fclk ≤ s.fclk + 1
      ∧ (s.seat.phase = 0 → ∀ slot, t = .scalar slot ∨ t = .lane slot → s.seated t = { s with seat := s.seatOf t }))

/-- A word of the scalar stream that names no instruction, or lies past the section's end, raises ILLEGAL where it stands (06 R124): CAUSE.CODE is 1, EPC
names the word, FADDR is 0, and its scalar registers, vector registers, masks and memory stay. -/
def Obligations.UndecodedScalarWordTraps : Prop :=
  ∀ s g ts u, s.agenda = .scalar g.slot :: ts → u = { s with agenda := ts }.seated (.scalar g.slot) → u.group? g.slot = some g → u.frozen g = false → g.still → g.mid = none →
    (fetchScalar u g g.spc.toNat = .beyond ∨ ∃ w, fetchScalar u g g.spc.toNat = .word w ∧ decodeScalar w = none) →
    ∃ t g', step s = .next t ∧ t.group? g.slot = some g' ∧ t.mem = s.mem ∧ g'.epc = g.spc ∧ g'.faddr = 0 ∧ g'.cause.toNat % 256 = 1
      ∧ g'.cause.getLsbD 24 = false ∧ g'.sregs = g.sregs ∧ g'.regs = g.regs ∧ g'.masks = g.masks

/-- No run stops: from every state the step answers a next state. A word that traps, waits or is ILLEGAL has a next state too. -/
def Obligations.EveryStepGoesOn : Prop := ∀ s, Runs (step s)
/-- Every step keeps memory in canonical form: addresses rising, no byte that an unlisted address reads as. -/
def Obligations.StepKeepsMemoryCanonical : Prop := ∀ s t, s.memOk → step s = .next t → t.memOk
/-- What reset leaves (26 R449, R450, R451, R452, R458; 20 R396; 21 R407): no queue is served and no group resident, QTBASE and DBBASE are 0, the
context-store sizes are 1, OWNSEM is free, the error log is empty, every context field reads 0, MXOK is 0, no sensor has been sampled; memory is
canonical. Where SFUOK is 1 the eight images that the readback space shows are those of the tables that the SFUs use, with the RCP entry that 09 R198 works out; that the self-test compares them so is the
model's reading (notes/assumptions/9). -/
def Obligations.ResetState : Prop :=
  let r := State.reset
  r.memOk ∧ r.groups = [] ∧ r.grids = [] ∧ r.serves = false ∧ r.svc.qtbase = 0 ∧ r.svc.dbbase = 0 ∧ r.svc.ctxStore = List.replicate 8 1
    ∧ r.svc.ownsem = 0 ∧ r.svc.log = [] ∧ r.svc.logHead = 0 ∧ (∀ c, r.svc.ctx c = Ctx.reset) ∧ r.svc.mxok = false
    ∧ r.units.coreSens.all (fun x => !x.seen) = true ∧ r.units.vaultSens.all (fun x => !x.seen) = true ∧ r.fclk = 0 ∧ r.us = 0
    ∧ (r.svc.sfuok = true → (∀ k, k < 8 → some (Config.partImage k) = sfuImages[k]?) ∧ leNat (((Config.partImage 0).drop 256).take 8) = 0x54E4252E3D9812AC)
/-- No word of a device program changes the global configuration (20 R395, 26 R449): queue and doorbell bases, limits, store sizes, OWNSEM, the
firmware images, the identity counter, the FAULTED queues and the queues served. Of the repair map only the slots of matrix sub-arrays can change, by the fence of a
self-test when a trap lets a matrix queue run to its end (15 R342): the slots of the engine of a group; while no matrix word is queued the map stays. -/
def Obligations.WordsKeepGlobalConfiguration : Prop :=
  ∀ s t slot, (scalarTurn slot s = .next t ∨ laneTurn slot s = .next t ∨ partTurn slot s = .next t ∨ lateTurn slot s = .next t ∨ ∃ id, performTurn slot id s = .next t) →
    t.svc.qtbase = s.svc.qtbase ∧ t.svc.dbbase = s.svc.dbbase ∧ t.svc.limits = s.svc.limits ∧ t.svc.fclkLimit = s.svc.fclkLimit
      ∧ t.svc.ctxStore = s.svc.ctxStore ∧ t.svc.ownsem = s.svc.ownsem ∧ t.svc.image = s.svc.image ∧ t.svc.running = s.svc.running ∧ t.svc.leaf = s.svc.leaf
      ∧ t.stoker.faulted = s.stoker.faulted ∧ t.stoker.slots = s.stoker.slots ∧ t.stoker.pending = s.stoker.pending
      ∧ (memWf s.svc.repairMap = true → ∀ x, memGet t.svc.repairMap x ≠ memGet s.svc.repairMap x →
          ∃ g ∈ s.groups, 0x20 + 8 * (g.slot / 192) ≤ x ∧ x < 0x28 + 8 * (g.slot / 192))
      ∧ ((∀ g ∈ s.groups, g.mq = []) → t.svc.repairMap = s.svc.repairMap)

-- ### Scalar arithmetic

/-- Integer and address arithmetic of the scalar stream (08 R150): every result wraps modulo 2^64, shift counts are the low six bits of sb, and the words
change only sd and SPC. -/
def Obligations.ScalarArithmetic : Prop :=
  (∀ d a b, Gives (.sadd d a b) d fun s g => rd s g a + rd s g b)
  ∧ (∀ d a b, Gives (.ssub d a b) d fun s g => rd s g a - rd s g b)
  ∧ (∀ d a i, Gives (.saddi d a i) d fun s g => rd s g a + i.signExtend 64)
  ∧ (∀ d a b, Gives (.smul d a b) d fun s g => rd s g a * rd s g b)
  ∧ (∀ d a b u, Gives (.smulh d a b u) d fun s g =>
      BitVec.ofInt 64 ((if u then ((rd s g a).toNat : Int) * (rd s g b).toNat else (rd s g a).toInt * (rd s g b).toInt) / 2 ^ 64))
  ∧ (∀ d a b, Gives (.sand d a b) d fun s g => rd s g a &&& rd s g b)
  ∧ (∀ d a b, Gives (.sor d a b) d fun s g => rd s g a ||| rd s g b)
  ∧ (∀ d a b, Gives (.sxor d a b) d fun s g => rd s g a ^^^ rd s g b)
  ∧ (∀ d a b, Gives (.sshl d a b) d fun s g => rd s g a <<< ((rd s g b).toNat % 64))
  ∧ (∀ d a b, Gives (.sshr d a b) d fun s g => rd s g a >>> ((rd s g b).toNat % 64))
  ∧ (∀ d a b, Gives (.ssra d a b) d fun s g => (rd s g a).sshiftRight ((rd s g b).toNat % 64))
  ∧ (∀ d a b u, Gives (.smin d a b u) d fun s g =>
      if (if u then (rd s g b).ult (rd s g a) else (rd s g b).slt (rd s g a)) then rd s g b else rd s g a)
  ∧ (∀ d a b u, Gives (.smax d a b u) d fun s g =>
      if (if u then (rd s g a).ult (rd s g b) else (rd s g a).slt (rd s g b)) then rd s g b else rd s g a)
  ∧ (∀ d a b dw, Gives (.slea d a b dw) d fun s g => rd s g a + rd s g b * (if dw then 8 else 4))
  ∧ (∀ d a, Gives (.sclz d a) d fun s g => BitVec.ofNat 64 (leadZeros (rd s g a)))
  ∧ (∀ d a, Gives (.spopc d a) d fun s g => BitVec.ofNat 64 (popCount (rd s g a)))

/-- Constants, fields, selects and compares of the scalar stream (08 R152-R155). SBFI and SSEL read sd as well; in SBFI bit j of the result is bit
j - POS of sa inside the field and bit j of sd outside it. -/
def Obligations.ScalarFieldsAndCompares : Prop :=
  (∀ d i, Gives (.slui d i) d fun s g => BitVec.ofNat 64 ((rd s g d).toNat * 2 ^ 17 + i.toNat))
  ∧ (∀ d a b, Gives (.sbfe d a b) d fun s g =>
      let pos : Nat := (rd s g b).toNat % 64
      let len : Nat := min ((rd s g b).toNat / 2 ^ 8 % 2 ^ 7) 64
      let f : Nat := (rd s g a).toNat / 2 ^ pos % 2 ^ len
      if len = 0 then 0 else if (rd s g b).getLsbD 16 ∧ 2 ^ (len - 1) ≤ f then BitVec.ofInt 64 ((f : Int) - 2 ^ len) else BitVec.ofNat 64 f)
  ∧ (∀ d a b s g, AtScalar s g d → ∃ v, exec (.sbfi d a b) s = .next (drawn s (nextWord (withScalar g d v))) ∧
      ∀ j, j < 64 → v.getLsbD j =
        let pos : Nat := (rd s g b).toNat % 64
        let len : Nat := min ((rd s g b).toNat / 2 ^ 8 % 2 ^ 7) 64
        if pos ≤ j ∧ j < pos + len then (rd s g a).getLsbD (j - pos) else (rd s g d).getLsbD j)
  ∧ (∀ d a b, Gives (.ssel d a b) d fun s g => if rd s g d ≠ 0 then rd s g a else rd s g b)
  ∧ (∀ c d a b, Gives (.scmp c d a b) d fun s g =>
      let x := rd s g a
      let y := rd s g b
      let holds : Bool := match c.toNat with
        | 0 => x == y
        | 1 => x != y
        | 2 => x.toInt < y.toInt
        | 3 => y.toInt ≤ x.toInt
        | 4 => x.toNat < y.toNat
        | _ => y.toNat ≤ x.toNat
      if holds then 1 else 0)

/-- SDIV and SREM (08 R151): rounded toward zero; by zero, all ones and the dividend. The result is on its way until SCALAR_RESULT_READY writes it
(R148). -/
def Obligations.ScalarDivide : Prop :=
  (∀ d a b u s g, AtScalar s g d → exec (.sdiv d a b u) s =
    .next (drawn s (arriving g d true (quotient u (rd s g a) (rd s g b)))))
  ∧ (∀ d a b u s g, AtScalar s g d → exec (.srem d a b u) s =
    .next (drawn s (arriving g d true (remainder u (rd s g a) (rd s g b)))))
  ∧ (∀ slot s g p, s.group? slot = some g → g.spend = some p → Settled g p.d →
      exec (.scalarResultReady slot) s = .next (drawn s { withScalar g p.d p.v with spend := none }))

/-- Reads of scalar registers (06 R107, 07 R131): s0 reads 0; a read that comes before a lane word that writes the register completes receives the old or the new value,
and a scalar write that comes before it either stands or is overwritten later. SGET gives
the special registers of 06 R112. SSET (08 R170, 07 R130, R141): EXM and TPART change once the run queue is empty, and a reserved TPART code leaves TPART; EPC, ELPC and PROGTO change
at once; a read-only register ignores the word. Nothing else of the group changes but SPC, and the watchdog's count for PROGTO. -/
def Obligations.RegisterReadsAndWrites : Prop :=
  ((∀ (g : Group) n, g.sreg n 0 = 0)
  ∧ (∀ (g : Group) n k, k ≠ 0 → (∀ v, Eff.sreg k v ∉ g.pending) → g.sreg n k = g.sregs[k.toNat]'(k.isLt))
  ∧ (∀ (g : Group) n k v, k ≠ 0 → g.pending = [.sreg k v] → g.sreg n k = g.sregs[k.toNat]'(k.isLt) ∨ g.sreg n k = v)
  ∧ (∀ d a b s (g : Group) (f : Flight) v, d ≠ 0 → s.group? s.cur = some g → g.spend = none → g.runq = [] → g.flights = [f] → f.effs = [.sreg d v] →
    ∃ u g', exec (.sadd d a b) s = .next u ∧ u.group? g.slot = some g' ∧ g'.sregs[d.toNat]'(d.isLt) = rd s g a + rd s g b
      ∧ (g'.flights = [f] ∨ g'.flights = [{ f with effs := [] }])))
  ∧ ((∀ d r, Gives (.sget d r) d fun s g => s.special g r.toNat)
  ∧ ∀ (s : State) (g : Group), s.special g 0x04 = BitVec.ofNat 64 (s.desc g.gid).gridx ∧ s.special g 0x05 = BitVec.ofNat 64 (s.desc g.gid).gridy
      ∧ s.special g 0x06 = BitVec.ofNat 64 (s.desc g.gid).gridz ∧ s.special g 0x08 = BitVec.ofNat 64 (g.slot / 48)
      ∧ s.special g 0x09 = BitVec.ofNat 64 g.exm.toNat ∧ s.special g 0x0A = BitVec.ofNat 64 g.tpart.toNat
      ∧ s.special g 0x0B = BitVec.ofNat 64 (g.regs.length / 8 * 65536 + g.bound) ∧ s.special g 0x0D = g.stepn ∧ s.special g 0x0E = g.cause
      ∧ s.special g 0x0F = BitVec.ofNat 64 g.epc.toNat ∧ s.special g 0x10 = BitVec.ofNat 64 g.elpc.toNat ∧ s.special g 0x11 = g.faddr
      ∧ s.special g 0x12 = g.fspc ∧ s.special g 0x13 = BitVec.ofNat 64 g.progto.toNat ∧ s.special g 0x14 = BitVec.ofNat 64 s.fclk
      ∧ (∀ k, k < 8 → s.special g (0x18 + k) = BitVec.ofNat 64 (s.wp (g.slot / 48) k).toNat)
      ∧ (∀ i, i < 192 → s.special g (0x40 + i) = s.talw i)
      ∧ s.special g 0x15 = BitVec.ofNat 64 ((s.clusterAt (g.slot / 192)).halves / 2)
      ∧ (∀ w, s.wg? g.gid g.lw = some w → s.special g 0x07 = BitVec.ofNat 64 w.lcore)
      ∧ ∀ gr, s.grid? g.gid = some gr → 1 ≤ gr.desc.gang → 1 ≤ gr.desc.gridx → 1 ≤ gr.desc.gridy →
        s.special g 0x00 = BitVec.ofNat 64 (g.lw % gr.desc.gang * 256 + g.k)
        ∧ (let n := if gr.isTask then 0 else g.lw / gr.desc.gang
          s.special g 0x01 = BitVec.ofNat 64 (n % gr.desc.gridx) ∧ s.special g 0x02 = BitVec.ofNat 64 (n / gr.desc.gridx % gr.desc.gridy)
          ∧ s.special g 0x03 = BitVec.ofNat 64 (n / gr.desc.gridx / gr.desc.gridy))
        ∧ s.special g 0x0C = if gr.unl then BitVec.ofNat 64 (2 ^ 63) else BitVec.ofNat 64 (gr.left % 2 ^ 63))
  ∧ ((∀ a s g, AtScalar s g 0 → g.runq = [] → exec (.sset 0x09 a) s = .next (drawn s { nextWord g with exm := BitVec.ofNat 32 (rd s g a).toNat }))
  ∧ (∀ a s g, AtScalar s g 0 → g.runq = [] → exec (.sset 0x0A a) s = 
      .next (drawn s { nextWord g with tpart := if 1 ≤ (rd s g a).toNat % 8 ∧ (rd s g a).toNat % 8 ≤ 5 then BitVec.ofNat 3 (rd s g a).toNat else g.tpart }))
  ∧ (∀ a s g, AtScalar s g 0 → g.runq ≠ [] → exec (.sset 0x09 a) s = .next s ∧ exec (.sset 0x0A a) s = .next s)
  ∧ (∀ a s g, AtScalar s g 0 → exec (.sset 0x0F a) s = .next (drawn s { nextWord g with epc := BitVec.ofNat 32 (rd s g a).toNat }))
  ∧ (∀ a s g, AtScalar s g 0 → exec (.sset 0x10 a) s = .next (drawn s { nextWord g with elpc := BitVec.ofNat 19 (rd s g a).toNat }))
  ∧ (∀ a s g, AtScalar s g 0 → exec (.sset 0x13 a) s = .next (drawn s { touched s (nextWord g) with progto := BitVec.ofNat 32 (rd s g a).toNat }))
  ∧ (∀ r a s g, AtScalar s g 0 → r ≠ 0x09 → r ≠ 0x0A → r ≠ 0x0F → r ≠ 0x10 → r ≠ 0x13 → exec (.sset r a) s = .next (drawn s (nextWord g))))

-- ### Scalar memory

/-- SLD and SLDC (08 R156, R158, 02 R30): where the checks of 13 R275 pass and no error stands, the word leaves its value on its way (R148), extended from its
size to 64 bits, and changes no memory; its bytes are those that the memory model lets the scalar stream read (17 R355, R363), under the stores of the task that the
group runs (19 R385): those of memory, where the stream knows every write of them. SLDC gives a whole word of the data section as it stood at the launch or at any time since, inside a task as it stands. A
misaligned SLD traps with ALIGN and its address. -/
def Obligations.ScalarLoads : Prop :=
  (∀ t d a i s g p, AtScalar s g d → checkPhys s g needRead (2 ^ (t.toNat / 2)) (rd s g a + i.signExtend 64).toNat = .ok p →
      errOf s p (2 ^ (t.toNat / 2)) = 0 →
      ∃ u g' bs, exec (.sld t d a i) s = .next u ∧ u.mem = s.mem ∧ (∀ x ∈ u.groups, x.slot ≠ g.slot → x ∈ s.groups) ∧ u.group? g.slot = some g'
        ∧ Heard (arriving g d false (extended (t.toNat % 2 == 1) (2 ^ (t.toNat / 2)) (leNat bs))) g'
        ∧ Reads s (s.taskOf g) (s.scalarReader g) (globLocs p (2 ^ (t.toNat / 2))) bs ∧ (s.taskOf g = none → Knows (drawn s g') u))
  ∧ (∀ s r p n bs, Reads s none r (globLocs p n) bs → UpToDate s r (globLocs p n) → (∀ k, k < n → errOf s (p + k) 1 = 0) → bs = memRead s.mem p n)
  ∧ (∀ t d a i s g, AtScalar s g d → g.still → (rd s g a + i.signExtend 64).toNat < 2 ^ 57 →
      (rd s g a + i.signExtend 64).toNat % 2 ^ (t.toNat / 2) ≠ 0 →
      ∃ u g', exec (.sld t d a i) s = .next u ∧ u.mem = s.mem ∧ u.group? g.slot = some g' ∧ g'.cause.toNat % 256 = 5
        ∧ g'.faddr = rd s g a + i.signExtend 64 ∧ g'.epc = g.spc ∧ g'.sregs = g.sregs)
  ∧ (∀ d i s g x, AtScalar s g d → (s.codeObj g).doff ≠ 0 → 8 * i.toNat + 8 ≤ (s.codeObj g).dlen →
      readVirt s (s.ctxOfGrid g.gid) (s.taskOf g) (s.scalarReader g) 0 ((s.codeObj g).addr + (s.codeObj g).doff + 8 * i.toNat) 8 = .ok x →
      ∃ u v, exec (.sldc d i) s = .next u ∧ u.mem = s.mem ∧ u.group? g.slot = some (arriving g d false (BitVec.ofNat 64 v)) ∧ (s.taskOf g ≠ none → v = leNat x.bytes)
        ∧ (s.taskOf g = none → u = drawn s (arriving g d false (BitVec.ofNat 64 v)) ∧ ConstWord s g.gid x.phys v))
  ∧ (∀ s c t r salt va n x, readVirt s c t r salt va n = .ok x → x.phys.length = n ∧ Reads s t r (x.phys.map fun p => { spad := none, at_ := p }) x.bytes
      ∧ ∀ k, k < n → s.translate c needRead (va + k) = .ok (x.phys.getD k 0))

/-- SST (08 R156): outside an ordered task the low bytes of sb go to the translated address, little-endian, every other byte of memory reads as before, and only SPC of the
group changes; eight bytes inside the doorbell page ring the doorbell of their word and write no memory (03 R47). -/
def Obligations.ScalarStoresAndDoorbells : Prop :=
  (∀ t b a i s g p, AtScalar s g 0 → s.memOk → s.taskOf g = none → linkUp s p = true →
    checkPhys s g needWrite (2 ^ t.toNat) (rd s g a + i.signExtend 64).toNat = .ok p → bellOf s p (2 ^ t.toNat) = none →
    ∃ u, exec (.sst t b a i) s = .next u ∧ u.group? g.slot = some (nextWord g) ∧ u.memOk
      ∧ (∀ k, k < 2 ^ t.toNat → memGet u.mem (p + k) = BitVec.ofNat 8 ((rd s g b).toNat / 2 ^ (8 * k)))
      ∧ ∀ x, (x < p ∨ p + 2 ^ t.toNat ≤ x) → memGet u.mem x = memGet s.mem x)
  ∧ (∀ b a i s g p q, AtScalar s g 0 → s.taskOf g = none → checkPhys s g needWrite 8 (rd s g a + i.signExtend 64).toNat = .ok p → isHost p = false →
    s.svc.dbbase ≠ 0 → p = s.svc.dbbase + 8 * q → q < 65536 →
    ∃ u, exec (.sst 3 b a i) s = .next u ∧ u.mem = s.mem ∧ u.group? g.slot = some (nextWord g)
      ∧ u.stoker.bells = s.stoker.bells ++ [(q, rd s g b, 0xFFFF)])

-- ### Control flow of the scalar stream

/-- Branches of the scalar stream (08 R160, R159): a target is SPC + OFF13; SCALL leaves the index of the next word; SLOOP on 0 goes on and does not write, else it
counts down and leaves when the count reaches 0. BRL (07 R142) without U is taken when some lane of EXM tests true; with U when EXM has lanes and all test true, not when all test false or EXM
has none; when lanes disagree it traps with UNIFORMITY: CAUSE.CODE is 2, EPC names the branch, SPC and every register stay. With NEG a lane tests the complement. Nothing else of the group changes. -/
def Obligations.BranchesMoveSpc : Prop :=
  ((∀ o s g, AtScalar s g 0 → exec (.sbr o) s = .next (withGroupIn s (jump g (g.spc + o.signExtend 32))))
  ∧ (∀ c a o s g, AtScalar s g 0 → c.toNat < 6 → exec (.sbc c a o) s =
      .next (drawn s (if (match c.toNat with
        | 0 => rd s g a == 0
        | 1 => rd s g a != 0
        | 2 => (rd s g a).toInt < 0
        | 3 => 0 ≤ (rd s g a).toInt
        | 4 => 0 < (rd s g a).toInt
        | _ => (rd s g a).toInt ≤ 0 : Bool) then jump g (g.spc + o.signExtend 32) else nextWord g)))
  ∧ (∀ d o s g, AtScalar s g d → exec (.scall d o) s =
      .next (drawn s (jump (withScalar g d (BitVec.ofNat 64 ((g.spc.toNat + 1) % 2 ^ 32))) (g.spc + o.signExtend 32))))
  ∧ (∀ a s g, AtScalar s g 0 → exec (.sret a) s = .next (drawn s (jump g (BitVec.ofNat 32 (rd s g a).toNat))))
  ∧ (∀ a o s g, AtScalar s g a → exec (.sloop a o) s = .next (drawn s (
      if rd s g a = 0 then nextWord g
      else if rd s g a = 1 then nextWord (withScalar g a 0)
      else jump (withScalar g a (rd s g a - 1)) (g.spc + o.signExtend 32)))))
  ∧ ((∀ n k o s g, AtScalar s g 0 → exec (.brl false n k o) s = .next (drawn s (
      if ∃ l : Fin 32, g.exm[l] = true ∧ (g.mask s.free k)[l] = !n then jump g (g.spc + o.signExtend 32) else nextWord g)))
  ∧ (∀ n k o s g, AtScalar s g 0 → (∀ l : Fin 32, g.exm[l] = true → (g.mask s.free k)[l] = n) →
      exec (.brl true n k o) s = .next (drawn s (nextWord g)))
  ∧ (∀ n k o s g, AtScalar s g 0 → g.exm ≠ 0 → (∀ l : Fin 32, g.exm[l] = true → (g.mask s.free k)[l] = !n) →
      exec (.brl true n k o) s = .next (drawn s (jump g (g.spc + o.signExtend 32))))
  ∧ (∀ n k o s g (l l' : Fin 32), AtScalar s g 0 → g.still → g.exm[l] = true → g.exm[l'] = true →
    (g.mask s.free k)[l] = true → (g.mask s.free k)[l'] = false →
    ∃ u g', exec (.brl true n k o) s = .next u ∧ u.group? g.slot = some g' ∧ g'.cause.toNat % 256 = 2 ∧ g'.cause.getLsbD 24 = false ∧ g'.epc = g.spc
      ∧ g'.faddr = 0 ∧ g'.sregs = g.sregs ∧ g'.regs = g.regs ∧ g'.masks = g.masks ∧ u.mem = s.mem))

/-- LRUN, LSYNC, WAITC, PHINT and STEP (08 R162-R164, R168, R169): LRUN queues COUNT + 1 words from TARGET when fewer than four runs are queued, else waits;
LSYNC and WAITC go on when the queue is empty or the counter is at most n, else wait; WAITC does not count a lane word that issues in the same FCLK, and at 0 the
scalar stream knows what the words on the counter have stored and learned, but of no word that issues in that FCLK (17 R352, R358); PHINT goes on when no pre-emption of the gang is requested, else holds; STEP at the quiet point advances STEPN by one and
records n. That STEP holds the group past the word when its grid is cut or its gang migrates is the model's reading (notes/assumptions/44). -/
def Obligations.RunsWaitsAndSteps : Prop :=
  (∀ c t s g, AtScalar s g 0 → g.runq.length < 4 → ∃ r, exec (.lrun c t) s = .next (withGroupIn s { nextWord g with runq := g.runq ++ [r] })
      ∧ r.next = t.toNat ∧ r.buf.length = c.toNat + 1
      ∧ ∀ i, i ≤ c.toNat → r.buf[i]? = some (match fetchLane s g (s.codeObj g) (t.toNat + i) with
        | .word w => some w
        | _ => none))
  ∧ (∀ c t s g, AtScalar s g 0 → 4 ≤ g.runq.length → exec (.lrun c t) s = .next s)
  ∧ (∀ s g, AtScalar s g 0 → g.runq = [] → exec .lsync s = .next (withGroupIn s (nextWord g)))
  ∧ (∀ s g, AtScalar s g 0 → g.runq ≠ [] → exec .lsync s = .next s)
  ∧ (∀ (k : Fin 12) n s g, AtScalar s g 0 → g.deferred = [] → (g.last = some (s.fclk, BitVec.ofNat 4 k) → g.ctrs[k] ≠ 0) → counted s g k ≤ n.toNat →
      let done := g.slack.filter (proves s g (BitVec.ofNat 4 k))
      (counted s g k ≠ 0 → exec (.waitc (BitVec.ofNat 4 k) n) s = .next (withGroupIn s (nextWord g)))
      ∧ (counted s g k = 0 → ∃ u, exec (.waitc (BitVec.ofNat 4 k) n) s = .next u
        ∧ Knows (withGroupIn s { nextWord g with slack := g.slack.filter (fun x => !proves s g (BitVec.ofNat 4 k) x), srelv := fencesKnown g.srelv (done.flatMap Slack.rels) }) u
        ∧ ∀ x ∈ done, Covered x.gain (u.order.view (s.scalarAgent g)) ∧ ∀ i ∈ x.stores, i ∈ (u.order.view (s.scalarAgent g)).extra))
  ∧ (∀ (k : Fin 12) n s g, AtScalar s g 0 → (g.last = some (s.fclk, BitVec.ofNat 4 k) → g.ctrs[k] ≠ 0) → n.toNat < counted s g k →
      exec (.waitc (BitVec.ofNat 4 k) n) s = .next s)
  ∧ (∀ n s g, AtScalar s g 0 → s.gangStop g.gid (gangIdx (s.desc g.gid) g.lw) = none → exec (.phint n) s = .next (withGroupIn s (nextWord g)))
  ∧ (∀ n s g, AtScalar s g 0 → s.gangStop g.gid (gangIdx (s.desc g.gid) g.lw) ≠ none → exec (.phint n) s = .next s)
  ∧ (∀ n s g, AtScalar s g 0 → Quiet g → s.stepStops g = false → exec (.step n) s =
      .next (withGroupIn s { touched s (nextWord g) with stepn := BitVec.ofNat 64 ((g.stepn.toNat / 2 ^ 16 + 1) % 2 ^ 48 * 2 ^ 16 + n.toNat) }))
  ∧ (∀ n s g, AtScalar s g 0 → Quiet g → s.stepStops g = true → ∃ u g', exec (.step n) s = .next u ∧ u.group? g.slot = some g' ∧ g'.stepHeld = true
      ∧ g'.spc = g.spc + 1 ∧ g'.stepn = BitVec.ofNat 64 ((g.stepn.toNat / 2 ^ 16 + 1) % 2 ^ 48 * 2 ^ 16 + n.toNat) ∧ g'.sregs = g.sregs ∧ u.mem = s.mem)

/-- BARW, BARG and BARRIER_RELEASE (08 R165-R167): a group that reaches a barrier below NBAR with its lane memory words complete records its arrival once and waits; once
every group that the barrier counts has arrived, all of them go on at their next word and the barrier is as new; while one has not, nothing changes. Groups that it does not count
keep all they hold. -/
def Obligations.BarriersHoldAndRelease : Prop :=
  ((∀ id s g, AtScalar s g 0 → MemoryDone g → id.toNat < (s.desc g.gid).nbar → g.bars.getLsbD id.toNat = false →
      exec (.barw id) s = .next (withGroupIn s { g with bars := g.bars ||| BitVec.ofNat 8 (2 ^ id.toNat) }))
  ∧ (∀ id s g, AtScalar s g 0 → MemoryDone g → id.toNat < (s.desc g.gid).nbar → g.bars.getLsbD (id.toNat + 4) = false →
      exec (.barg id) s = .next (withGroupIn s { g with bars := g.bars ||| BitVec.ofNat 8 (2 ^ (id.toNat + 4)) }))
  ∧ (∀ id s g, AtScalar s g 0 → id.toNat < (s.desc g.gid).nbar → g.runq ≠ [] → exec (.barw id) s = .next s ∧ exec (.barg id) s = .next s))
  ∧ (∀ slot gang id s g bit, s.group? slot = some g → bit = id.toNat + (if gang then 4 else 0) →
    (s.groups.map Group.slot).Nodup →
    let counted := if gang then s.gangGroups g.gid (gangIdx (s.desc g.gid) g.lw) else s.wgGroups g.gid g.lw
    ((∃ x ∈ counted, x.bars.getLsbD bit = false) → exec (.barrierRelease slot gang id) s = .next s)
    ∧ ((∀ x ∈ counted, x.bars.getLsbD bit = true) → ∃ u, exec (.barrierRelease slot gang id) s = .next u ∧ u.mem = s.mem
      ∧ (∀ x ∈ counted, u.group? x.slot = some (allKnown { touched s (nextWord x) with bars := x.bars &&& ~~~(BitVec.ofNat 8 (2 ^ bit)) }))
      ∧ ∀ x ∈ s.groups, x ∉ counted → u.group? x.slot = some x))

-- ### Special registers, traps, registers of a core

/-- TRAP enters the handler object (22 R419, R422, 08 R172): CAUSE is code 13 with INH, EPC the next word, ELPC the next lane word or 0, FADDR n; the runs,
EXM and TPART are set aside, EXM is all ones, TPART one tile of 32 lanes, and the handler starts at its entry; the watchdog keeps the microseconds that have counted
(R426). Without a handler object, or inside a handler, it stops the workgroup for the host (R424): CAUSE, EPC and FADDR are written, the workgroup is asked to save, and the error log gains an entry of
code 8 that names the context, the cause (with 256 added inside a handler), the grid and the workgroup. Registers, masks, pins and memory stay. -/
def Obligations.TrapEntersHandler : Prop :=
  (∀ n s g hk, AtScalar s g 0 → g.still → g.inh = false → (s.gctx g).hobj ≠ 0 → (s.gctx g).hk = some hk →
    (s.gctx g).hmask.getLsbD 13 = false →
    ∃ u g', exec (.trap n) s = .next u ∧ u.mem = s.mem ∧ u.group? g.slot = some g' ∧ g'.cause = BitVec.ofNat 64 (2 ^ 31 + 13) ∧ g'.epc = g.spc + 1
      ∧ g'.elpc = (match g.runq with
        | r :: _ => BitVec.ofNat 19 r.next
        | [] => 0)
      ∧ g'.faddr = BitVec.ofNat 64 n.toNat ∧ g'.fspc = 0 ∧ g'.aside = some { runq := g.runq, exm := g.exm, tpart := g.tpart } ∧ g'.runq = []
      ∧ g'.exm = BitVec.allOnes 32 ∧ g'.tpart = 5 ∧ g'.spc = BitVec.ofNat 32 hk.entry ∧ g'.sregs = g.sregs ∧ g'.regs = g.regs ∧ g'.masks = g.masks
      ∧ g'.pins = g.pins ∧ g'.stepn = g.stepn ∧ g'.recipes = g.recipes ∧ g'.progto = g.progto ∧ g'.watch = s.us - g.watch)
  ∧ (∀ n s g w, AtScalar s g 0 → g.still → s.wg? g.gid g.lw = some w → w.stop = none →
    (g.inh = true ∨ (s.gctx g).hobj = 0 ∨ (s.gctx g).hmask.getLsbD 13 = true) →
    ∃ u g' w' e, exec (.trap n) s = .next u ∧ u.mem = s.mem ∧ u.group? g.slot = some g' ∧ g'.toHost = true ∧ g'.cause.toNat % 256 = 13
      ∧ g'.epc = g.spc + 1 ∧ g'.faddr = BitVec.ofNat 64 n.toNat ∧ g'.sregs = g.sregs ∧ g'.regs = g.regs ∧ (g.inh = true → g'.double = true)
      ∧ u.wg? g.gid g.lw = some w' ∧ w'.stop = some .trapHost ∧ u.svc.log.head? = some e ∧ e.code = 8 ∧ e.unit = s.ctxOfGrid g.gid
      ∧ e.detail = 13 + (if g.inh then 256 else 0) ∧ e.addr = s.gridName g.gid ∧ e.arg = g.lw)

/-- RETT (22 R423, 08 R173): at the quiet point of a handler EXM, TPART and the runs set aside return, the oldest run resumes at ELPC when that lies in it
and is dropped otherwise, SPC is EPC and INH is clear. Outside a handler RETT raises ILLEGAL. -/
def Obligations.HandlerReturn : Prop :=
  (∀ s g a, AtScalar s g 0 → Quiet g → g.inh = true → g.aside = some a →
    ∃ u g', exec .rett s = .next u ∧ u.mem = s.mem ∧ u.group? g.slot = some g' ∧ g'.exm = a.exm ∧ g'.tpart = a.tpart ∧ g'.spc = g.epc
      ∧ g'.cause = g.cause &&& ~~~(BitVec.ofNat 64 (2 ^ 31)) ∧ g'.aside = none ∧ g'.sregs = g.sregs ∧ g'.regs = g.regs ∧ g'.masks = g.masks
      ∧ (a.runq = [] → g'.runq = [])
      ∧ ∀ r rs, a.runq = r :: rs →
        (r.next ≤ g.elpc.toNat ∧ g.elpc.toNat < r.next + r.buf.length →
          g'.runq = { r with next := g.elpc.toNat, buf := r.buf.drop (g.elpc.toNat - r.next) } :: rs)
        ∧ (g.elpc.toNat < r.next ∨ r.next + r.buf.length ≤ g.elpc.toNat → g'.runq = rs))
  ∧ ∀ s g, AtScalar s g 0 → g.still → g.inh = false →
    ∃ u g', exec .rett s = .next u ∧ u.group? g.slot = some g' ∧ g'.cause.toNat % 256 = 1 ∧ g'.epc = g.spc ∧ g'.sregs = g.sregs ∧ g'.regs = g.regs

/-- GROW, SHRINK, SETBND and GROW_GRANT (12 R245-R250): GROW adds granules of VOID registers at the top when no GROW of the core waits and they are free, else
it waits; past 256 registers it traps with ACCESS; SHRINK gives the top granules back; SETBND moves the boundary. Every register that stays keeps its
contents. -/
def Obligations.AllotmentChanges : Prop :=
  (∀ n s g, AtScalar s g 0 → Quiet g → g.growAsk = none → g.regs.length / 8 + n.toNat ≤ 32 → s.firstAsk g.core = none → n.toNat ≤ s.freeGranules g.core →
    exec (.grow n) s = .next (withGroupIn s (grown s g n.toNat)))
  ∧ (∀ n s g, AtScalar s g 0 → Quiet g → g.growAsk = none → g.regs.length / 8 + n.toNat ≤ 32 → (s.firstAsk g.core ≠ none ∨ s.freeGranules g.core < n.toNat) →
    ∃ u, exec (.grow n) s = .next u ∧ Granted (withGroupIn s { g with growAsk := some (n.toNat, s.fclk) }) u)
  ∧ (∀ n s g, AtScalar s g 0 → Quiet g → g.still → g.growAsk = none → 32 < g.regs.length / 8 + n.toNat →
    ∃ u g', exec (.grow n) s = .next u ∧ u.group? g.slot = some g' ∧ g'.cause.toNat % 256 = 4 ∧ g'.faddr = BitVec.ofNat 64 (2 ^ 63 + 2 * 2 ^ 16 + n.toNat)
      ∧ g'.epc = g.spc ∧ g'.regs = g.regs)
  ∧ (∀ core s g n t, s.firstAsk core = some g → g.growAsk = some (n, t) → n ≤ s.freeGranules core →
    ∃ u, exec (.growGrant core) s = .next u ∧ Granted (withGroupIn s (grown s g n)) u)
  ∧ (∀ n s g, AtScalar s g 0 → Quiet g → (∀ x ∈ s.groups, x.growAsk = none) → n.toNat + g.bound / 8 ≤ g.regs.length / 8 → g.tiles = [] →
    ∃ u, exec (.shrink n) s = .next u ∧ Granted (withGroupIn s { nextWord g with regs := g.regs.take (8 * (g.regs.length / 8 - n.toNat)) }) u)
  ∧ (∀ n s g, AtScalar s g 0 → Quiet g → n.toNat ≤ g.regs.length / 8 → g.tiles = [] →
      (∀ r ∈ g.recipes, r.dst.toNat < 8 * n.toNat ∧ ∀ i ∈ r.inputs, i.toNat < 8 * n.toNat) →
    exec (.setbnd n) s = .next (withGroupIn s { nextWord g with bound := 8 * n.toNat }))

/-- PROGRESS (22 R426): outside a handler, when the count has reached an interval that is not 0, a group that nothing has asked to stop in an earlier FCLK (R438) traps with code 9 at its next
scalar word; with interval 0, before that, in a handler, or once the group waits for the host or is to be saved, nothing changes. That the count is of whole ticks of the module's microsecond
clock is the model's choice (notes/assumptions/8), and that a barrier arrival and a request of GROW are
withdrawn by the trap is the model's reading of 08 R149 (notes/assumptions/14). -/
def Obligations.WatchdogTraps : Prop :=
  (∀ slot s g, s.group? slot = some g → g.still → g.mid = none → g.inh = false → g.toHost = false → ¬Halted s g.gid (gangIdx (s.desc g.gid) g.lw) →
      g.progto ≠ 0 → g.watch + (g.progto.toNat : Int) ≤ (s.us : Int) →
    ∃ u g', exec (.progress slot) s = .next u ∧ u.group? slot = some g' ∧ g'.cause.toNat % 256 = 9 ∧ g'.epc = g.spc ∧ g'.faddr = 0 ∧ g'.bars = 0
      ∧ g'.growAsk = none ∧ g'.sregs = g.sregs ∧ g'.regs = g.regs)
  ∧ (∀ slot s g, s.group? slot = some g → (g.progto = 0 ∨ (s.us : Int) < g.watch + (g.progto.toNat : Int) ∨ g.inh = true ∨ g.toHost = true
      ∨ Halted s g.gid (gangIdx (s.desc g.gid) g.lw)) → exec (.progress slot) s = .next s)

-- ### Pins, reclaim, streams, exit

/-- PIN, UNPIN and RECLAIM outside an ordered task, with every access of the group performed (13 R297-R300): the pin register takes the name or 0, and after a PIN
the group knows all that the PINs, UNPINs and RECLAIMs before have had performed at device scope (R297, R302); RECLAIM
answers 0 for a name that nothing pins, and 1 when the name waits in the context's list or takes a free entry of it. -/
def Obligations.PinsAndReclaim : Prop :=
  (∀ k a s g, AtScalar s g 0 → AccessesDone g → s.taskOf g = none →
    let g' := allKnown { touched s (nextWord g) with pins := g.pins.set k.toNat (rd s g a) k.isLt }
    ∃ u, exec (.pin k a) s = .next u ∧ u.groups = (withGroupIn s g').groups ∧ Covered s.order.pub (u.scalarReader g').view
      ∧ ((g.pins[k.toNat]'(k.isLt) = 0 ∨ g.pins[k.toNat]'(k.isLt) = rd s g a) → Knows (drawn s g') u))
  ∧ (∀ k s g, AtScalar s g 0 → AccessesDone g → s.taskOf g = none →
    let g' := allKnown { nextWord g with pins := g.pins.set k.toNat 0 k.isLt }
    ∃ u, exec (.unpin k) s = .next u ∧ u.groups = (withGroupIn s g').groups ∧ (g.pins[k.toNat]'(k.isLt) = 0 → Knows (withGroupIn s g') u))
  ∧ (∀ k a s g f, AtScalar s g 0 → s.taskOf g = none → (g.runq ≠ [] ∨ f ∈ g.flights ∧ (f.cls.isMemory = true ∨ f.cls = .mmq)) →
    exec (.pin k a) s = .next s ∧ exec (.unpin k) s = .next s)
  ∧ (∀ d a s g, AtScalar s g d → AccessesDone g → s.taskOf g = none → (rd s g a = 0 ∨ s.pinned (rd s g a) = false) →
    ∃ u, exec (.reclaim d a) s = .next u ∧ Knows (drawn s (allKnown (touched s (nextWord (withScalar g d 0))))) u)
  ∧ (∀ d a s g i, AtScalar s g d → AccessesDone g → s.taskOf g = none → rd s g a ≠ 0 → s.pinned (rd s g a) = true → (s.gctx g).defl ≠ 0 →
      deflEcc s (s.gctx g).defl = none → i < 256 → deflName s.mem (s.gctx g).defl i = (rd s g a).toNat → deflState s.mem (s.gctx g).defl i = 1 →
    ∃ u, exec (.reclaim d a) s = .next u ∧ Knows (drawn s (allKnown (touched s (nextWord (withScalar g d 1))))) u)
  ∧ (∀ d a s g i, AtScalar s g d → AccessesDone g → s.taskOf g = none → rd s g a ≠ 0 → s.pinned (rd s g a) = true → (s.gctx g).defl ≠ 0 →
      deflEcc s (s.gctx g).defl = none → s.memOk → i < 256 → (s.gctx g).defl + 4096 ≤ 2 ^ 57 →
      (∀ j, j < 256 → deflState s.mem (s.gctx g).defl j ≠ 1) →
      deflState s.mem (s.gctx g).defl i = 0 → (∀ j, j < i → deflState s.mem (s.gctx g).defl j ≠ 0) →
    ∃ u, exec (.reclaim d a) s = .next u ∧ u.group? g.slot = some (allKnown (touched s (nextWord (withScalar g d 1))))
      ∧ deflName u.mem (s.gctx g).defl i = (rd s g a).toNat ∧ deflState u.mem (s.gctx g).defl i = 1
      ∧ ∀ x, (x < (s.gctx g).defl + 16 * i ∨ (s.gctx g).defl + 16 * i + 9 ≤ x) → memGet u.mem x = memGet s.mem x)
  ∧ (∀ d a s g, AtScalar s g d → AccessesDone g → g.still → s.taskOf g = none → rd s g a ≠ 0 → s.pinned (rd s g a) = true →
      (s.gctx g).defl = 0 →
    ∃ u g', exec (.reclaim d a) s = .next u ∧ u.group? g.slot = some g' ∧ g'.cause.toNat % 256 = 10 ∧ g'.faddr = rd s g a ∧ g'.epc = g.spc
      ∧ g'.sregs = g.sregs ∧ u.mem = s.mem)

/-- OAPP, ODECL and the grant of a waiting one (13 R294): once every group of lower LG has closed the stream, OAPP takes n slots from the stream's base, which it
returns; ODECL takes none; the group closes the stream. While a lower group has not, the word waits, and a group that has stopped, or whose word a breakpoint names, is granted nothing (08 R149, 22 R425); on a stream that the group has closed, and inside an ordered task (19 R382), it raises ILLEGAL, and awaits no queued run (06 R125). -/
def Obligations.OrderedAppend : Prop :=
  (∀ d a s g gr, AtScalar s g d → s.taskOf g = none → g.oclosed.getLsbD (streamOf (rd s g a)).toNat = false → s.grid? g.gid = some gr →
      gr.lowerClosed (s.lg g) (streamOf (rd s g a)).toNat = true →
    ∃ u, exec (.oapp d a) s = .next u ∧ Appended s g gr (streamOf (rd s g a)) (some (d, (rd s g a).toNat % 2 ^ 32)) u)
  ∧ (∀ a s g gr, AtScalar s g 0 → s.taskOf g = none → g.oclosed.getLsbD (streamOf (rd s g a)).toNat = false → s.grid? g.gid = some gr →
      gr.lowerClosed (s.lg g) (streamOf (rd s g a)).toNat = true →
    ∃ u, exec (.odecl a) s = .next u ∧ Appended s g gr (streamOf (rd s g a)) none u)
  ∧ (∀ slot d a w s g gr, AtScalar { s with cur := slot } g d → s.taskOf g = none → g.oclosed.getLsbD (streamOf (rd s g a)).toNat = false →
      s.grid? g.gid = some gr → gr.lowerClosed (s.lg g) (streamOf (rd s g a)).toNat = true → fetchScalar s g g.spc.toNat = .word w →
      decodeScalar w = some (.oapp d a) →
      s.frozen g = false → g.mid = none → g.entryWaits s.fclk = false → breaks s g false g.spc.toNat = false →
    ∃ u, exec (.oappGrant slot) s = .next u ∧ Appended s g gr (streamOf (rd s g a)) (some (d, (rd s g a).toNat % 2 ^ 32)) u)
  ∧ (∀ slot s g, s.group? slot = some g → (s.frozen g = true ∨ breaks s g false g.spc.toNat = true) → exec (.oappGrant slot) s = .next s)
  ∧ (∀ d a s g gr, AtScalar s g d → s.taskOf g = none → g.oclosed.getLsbD (streamOf (rd s g a)).toNat = false → s.grid? g.gid = some gr →
      gr.lowerClosed (s.lg g) (streamOf (rd s g a)).toNat = false → exec (.oapp d a) s = .next s)
  ∧ (∀ d a s g, s.group? s.cur = some g → g.still → (g.oclosed.getLsbD (streamOf (rd s g a)).toNat = true ∨ s.taskOf g ≠ none) →
    ∃ u g', exec (.oapp d a) s = .next u ∧ u.group? g.slot = some g' ∧ g'.cause.toNat % 256 = 1 ∧ g'.epc = g.spc ∧ g'.sregs = g.sregs)

/-- EXIT (08 R174, 02 R28, 13 R295, 14 R311): at the quiet point, with its matrix queue empty and no job of it left, the group leaves its slot and its streams
close; the last group of a gang ends the gang's workgroups. Memory stays when the group holds no pin. -/
def Obligations.ExitEndsGroup : Prop :=
  ∀ s g gr, AtScalar s g 0 → Quiet g → g.mq = [] → (s.taskOf g = none ∨ g.k ≠ 0) → (∀ j ∈ s.jobs, j.mine g = false) → s.grid? g.gid = some gr →
    ∃ u, exec .exit s = .next u ∧ u.group? g.slot = none ∧ (g.pins = Vector.replicate 8 0 → u.mem = s.mem)
      ∧ (∃ gr', u.grid? g.gid = some gr' ∧ gr'.closed.lookup (s.lg g) = some 0xFFFF
        ∧ (s.gangGroups g.gid (gangIdx (s.desc g.gid) g.lw) = [g] → gr'.exited = gr.exited ++ [gangIdx (s.desc g.gid) g.lw]))
      ∧ (s.gangGroups g.gid (gangIdx (s.desc g.gid) g.lw) = [g] → u.wg? g.gid g.lw = none)

-- ### Jobs, tasks, PUTs

/-- FORK, RVZ, WPWAIT and the steps of an engine (14 R305-R316): FORK of a card that passes its checks posts a job with the next ticket, which it returns, and marks the card
posted; RVZ goes on when no job up to the ticket is unfinished or has a fault to report, and waits while one runs; WPWAIT goes on when the progress of the channel has reached the
address. A posted job that may start starts, and one with an edge from a job of the set, or whose channel runs another, does not (R311, R314); a running one performs its next granule whole, the last of which ends it and marks the card done; a fault stops it and its card says so;
a job whose gang is to be saved is suspended. A granule of a COPY moves the bytes of RA to W, one of a REDUCE combines the words of RA and RB, one of a GATHER takes to each element of W the element of RA that
the index names, one of a SCATTER puts each element of RA to the element of W that the index names, in ascending order (R304). -/
def Obligations.EngineJobs : Prop :=
  ((∀ d a s g w off c, AtScalar s g d → AccessesDone g → s.taskOf g = none → s.wg? g.gid g.lw = some w → forkCheck s g (rd s g a).toNat = .ok (off, c) →
      (s.jobs.countP fun j => j.mine g && j.outstanding) < 16 → (s.jobs.countP fun j => j.core == g.core && j.outstanding) < 64 →
    ∃ u, exec (.fork d a) s = .next u ∧ u.mem = s.mem
      ∧ u.group? g.slot = some (allKnown (touched s (nextWord (withScalar { g with tseq := g.tseq + 1 } d (BitVec.ofNat 64 (g.tseq + 1).toNat)))))
      ∧ (∃ j ∈ u.jobs, j.mine g = true ∧ j.ticket = g.tseq + 1 ∧ j.card = c ∧ j.at_ = off ∧ j.st = .posted ∧ j.core = g.core)
      ∧ memGet (u.spadOf g.gid g.lw) (off + 4) = 1)
  ∧ (∀ a s g, AtScalar s g 0 → s.taskOf g = none →
      (∀ j ∈ s.jobs, j.mine g = true → j.ticket.toNat ≤ (rd s g a).toNat % 2 ^ 48 → j.st = .done ∨ (j.st = .faulted ∧ j.reported = true)) →
    ∃ u, exec (.rvz a) s = .next u ∧ Knows (drawn s (touched s (nextWord g))) u)
  ∧ (∀ a s g, AtScalar s g 0 → s.taskOf g = none →
      (∃ j ∈ s.jobs, j.mine g = true ∧ j.ticket.toNat ≤ (rd s g a).toNat % 2 ^ 48 ∧ j.st ≠ .done ∧ j.st ≠ .faulted) → exec (.rvz a) s = .next s)
  ∧ (∀ n a s g, AtScalar s g 0 → s.taskOf g = none → (rd s g a).toNat % 2 ^ 57 ≤ (s.wp (g.slot / 48) n.toNat).toNat →
    ∃ u, exec (.wpwait n a) s = .next u ∧ Knows (drawn s (touched s (nextWord g))) u))
  ∧ ((∀ id s j, s.job? id = some j → j.st = .posted → s.jobCanStart j = true → ∃ u, exec (.jobStart id) s = .next u ∧ u.mem = s.mem ∧ u.groups = s.groups
      ∧ u.job? id = some { j with st := .running } ∧ (j.card.kind = 0 → u.wp j.core j.card.chan = BitVec.ofNat 57 (j.card.w + j.done)
        ∧ u.channelId j.core j.card.chan = some j.id))
  ∧ (∀ id s j x, s.job? id = some j → x ∈ s.jobs → (x.id ∈ j.edges ∨ j.card.kind = 0 ∧ x.card.kind = 0 ∧ x.core = j.core ∧ x.card.chan = j.card.chan ∧ x.id ≠ j.id
      ∧ x.st = .running) → exec (.jobStart id) s = .next s)
  ∧ (∀ id s j ws, s.job? id = some j → j.st = .running → j.done + j.card.granule < j.card.stream →
      granuleWrites s j j.card.granule = .ok ws → ∃ u v, exec (.jobGranule id) s = .next u ∧ u.groups = s.groups ∧ Knows s v
      ∧ u.mem = (writePlaces v (s.jobWriter j) j.gid ws.1).mem ∧ u.job? id = some { j with done := j.done + j.card.granule }
      ∧ (j.card.kind = 0 → u.wp j.core j.card.chan = BitVec.ofNat 57 (j.card.w + j.done + j.card.granule)))
  ∧ (∀ id s j w ws, s.job? id = some j → j.st = .running → s.wg? j.gid j.lw = some w → memWf w.spad = true → j.done < j.card.stream → j.card.stream ≤ j.done + j.card.granule →
      granuleWrites s j (j.card.stream - j.done) = .ok ws → ∃ u v, exec (.jobGranule id) s = .next u ∧ u.groups = s.groups ∧ Knows s v
      ∧ u.mem = (writePlaces v (s.jobWriter j) j.gid ws.1).mem ∧ u.job? id = none ∧ memGet (u.spadOf j.gid j.lw) (j.at_ + 4) = 3)
  ∧ (∀ id s j w f, s.job? id = some j → j.st = .running → s.wg? j.gid j.lw = some w → memWf w.spad = true → j.done < j.card.stream →
      granuleWrites s j (min j.card.granule (j.card.stream - j.done)) = .error f → ∃ u, exec (.jobGranule id) s = .next u ∧ u.mem = s.mem
      ∧ u.job? id = some { j with st := .faulted, fcause := f.code, fadr := f.addr } ∧ memGet (u.spadOf j.gid j.lw) (j.at_ + 4) = 4)
  ∧ (∀ id s j w, s.job? id = some j → (j.st = .posted ∨ j.st = .running) → s.wg? j.gid j.lw = some w → memWf w.spad = true → s.gangStop j.gid (gangIdx (s.desc j.gid) j.lw) ≠ none →
      ∃ u, exec (.jobSuspend id) s = .next u ∧ u.mem = s.mem ∧ u.groups = s.groups ∧ u.job? id = some { j with st := .suspended }
      ∧ memGet (u.spadOf j.gid j.lw) (j.at_ + 4) = 2))
  ∧ (∀ s (j : Job) n x y ws met, let d := s.desc j.gid
      cardRegion d j.lw j.card 0 = some x → cardRegion d j.lw j.card 2 = some y → granuleWrites s j n = .ok (ws, met) →
      (j.card.kind = 0 → ∃ bs qs, RegionReads s j x j.done n bs ∧ RegionAt s j needWrite y j.done n qs ∧ ws = qs.zip bs)
      ∧ ∀ z, cardRegion d j.lw j.card 1 = some z →
        (j.card.kind = 3 → j.card.opx < 4 → ∃ bs cs qs, RegionReads s j x j.done n bs ∧ RegionReads s j z j.done n cs ∧ RegionAt s j needWrite y j.done n qs
          ∧ ws = qs.zip ((List.range (n / 4)).flatMap fun i => leBytes 4 (combined ([0, 0, 2, 1].getD j.card.opx 0) ([2, 0, 2, 2].getD j.card.opx 0)
              (BitVec.ofNat 32 (fieldOf bs (4 * i) 4)) (BitVec.ofNat 32 (fieldOf cs (4 * i) 4))).toNat))
        ∧ (j.card.kind = 1 ∨ j.card.kind = 2 → ∃ parts : List (List (Place × Byte)), ws = parts.flatten ∧ parts.length = n / 2 ^ j.card.opx
          ∧ ∀ i, i < n / 2 ^ j.card.opx → ∃ p, parts[i]? = some p
            ∧ if j.card.kind = 1 then Moves s j true x y z (j.done / 2 ^ j.card.opx + i) p else Moves s j false y x z (j.done / 2 ^ j.card.opx + i) p))
  ∧ (∀ (d : Desc) lw addr len, (addr + len ≤ 2 ^ 57 → regionOf d lw false addr len = some { spad := none, base := addr, len := len, addr := addr })
      ∧ (addr < 2 ^ 21 → addr + len ≤ d.spwg * 4096 → regionOf d lw true addr len = some { spad := some lw, base := addr, len := len, addr := addr }))

/-- TSPAWN, TDONE, the stores of a task and TASK_COMMIT (19 R382-R388): a store of a task goes to its buffer while that has room, and no memory and no other thread sees it (R385); that a line stays with the die on which the task stored there
first is the model's choice (notes/assumptions/67); a spawn of a timestamp not below the task's joins its spawns while it has fewer than 16; at TDONE the last
group of the head commits, and the group ends. Where no other task is placed, saved or resuming, the commit performs exactly the buffered stores and adds the spawns
to the set, numbered on. A task that is not the head waits, and so does one that a trap to the host or a request to stop has ended (08 R149). TSPAWN outside a task raises ILLEGAL. -/
def Obligations.OrderedTasks : Prop :=
  (∀ a b s g w t, AtScalar s g 0 → s.wg? g.gid g.lw = some w → w.task = some t → g.k = 0 → t.ts.toNat ≤ (rd s g a).toNat % 2 ^ 48 → t.spawns.length < 16 →
    ∃ u w', exec (.tspawn a b) s = .next u ∧ u.mem = s.mem ∧ u.group? g.slot = some (nextWord g) ∧ u.wg? g.gid g.lw = some w'
      ∧ w' = { w with task := some { t with spawns := t.spawns ++ [(BitVec.ofNat 48 (rd s g a).toNat, rd s g b)] } })
  ∧ (∀ s g t, AtScalar s g 0 → s.taskOf g = some t → g.k = 0 → Quiet g → g.mq = [] → (∀ j ∈ s.jobs, j.mine g = false) →
      (s.wgGroups g.gid g.lw).length = 1 → s.isHead g.gid t = true → ∃ u, exec .tdone s = .next u ∧ u = s.commit g t ∧ u.group? g.slot = none)
  ∧ (∀ s g t, AtScalar s g 0 → s.taskOf g = some t → g.k = 0 → Quiet g → g.mq = [] → (∀ j ∈ s.jobs, j.mine g = false) → s.isHead g.gid t = false →
      exec .tdone s = .next s)
  ∧ (∀ s g t w, AtScalar { s with cur := g.slot } g 0 → s.taskOf g = some t → g.k = 0 → Quiet g → g.mq = [] → (∀ j ∈ s.jobs, j.mine g = false) →
      (s.wgGroups g.gid g.lw).length = 1 → s.isHead g.gid t = true → s.frozen g = false → g.mid = none → g.entryWaits s.fclk = false → breaks s g false g.spc.toNat = false → fetchScalar s g g.spc.toNat = .word w → decodeScalar w = some .tdone →
      (∀ x ∈ s.groups, x.gid = g.gid → x.k = 0 → x ≠ g → ∀ y, s.taskOf x = some y → s.isHead g.gid y = false) →
      ∃ u, exec (.taskCommit g.gid) s = .next u ∧ u = { s with cur := g.slot }.commit g t ∧ u.group? g.slot = none)
  ∧ (∀ (s : State) (g : Group) (t : Task) (d : Grid), s.taskOf g = some t → s.memOk → (∀ r ∈ bufRuns t.buf, bellOf s r.1 r.2.length = none) → (t.buf.map Prod.fst).Pairwise (· < ·) → (∀ c ∈ t.buf, c.1 < 2 ^ 57) →
      g.pins = Vector.replicate 8 0 → s.saved = [] → s.resuming = [] → (∀ w ∈ s.wgs, w.gid = g.gid → w.task = some t ∨ w.task = none) → s.grid? g.gid = some d →
      (∀ c ∈ t.buf, memGet (s.commit g t).mem c.1 = c.2) ∧ (∀ x, (∀ c ∈ t.buf, c.1 ≠ x) → memGet (s.commit g t).mem x = memGet s.mem x)
      ∧ ∃ d', (s.commit g t).grid? g.gid = some d' ∧ d'.nextSeq = d.nextSeq + t.spawns.length
        ∧ d'.tasks = d.tasks ++ t.spawns.zipIdx.map fun x => { ts := x.1.1, seq := d.nextSeq + x.2, arg := x.1.2 })
  ∧ (∀ t b a i s g w k p, AtScalar s g 0 → s.wg? g.gid g.lw = some w → w.task = some k → k.direct = false → linkUp s p = true →
      checkPhys s g needWrite (2 ^ t.toNat) (rd s g a + i.signExtend 64).toNat = .ok p → (bufLines k.buf).length + 2 ≤ 64 → s.specLines (coreDie (g.slot / 48)) + 2 ≤ 2048 →
    ∃ u w' k', exec (.sst t b a i) s = .next u ∧ u.mem = s.mem ∧ u.order = s.order ∧ u.group? g.slot = some (nextWord g) ∧ u.wg? g.gid g.lw = some w' ∧ w'.task = some k'
      ∧ k' = { k with buf := k'.buf, dies := k'.dies } ∧ (∀ l ∈ bufLines k'.buf, k'.dies.lookup l = some ((k.dies.lookup l).getD (coreDie (g.slot / 48)))) ∧ (∀ j, j < 2 ^ t.toNat → k'.buf.lookup (p + j) = some (BitVec.ofNat 8 ((rd s g b).toNat / 2 ^ (8 * j))))
      ∧ ∀ x, (x < p ∨ p + 2 ^ t.toNat ≤ x) → k'.buf.lookup x = k.buf.lookup x)
  ∧ (∀ h c m s g w k pls, AtLane s g h false (vgroup c.toNat (typeRegs m.type) ++ memRegs m) → s.wg? g.gid g.lw = some w → w.task = some k → k.direct = false → m.ord = 0 →
      Placed s g h m (checkGlob s g needWrite (typeSize m.type)) pls → Storable s (typeSize m.type) pls →
      (bufLines k.buf).length + 2 * pls.length ≤ 64 → s.specLines (coreDie (g.slot / 48)) + 2 * pls.length ≤ 2048 →
    ∃ u g' w' k', exec (.st h c m) s = .next u ∧ u.mem = s.mem ∧ u.order = s.order ∧ u.group? g.slot = some g' ∧ Moved h (g.issued s.fclk h (memWord false false m.ord) 0 true []) g'
      ∧ u.wg? g.gid g.lw = some w' ∧ w'.task = some k' ∧ k' = { k with buf := k'.buf, dies := k'.dies }
      ∧ (∀ l p j, (l, Place.glob p) ∈ pls → j < typeSize m.type →
        (∀ l' p', (l', Place.glob p') ∈ pls → l < l' → p + j < p' ∨ p' + typeSize m.type ≤ p + j) → k'.buf.lookup (p + j) = some (storedByte g c l j))
      ∧ ∀ x, (∀ l p, (l, Place.glob p) ∈ pls → x < p ∨ p + typeSize m.type ≤ x) → k'.buf.lookup x = k.buf.lookup x)
  ∧ (∀ gid s g, s.groups.find? (fun g => g.gid == gid && g.k == 0 && ((s.taskOf g).map (s.isHead gid)).getD false) = some g → s.frozen g = true →
      exec (.taskCommit gid) s = .next s)
  ∧ (∀ a b s g, AtScalar s g 0 → g.still → s.taskOf g = none → ∃ u g', exec (.tspawn a b) s = .next u ∧ u.group? g.slot = some g'
      ∧ g'.cause.toNat % 256 = 1 ∧ g'.epc = g.spc)

/-- PUT, WCWAIT and the fabric (20 R401-R404): a PUT through a valid import window, with fewer than 64 outstanding, reads its source, becomes outstanding and lets the group go on; that an
error of the read is kept, with no counter, for the group's EXIT is the model's reading (notes/assumptions/24);
WCWAIT goes on when the count of the window has reached n and no PUT of it was refused, waits while the counts are below n, and over a refused PUT traps with ACCESS and the address of the window's entry,
with WERR cleared. A PUT delivered into a valid export window is performed
whole and counted, but where a byte lies behind a link that is down (R399); one that the window refuses changes nothing; an answer counts in the window of the PUT, and a PUT that is refused, or has had no answer for 1 ms, counts in WERR. -/
def Obligations.PutsAndWindows : Prop :=
  ((∀ a s g v p x pd y, AtScalar s g 0 → AccessesDone g → s.taskOf g = none → v = (s.allAwaited g).1.performed g → checkPhys v g needRead 32 (rd s g a).toNat = .ok p →
      readRange v (s.ctxOfGrid g.gid) none (v.scalarReader g) 0 (rd s g a).toNat 32 = .ok x → putDesc x.bytes = some pd → winImport s (s.gctx g) pd.win = true →
      readRange v (s.ctxOfGrid g.gid) none ((v.scalarSaw g x.seen).1.scalarReader g) 64 pd.src pd.len = .ok y → g.puts < 64 →
    ∃ u r g', exec (.put a) s = .next u ∧ u.mem = s.mem ∧ u.group? g.slot = some g' ∧ g'.puts = g.puts + 1 ∧ g'.spc = g.spc + 1
      ∧ g' = { allKnown (nextWord g) with puts := g.puts + 1, deferred := g'.deferred, heard := g'.heard, sobs := g'.sobs } ∧ (x.err = 0 → y.err = 0 → g'.deferred = g.deferred)
      ∧ (x.err = 0 → y.err ≠ 0 → g'.deferred = g.deferred ++ [{ ctr := 15, addr := BitVec.ofNat 64 pd.src, detail := BitVec.ofNat 8 y.err }])
      ∧ u.svc.puts = s.svc.puts ++ [r] ∧ r.data = y.bytes ∧ r.off = pd.off ∧ r.win = pd.win ∧ r.ctx = s.ctxOfGrid g.gid ∧ r.slot = g.slot ∧ r.sent = s.us)
  ∧ (∀ a b s g, AtScalar s g 0 → s.taskOf g = none → winValid s (s.gctx g) ((rd s g a).toNat % 256) = true →
      (rd s g b).toNat % 2 ^ 48 ≤ (s.svc.win (s.ctxOfGrid g.gid) ((rd s g a).toNat % 256)).wcnt.toNat →
      (s.svc.win (s.ctxOfGrid g.gid) ((rd s g a).toNat % 256)).werr = 0 →
    ∃ u, exec (.wcwait a b) s = .next u ∧ Knows (drawn s { touched s (nextWord g) with obsv := [], sobs := [] }) u)
  ∧ (∀ a b s g, AtScalar s g 0 → s.taskOf g = none → winValid s (s.gctx g) ((rd s g a).toNat % 256) = true →
      (s.svc.win (s.ctxOfGrid g.gid) ((rd s g a).toNat % 256)).wcnt.toNat + (s.svc.win (s.ctxOfGrid g.gid) ((rd s g a).toNat % 256)).werr.toNat
        < (rd s g b).toNat % 2 ^ 48 →
    exec (.wcwait a b) s = .next s)
  ∧ (∀ a b s g, let x := s.svc.win (s.ctxOfGrid g.gid) ((rd s g a).toNat % 256)
      AtScalar s g 0 → g.still → s.taskOf g = none → winValid s (s.gctx g) ((rd s g a).toNat % 256) = true →
      (rd s g b).toNat % 2 ^ 48 ≤ x.wcnt.toNat + x.werr.toNat → x.werr ≠ 0 →
    ∃ u g', exec (.wcwait a b) s = .next u ∧ u.mem = s.mem ∧ u.group? g.slot = some g' ∧ g'.cause.toNat % 256 = 4
      ∧ g'.faddr = BitVec.ofNat 64 (winEntry (s.gctx g) ((rd s g a).toNat % 256)) ∧ g'.epc = g.spc ∧ g'.sregs = g.sregs
      ∧ u.svc.win (s.ctxOfGrid g.gid) ((rd s g a).toNat % 256) = { x with werr := 0 }))
  ∧ ((∀ ctx win off data s ps, s.svc.fwok = true → winExport s (s.svc.ctx ctx) win = true →
      off + data.length ≤ memNat s.mem (winEntry (s.svc.ctx ctx) win + 8) 8 →
      s.translateRange ctx needWrite (memNat s.mem (winEntry (s.svc.ctx ctx) win) 8 + off) data.length = .ok ps →
    let v := (ps.zip data).foldl (fun s x => s.putBytes (windowWriter ctx win) x.1 [x.2]) s
    ∃ u, exec (.putDelivery ctx win off data) s = .next u ∧ u.groups = s.groups ∧ u.mem = v.mem
      ∧ u.svc.win ctx win = { v.svc.win ctx win with wcnt := (v.svc.win ctx win).wcnt + if ps.all (linkUp s) then 1 else 0 })
  ∧ (∀ ctx win off data s, (s.svc.fwok = false ∨ winExport s (s.svc.ctx ctx) win = false ∨ memNat s.mem (winEntry (s.svc.ctx ctx) win + 8) 8 < off + data.length) →
      exec (.putDelivery ctx win off data) s = .next s)
  ∧ (∀ id s r, s.svc.puts.find? (fun x => x.id == id) = some r → (∀ x ∈ s.svc.puts, x.id = id → s.us < x.sent + 1000) → ∃ u, exec (.putAck id true) s = .next u ∧ u.mem = s.mem
      ∧ (∀ x ∈ u.svc.puts, x.id ≠ id) ∧ u.svc.win r.ctx r.win = { s.svc.win r.ctx r.win with wcnt := (s.svc.win r.ctx r.win).wcnt + 1 }
      ∧ ∀ g, s.group? r.slot = some g → g.gid = r.gid → s.lg g = r.lg → u.group? r.slot = some { g with puts := g.puts - 1 })
  ∧ (∀ id ok s r, s.svc.puts.find? (fun x => x.id == id) = some r → (ok = false ∨ r.sent + 1000 ≤ s.us) → ∃ u, exec (.putAck id ok) s = .next u ∧ u.mem = s.mem
      ∧ (∀ x ∈ u.svc.puts, x.id ≠ id) ∧ u.svc.win r.ctx r.win = { s.svc.win r.ctx r.win with werr := (s.svc.win r.ctx r.win).werr + 1 }
      ∧ ∀ g, s.group? r.slot = some g → g.gid = r.gid → s.lg g = r.lg → u.group? r.slot = some { g with puts := g.puts - 1 })
  ∧ (∀ id s r, s.svc.puts.find? (fun x => x.id == id) = some r → r.sent + 1000 ≤ s.us → ∃ u, exec (.putTimeout id) s = .next u ∧ u.mem = s.mem
      ∧ (∀ x ∈ u.svc.puts, x.id ≠ id) ∧ u.svc.win r.ctx r.win = { s.svc.win r.ctx r.win with werr := (s.svc.win r.ctx r.win).werr + 1 }
      ∧ ∀ g, s.group? r.slot = some g → g.gid = r.gid → s.lg g = r.lg → u.group? r.slot = some { g with puts := g.puts - 1 })
  ∧ (∀ id s, (∀ r ∈ s.svc.puts, r.id = id → s.us < r.sent + 1000) → exec (.putTimeout id) s = .next s))

-- ### Lane words

/-- What the issue of a lane word in FCLK `now` changes (07 R128, R133, R138, R139, 22 R425, 15 R334, R336): the counter of SETC rises by one, the word leaves its run, which remembers it, its results go
on their way, a switch point parks the group, the FCLK and the counter are kept, the stores on the counters of WAIT, and behind a switch point those on every counter, have been awaited, an admission is waited for no longer (15 R337), and outside a handler a SKIP of
a lane word is spent. Every register, mask, scalar register, special register, pin, recipe and record stays. -/
def Obligations.LaneIssueFrame : Prop :=
  ∀ (g : Group) now h cls lat ready effs, let g' := g.issued now h cls lat ready effs
    (∀ k : Fin 12, g'.ctrs[k] = if h.setc.toNat = k.val then g.ctrs[k] + 1 else g.ctrs[k]) ∧ g'.parked = h.sw ∧ g'.last = some (now, h.setc)
    ∧ (∀ r rs, g.runq = r :: rs → (r.buf.length ≤ 1 → g'.runq = rs) ∧ (2 ≤ r.buf.length →
        g'.runq = { r with next := r.next + 1, buf := r.buf.drop 1, prev := r.buf.head?.join } :: rs))
    ∧ (effs ≠ [] → ∃ f, g'.flights = g.flights ++ [f] ∧ f.effs = effs ∧ f.ctr = h.setc ∧ f.cls = cls ∧ f.lat = lat ∧ f.age = 0)
    ∧ (∀ n, g.inh = false → g.skip = some (true, n) → g'.skip = none)
    ∧ ((g.inh = true ∨ ∀ n, g.skip ≠ some (true, n)) → g'.skip = g.skip)
    ∧ g'.slack.length = g.slack.length
    ∧ (∀ (i : Nat) x, g.slack[i]? = some x → g'.slack[i]? = some { x with waited := x.waited || decide (∃ k : Fin 12, x.ctr.toNat = k.val ∧ (g.parked = true ∨ h.wait.getLsbD k.val = true)) })
    ∧ g'.passed = 0 ∧ g'.mid = g.mid ∧ g'.relv = g.relv ∧ g'.srelv = g.srelv ∧ g'.acqv = g.acqv ∧ g'.obsv = g.obsv ∧ g'.sobs = g.sobs ∧ g'.heard = g.heard ∧ g'.late = g.late
    ∧ (g.windowTiles = [] → g'.races = g.races) ∧ g'.progto = g.progto ∧ g'.fspc = g.fspc
    ∧ g'.regs = g.regs ∧ g'.masks = g.masks ∧ g'.sregs = g.sregs ∧ g'.spc = g.spc ∧ g'.exm = g.exm ∧ g'.tpart = g.tpart ∧ g'.pins = g.pins
    ∧ g'.bound = g.bound ∧ g'.recipes = g.recipes ∧ g'.cause = g.cause ∧ g'.epc = g.epc ∧ g'.elpc = g.elpc ∧ g'.faddr = g.faddr
    ∧ g'.stepn = g.stepn ∧ g'.tiles = g.tiles ∧ g'.latch = g.latch ∧ g'.mq = g.mq ∧ g'.watch = g.watch ∧ g'.aside = g.aside ∧ g'.deferred = g.deferred ∧ g'.spend = g.spend
    ∧ g'.tseq = g.tseq ∧ g'.oclosed = g.oclosed ∧ g'.bars = g.bars ∧ g'.growAsk = g.growAsk ∧ g'.slot = g.slot ∧ g'.gid = g.gid ∧ g'.lw = g.lw ∧ g'.k = g.k

/-- WORD_COMPLETION (07 R138, R140, 13 R287, R292, 11 R239): when its unit is done, it is the oldest in-order word of its counter, no earlier word is under way that it is ordered after,
and it is not in the FCLK of its issue, an issued word leaves; its counter falls by one and its results are in the registers. A younger in-order word of the counter waits; so does a
release behind a memory word or an MMQ that has still to read its B tile, and a FENCE that acquires behind a load or an atomic. That a release or a FENCE waits for every earlier memory
word and KDEF, whatever their scopes, is the model's reading (notes/assumptions/55). -/
def Obligations.WordCompletion : Prop :=
  (∀ slot idx (s : State) (g : Group) (f : Flight), s.group? slot = some g → g.flights.find? (fun x => x.id == idx) = some f → f.ready = true →
      ¬(f.id + 1 = g.nextId ∧ ∃ c, g.last = some (s.fclk, c)) →
      (f.cls = .inOrder → ∀ x ∈ g.flights, x.cls = .inOrder → x.ctr = f.ctr → f.id ≤ x.id) →
      (∀ x ∈ g.flights, x.id < f.id → f.cls.after x.cls = false) → (∀ t, Eff.ws t ∈ f.effs → t + 2 ≤ s.fclk) →
    ∃ u g', exec (.wordCompletion slot idx) s = .next u ∧ u.mem = s.mem ∧ u.group? slot = some g' ∧ (∀ x ∈ g'.flights, x.id ≠ idx)
      ∧ (∀ k : Fin 12, g'.ctrs[k] = if f.ctr.toNat = k.val then g.ctrs[k] - 1 else g.ctrs[k])
      ∧ g'.regs = (g.applyEffs f.effs).regs ∧ g'.masks = (g.applyEffs f.effs).masks ∧ g'.sregs = (g.applyEffs f.effs).sregs
      ∧ (∀ p on v, f.effs = [.reg p on v] → ∀ r, g.regs[p]? = some r → ∃ r', g'.regs[p]? = some r' ∧ r'.st = .value
        ∧ ∀ l : Fin 32, r'.val[l] = if on[l] then v[l] else if r.st = .void then 0 else r.val[l]))
  ∧ (∀ slot idx (s : State) (g : Group) (f : Flight) c, s.group? slot = some g → g.flights.find? (fun x => x.id == idx) = some f → f.id + 1 = g.nextId → g.last = some (s.fclk, c) →
      exec (.wordCompletion slot idx) s = .next s)
  ∧ (∀ slot idx (s : State) (g : Group) (f : Flight) t, s.group? slot = some g → g.flights.find? (fun x => x.id == idx) = some f → Eff.ws t ∈ f.effs → s.fclk < t + 2 →
      exec (.wordCompletion slot idx) s = .next s)
  ∧ (∀ slot idx (s : State) (g : Group) (f x : Flight), s.group? slot = some g → g.flights.find? (fun x => x.id == idx) = some f → f.cls = .inOrder → x ∈ g.flights → x.cls = .inOrder →
      x.ctr = f.ctr → x.id < f.id → exec (.wordCompletion slot idx) s = .next s)
  ∧ (∀ slot idx (s : State) (g : Group) (f x : Flight) k j, s.group? slot = some g → g.flights.find? (fun x => x.id == idx) = some f → f.cls = .memory k → x ∈ g.flights →
      x.id < f.id → (x.cls = .memory j ∧ (k.rel = true ∨ k.fence = true ∧ k.acq = true ∧ j.load = true) ∨ x.cls = .kdef ∧ (k.rel = true ∨ k.fence = true ∧ k.acq = true)
        ∨ x.cls = .mmq ∧ k.rel = true) → exec (.wordCompletion slot idx) s = .next s)

/-- What every lane word checks before it acts (07 R133, R135, R139, R141, R145, 12 R244), whichever it is, unless it is ILLEGAL where it stands (06 R125): while a counter of its WAIT is not zero, the
counter of its SETC is full or its distance is not met, it changes nothing; with an empty set of lanes a word with PRED moves only its counter; an error that a load left on a counter of its
WAIT traps with ECC at its address; a register outside the allotment, the first in field order, traps with ACCESS and its designation. -/
def Obligations.LaneWordChecks : Prop :=
  (∀ i h s g, laneCtl i = some h → s.group? s.cur = some g → illegalNow s g i = false → g.trial = none →
      ((∃ k : Fin 12, h.wait.getLsbD k.val = true ∧ g.ctrs[k] ≠ 0) ∨ (∃ k : Fin 12, h.setc.toNat = k.val ∧ g.ctrs[k] = 255)
        ∨ ∃ t c, g.last = some (t, c) ∧ s.fclk < t + gap (s.clusterAt (g.slot / 192)).ratio h.dist.toNat) → exec i s = .next s)
  ∧ (∀ i h s g, laneCtl i = some h → wholeWord i = false → s.group? s.cur = some g → illegalNow s g i = false → g.trial = none → g.mq.length < 8 → Eligible s g h → g.plain →
      onLanes s g h false = 0 → ∃ cls lat, cls.acquires = false ∧ exec i s = .next (drawn s (g.issued s.fclk h cls lat true [])))
  ∧ (∀ i h s g d, laneCtl i = some h → s.group? s.cur = some g → illegalNow s g i = false → g.still → Eligible s g h → g.deferred = [d] → d.ctr.toNat < 12 →
      h.wait.getLsbD d.ctr.toNat = true →
    ∃ u g', exec i s = .next u ∧ u.mem = s.mem ∧ u.group? g.slot = some g' ∧ g'.cause.toNat % 256 = 11 ∧ g'.cause.toNat / 256 % 256 = d.detail.toNat ∧ g'.faddr = d.addr
      ∧ g'.deferred = [] ∧ g'.epc = g.spc ∧ g'.elpc = g.lpc ∧ g'.regs = g.regs)
  ∧ (∀ i h s g r, laneCtl i = some h → s.group? s.cur = some g → illegalNow s g i = false → g.still → Eligible s g h → g.plain →
      (wholeWord i = true ∨ onLanes s g h false ≠ 0) → (fieldRegs s g i).find? (fun r => !g.inAllot r) = some r →
    ∃ u g', exec i s = .next u ∧ u.mem = s.mem ∧ u.group? g.slot = some g' ∧ g'.cause.toNat % 256 = 4 ∧ g'.cause.getLsbD 24 = true
      ∧ g'.faddr = BitVec.ofNat 64 (2 ^ 63 + (if r.acc then 65536 else 0) + r.k % 256) ∧ g'.epc = g.spc ∧ g'.elpc = g.lpc ∧ g'.regs = g.regs ∧ g'.ctrs = Vector.replicate 12 0)

/-- Integer addition, multiplication, absolute value and dot product of the lanes (10 R202-R204), each lane by itself; the word issues with this result and nothing else changes. -/
def Obligations.LaneIntegerArithmetic : Prop :=
  (∀ h d a b f, Lane2 (.iadd h d a b f) h 4 .int d a b fun x y => narrowed f (x.toNat + y.toNat) (x.toInt + y.toInt))
  ∧ (∀ h d a b f, Lane2 (.isub h d a b f) h 4 .int d a b fun x y => narrowed f ((x.toNat : Int) - y.toNat) (x.toInt - y.toInt))
  ∧ (∀ h d a b c f, Lane3 (.iadd3 h d a b c f) h 4 .int d a b c fun x y z => narrowed f (x.toNat + y.toNat + z.toNat) (x.toInt + y.toInt + z.toInt))
  ∧ (∀ h d a b f, Lane2 (.imul h d a b f) h 6 .int d a b fun x y => x * y)
  ∧ (∀ h d a b f, Lane2 (.imulh h d a b f) h 6 .int d a b fun x y =>
      if f = 0 then BitVec.ofInt 32 (x.toInt * y.toInt / 2 ^ 32) else BitVec.ofNat 32 (x.toNat * y.toNat / 2 ^ 32))
  ∧ (∀ h d a b c f, Lane3 (.imad h d a b c f) h 6 .int d a b c fun x y z => narrowed f (x.toNat * y.toNat + z.toNat) (x.toInt * y.toInt + z.toInt))
  ∧ (∀ h d a f, Lane1 (.iabs h d a f) h 4 d a fun x => if f ≠ 0 ∧ x.toInt = -2 ^ 31 then BitVec.ofNat 32 (2 ^ 31 - 1) else BitVec.ofNat 32 x.toInt.natAbs)
  ∧ (∀ h d a b f, Lane2 (.iwadd h d a b f) h 4 .int d a b fun x y => x +
      (if f.toNat / 4 = 0 then BitVec.ofNat 32 (y.toNat / 2 ^ (16 * (f.toNat % 4)) % 2 ^ 16)
       else if f.toNat / 4 = 1 then (y.extractLsb' (16 * (f.toNat % 4)) 16).signExtend 32
       else if f.toNat / 4 = 2 then BitVec.ofNat 32 (y.toNat / 2 ^ (8 * (f.toNat % 4)) % 2 ^ 8)
       else (y.extractLsb' (8 * (f.toNat % 4)) 8).signExtend 32))
  ∧ (∀ h d a b c f, Lane3 (.idp4 h d a b c f) h 6 .int d a b c fun x y z =>
      let e (sx : Bool) (w : W32) (j : Nat) : Int := if sx then (w.extractLsb' (8 * j) 8).toInt else (w.extractLsb' (8 * j) 8).toNat
      let p (j : Nat) : Int := e (f.getLsbD 0) x j * e (f.getLsbD 1) y j
      let dot : Int := p 0 + p 1 + p 2 + p 3
      if f.getLsbD 2 then BitVec.ofInt 32 (max (-2 ^ 31) (min (z.toInt + dot) (2 ^ 31 - 1))) else BitVec.ofInt 32 (z.toNat + dot))

/-- Minimum, maximum, logic, counts, shifts and bit fields of the lanes (10 R205-R207), each lane by itself. -/
def Obligations.LaneIntegerLogic : Prop :=
  (∀ h d a b f, Lane2 (.imin h d a b f) h 4 .int d a b fun x y => if (if f = 0 then y.toInt < x.toInt else y.toNat < x.toNat) then y else x)
  ∧ (∀ h d a b f, Lane2 (.imax h d a b f) h 4 .int d a b fun x y => if (if f = 0 then x.toInt < y.toInt else x.toNat < y.toNat) then y else x)
  ∧ (∀ h d a b f, Lane2 (.iand h d a b f) h 4 .int d a b fun x y => x &&& y)
  ∧ (∀ h d a b f, Lane2 (.ior h d a b f) h 4 .int d a b fun x y => x ||| y)
  ∧ (∀ h d a b f, Lane2 (.ixor h d a b f) h 4 .int d a b fun x y => x ^^^ y)
  ∧ (∀ h d a f, Lane1 (.inot h d a f) h 4 d a fun x => ~~~x)
  ∧ (∀ h d a b f, Lane2 (.ishl h d a b f) h 4 .int d a b fun x y => x <<< (if f = 0 then y.toNat % 32 else min y.toNat 32))
  ∧ (∀ h d a b f, Lane2 (.ishr h d a b f) h 4 .int d a b fun x y => x >>> (if f = 0 then y.toNat % 32 else min y.toNat 32))
  ∧ (∀ h d a b f, Lane2 (.isra h d a b f) h 4 .int d a b fun x y => x.sshiftRight (if f = 0 then y.toNat % 32 else min y.toNat 32))
  ∧ (∀ h d a b f, Lane2 (.ibfe h d a b f) h 4 .int d a b fun x y =>
      let len : Nat := min (y.toNat / 2 ^ 8 % 2 ^ 6) 32
      let v : Nat := x.toNat / 2 ^ (y.toNat % 32) % 2 ^ len
      if len = 0 then 0 else if f ≠ 0 ∧ 2 ^ (len - 1) ≤ v then BitVec.ofInt 32 ((v : Int) - 2 ^ len) else BitVec.ofNat 32 v)
  ∧ (∀ h d a b c f, Lane3 (.ibfi h d a b c f) h 4 .int d a b c fun x y z =>
      let pos : Nat := y.toNat % 32
      let len : Nat := min (y.toNat / 2 ^ 8 % 2 ^ 6) 32
      let m : W32 := BitVec.ofNat 32 ((2 ^ len - 1) * 2 ^ pos)
      (x <<< pos &&& m) ||| (z &&& ~~~m))
  ∧ (∀ h d a f, Lane1 (.ipopc h d a f) h 4 d a fun x => BitVec.ofNat 32 ((List.range 32).countP fun i => x.getLsbD i))
  ∧ (∀ h d a f, Lane1 (.iclz h d a f) h 4 d a fun x => BitVec.ofNat 32 (if x = 0 then 32 else 31 - x.toNat.log2))

/-- Compares and selects of the lanes, and mask words (10 R208, R209, R212, R222-R224). FCMP by F: .eq, .ne, .lt, .le, .gt, .ge, .un, .ord; with a NaN only .ne and .un hold; else the exact values decide,
the zeros of both signs being equal (09 R177) and an infinity beyond every finite value. -/
def Obligations.LaneComparesAndMasks : Prop :=
  (∀ h m a b f, LaneMask (.icmp h m a b f) h 4 .int m a b fun x y =>
      if f = 0 then x == y else if f = 1 then x != y else if f = 2 then x.toInt < y.toInt else if f = 3 then y.toInt ≤ x.toInt
      else if f = 4 then x.toNat < y.toNat else y.toNat ≤ x.toNat)
  ∧ (∀ h m a b f, LaneMask (.fcmp h m a b f) h 6 .fp m a b fun x y => fCompare f.toNat x.toNat y.toNat)
  ∧ (∀ (F : Fin 8) x y, let vx := fp32.read x
      let vy := fp32.read y
      (vx.isNan = true ∨ vy.isNan = true → fCompare F.val x y = (F.val == 1 || F.val == 6))
      ∧ (vx.isNan = false → vy.isNan = false →
        (Below vx vy → fCompare F.val x y = [1, 2, 3, 7].contains F.val)
        ∧ (Below vy vx → fCompare F.val x y = [1, 4, 5, 7].contains F.val)
        ∧ (¬Below vx vy → ¬Below vy vx → fCompare F.val x y = [0, 3, 5, 7].contains F.val))
      ∧ fCompare F.val 0 0x80000000 = [0, 3, 5, 7].contains F.val ∧ fCompare F.val 0x80000000 0 = [0, 3, 5, 7].contains F.val)
  ∧ (∀ h d a b m f, Issues (.isel h d a b m f) h false .inOrder 4 (regName d :: regName a :: opndRegs b) fun s g on =>
      [.reg (g.place (regName d)) on (Vector.ofFn fun l => if (g.mask s.free m)[l] then (lanesOf g a)[l] else (opnd s g .int b)[l])])
  ∧ (∀ h d a b, Issues (.mand h d a b) h false .inOrder 4 [] fun s g on => [.mask d on (g.mask s.free a &&& g.mask s.free b)])
  ∧ (∀ h d a b, Issues (.mor h d a b) h false .inOrder 4 [] fun s g on => [.mask d on (g.mask s.free a ||| g.mask s.free b)])
  ∧ (∀ h d a, Issues (.mnot h d a) h false .inOrder 4 [] fun s g on => [.mask d on (~~~(g.mask s.free a))])
  ∧ (∀ h d a, Issues (.mget h d a) h false .inOrder 0 [] fun s g on => [.sreg d (BitVec.ofNat 64 (g.mask s.free a &&& on).toNat)])
  ∧ (∀ h d a, Issues (.mset h d a) h false .inOrder 0 [] fun s g on => [.mask d on (BitVec.ofNat 32 (rd s g a).toNat)])
  ∧ (∀ (g : Group) n, g.mask n 0 = BitVec.allOnes 32)

/-- FP32 arithmetic of the lanes (10 R210-R213) by the arithmetic of chapter 9 in the mode of F, with results visible after six slots (07 R136), and the special functions (11 R241)
by the tables of 09 R194-R197, whose results only a counter makes visible. Each lane is computed by itself. What the operations give is stated in FloatResults. -/
def Obligations.LaneFloatAndSpecialFunctions : Prop :=
  ((∀ h d a b f, Lane2 (.fadd h d a b f) h 6 .fp d a b fun x y => BitVec.ofNat 32 (fAdd fp32 (rmOf f.toNat) x.toNat y.toNat))
  ∧ (∀ h d a b f, Lane2 (.fsub h d a b f) h 6 .fp d a b fun x y => BitVec.ofNat 32 (fSub fp32 (rmOf f.toNat) x.toNat y.toNat))
  ∧ (∀ h d a b f, Lane2 (.fmul h d a b f) h 6 .fp d a b fun x y => BitVec.ofNat 32 (fMul fp32 (rmOf f.toNat) x.toNat y.toNat))
  ∧ (∀ h d a b c f, Lane3 (.ffma h d a b c f) h 6 .fp d a b c fun x y z => BitVec.ofNat 32 (fFma fp32 (rmOf f.toNat) x.toNat y.toNat z.toNat))
  ∧ (∀ h d a b f, Lane2 (.fmin h d a b f) h 6 .fp d a b fun x y => BitVec.ofNat 32 (fMinMax fp32 false x.toNat y.toNat))
  ∧ (∀ h d a b f, Lane2 (.fmax h d a b f) h 6 .fp d a b fun x y => BitVec.ofNat 32 (fMinMax fp32 true x.toNat y.toNat))
  ∧ (∀ h d a f, Lane1 (.fclass h d a f) h 6 d a fun x => BitVec.ofNat 32 (fClass x.toNat))
  ∧ (∀ h d a b f, Lane2 (.fscale h d a b f) h 6 .int d a b fun x y => BitVec.ofNat 32 (fScale (rmOf f.toNat) x.toNat y.toInt))
  ∧ (∀ h d a f, Lane1 (.frnd h d a f) h 6 d a fun x => BitVec.ofNat 32 (fRound (rmOf f.toNat) x.toNat)))
  ∧ ((∀ h d a, Lane1 (.frcp h d a) h 0 d a sfuRcp) ∧ (∀ h d a, Lane1 (.frsq h d a) h 0 d a sfuRsq) ∧ (∀ h d a, Lane1 (.fsqrt h d a) h 0 d a sfuSqrt)
  ∧ (∀ h d a, Lane1 (.fexp2 h d a) h 0 d a sfuExp2) ∧ (∀ h d a, Lane1 (.flog2 h d a) h 0 d a sfuLog2) ∧ (∀ h d a, Lane1 (.fsin h d a) h 0 d a sfuSin)
  ∧ (∀ h d a, Lane1 (.fcos h d a) h 0 d a sfuCos) ∧ (∀ h d a, Lane1 (.ftanh h d a) h 0 d a sfuTanh))

/-- Packed 16-bit arithmetic (10 R214): each half of the lane by itself, in FP16 or BF16; an immediate stands in both halves. Conversions and codebooks (10 R215-R221): CVT, PACK
and UNPACK lane by lane; CVTEF carries the error of each active lane of a tile to the next (09 R185); CBDEC and CBENC use the sixteen entries that eight registers from b hold in the lane. -/
def Obligations.LanePackedAndConversions : Prop :=
  (let two (lo hi : Nat) : W32 := BitVec.ofNat 32 (lo % 2 ^ 16 + 2 ^ 16 * (hi % 2 ^ 16))
  let l (x : W32) : Nat := x.toNat % 2 ^ 16
  let u (x : W32) : Nat := x.toNat / 2 ^ 16
  (∀ h d a b f, Lane2 (.hadd2 h d a b f) h 6 .packed d a b fun x y => two (fAdd fp16 (rmOf f.toNat) (l x) (l y)) (fAdd fp16 (rmOf f.toNat) (u x) (u y)))
  ∧ (∀ h d a b f, Lane2 (.hmul2 h d a b f) h 6 .packed d a b fun x y => two (fMul fp16 (rmOf f.toNat) (l x) (l y)) (fMul fp16 (rmOf f.toNat) (u x) (u y)))
  ∧ (∀ h d a b c f, Lane3 (.hfma2 h d a b c f) h 6 .packed d a b c fun x y z =>
      two (fFma fp16 (rmOf f.toNat) (l x) (l y) (l z)) (fFma fp16 (rmOf f.toNat) (u x) (u y) (u z)))
  ∧ (∀ h d a b f, Lane2 (.badd2 h d a b f) h 6 .packed d a b fun x y => two (fAdd bf16 (rmOf f.toNat) (l x) (l y)) (fAdd bf16 (rmOf f.toNat) (u x) (u y)))
  ∧ (∀ h d a b f, Lane2 (.bmul2 h d a b f) h 6 .packed d a b fun x y => two (fMul bf16 (rmOf f.toNat) (l x) (l y)) (fMul bf16 (rmOf f.toNat) (u x) (u y)))
  ∧ (∀ h d a b c f, Lane3 (.bfma2 h d a b c f) h 6 .packed d a b c fun x y z =>
      two (fFma bf16 (rmOf f.toNat) (l x) (l y) (l z)) (fFma bf16 (rmOf f.toNat) (u x) (u y) (u z))))
  ∧ ((∀ h d a f, Lane1 (.cvt h d a f) h 4 d a (aluCvt f))
  ∧ (∀ h d a f, Issues (.cvtef h d a f) h false .inOrder 4 [regName d, regName a] fun _ g on =>
      [.reg (g.place (regName d)) on (aluCvtef f (2 ^ g.tpart.toNat) on (lanesOf g a))])
  ∧ (∀ h d a b f, Lane2 (.pack h d a b f) h 4 .int d a b (aluPack f))
  ∧ (∀ h d a f, Lane1 (.unpack h d a f) h 4 d a (aluUnpack f))
  ∧ (∀ h d a b f, Issues (.cbdec h d a b f) h false .inOrder 4 (regName d :: regName a :: bookRegs b) fun _ g on =>
      [.reg (g.place (regName d)) on (Vector.ofFn fun l => aluCbdec f (lanesOf g a)[l] (bookAt g b l))])
  ∧ (∀ h d a b f, Issues (.cbenc h d a b f) h false .inOrder 4 (regName d :: regName a :: bookRegs b) fun _ g on =>
      [.reg (g.place (regName d)) on (Vector.ofFn fun l => aluCbenc f (lanesOf g a)[l] (bookAt g b l))]))

/-- What the floating-point operations give. In every format a sum, a product and a multiply-add of finite numbers is the exact result rounded once (09 R180, R181); a NaN operand comes back
quiet, the first in field order (R188), infinities follow 10 R210; FMIN and FMAX give the lesser and the greater operand (09 R190); FCLASS has one bit (10 R213); FSCALE scales the exponent, and
past 1,000 it over- or underflows; FRND is the integer that the mode names (R210). Of the special functions the statement gives their exact points and special operands (09 R197) and
their symmetries: FRCP, FSIN and FTANH are odd, FCOS is even (R195, R196); and general values of FRCP alone, the rounded polynomial of its interval (R194, R195). -/
def Obligations.FloatResults : Prop :=
  ((∀ f rm a b n m e n' m' e', f ∈ [fp32, fp16, bf16] → f.read a = .fin n m e → f.read b = .fin n' m' e' →
      fAdd f rm a b = f.round rm (zeroSign rm n m n' m') (exactSum n m e n' m' e') ∧ fSub f rm a b = f.round rm (zeroSign rm n m (!n') m') (exactSum n m e (!n') m' e')
      ∧ fMul f rm a b = f.round rm (n != n') { m := signed (n != n') (m * m'), e := e + e' }
      ∧ ∀ c n'' m'' e'', f.read c = .fin n'' m'' e'' →
        fFma f rm a b c = f.round rm (zeroSign rm (n != n') (m * m') n'' m'') (exactSum (n != n') (m * m') (e + e') n'' m'' e''))
    ∧ (∀ f rm a b c, f ∈ [fp32, fp16, bf16] → a < 2 ^ f.width → b < 2 ^ f.width → c < 2 ^ f.width →
      ((f.read a).isNan = true → fAdd f rm a b = f.quiet a ∧ fSub f rm a b = f.quiet a ∧ fMul f rm a b = f.quiet a ∧ fFma f rm a b c = f.quiet a)
      ∧ ((f.read a).isNan = false → (f.read b).isNan = true → fAdd f rm a b = f.quiet b ∧ fSub f rm a b = f.quiet b ∧ fMul f rm a b = f.quiet b ∧ fFma f rm a b c = f.quiet b)
      ∧ ((f.read a).isNan = false → (f.read b).isNan = false → (f.read c).isNan = true → fFma f rm a b c = f.quiet c)
      ∧ f.quiet a = a ||| 2 ^ (f.fb - 1))
    ∧ (∀ f rm a b n n' m' e', f ∈ [fp32, fp16, bf16] → f.read a = .inf n → f.read b = .fin n' m' e' → fAdd f rm a b = f.inf n ∧ fAdd f rm b a = f.inf n ∧ fSub f rm a b = f.inf n
      ∧ fSub f rm b a = f.inf (!n) ∧ fMul f rm a b = (if m' = 0 then f.nan else f.inf (n != n')) ∧ fMul f rm b a = (if m' = 0 then f.nan else f.inf (n != n')))
    ∧ (∀ f rm a b n n', f ∈ [fp32, fp16, bf16] → f.read a = .inf n → f.read b = .inf n' → fAdd f rm a b = (if n = n' then f.inf n else f.nan)
      ∧ fSub f rm a b = (if n = n' then f.nan else f.inf n) ∧ fMul f rm a b = f.inf (n != n'))
    ∧ fp32.nan = 0x7FC00000 ∧ fp16.nan = 0x7E00 ∧ bf16.nan = 0x7FC0 ∧ fp32.inf false = 0x7F800000 ∧ fp32.inf true = 0xFF800000)
  ∧ ((∀ a b n m e n' m' e', a < 2 ^ 32 → b < 2 ^ 32 → fp32.read a = .fin n m e → fp32.read b = .fin n' m' e' →
      ((exactSum n m e (!n') m' e').m < 0 → fMinMax fp32 false a b = a ∧ fMinMax fp32 true a b = b)
      ∧ (0 < (exactSum n m e (!n') m' e').m → fMinMax fp32 false a b = b ∧ fMinMax fp32 true a b = a)
      ∧ (m = 0 → m' = 0 → fMinMax fp32 false a b = (if n then a else b) ∧ fMinMax fp32 true a b = if n then b else a))
    ∧ (∀ a b n n' m' e', fp32.read a = .inf n → fp32.read b = .fin n' m' e' → fMinMax fp32 false a b = (if n then a else b) ∧ fMinMax fp32 true a b = (if n then b else a))
    ∧ (∀ a b, (fp32.read a).isNan = true → fMinMax fp32 false a b = (if (fp32.read b).isNan then fp32.quiet a else b) ∧ fMinMax fp32 true a b = (if (fp32.read b).isNan then fp32.quiet a else b))
    ∧ (∀ a b, (fp32.read a).isNan = false → (fp32.read b).isNan = true → fMinMax fp32 false a b = a ∧ fMinMax fp32 true a b = a)
    ∧ (∀ x, x < 2 ^ 32 → fClass x = 2 ^ (let k : Nat := if x / 2 ^ 23 % 2 ^ 8 = 255 then 0 else if x / 2 ^ 23 % 2 ^ 8 ≠ 0 then 1 else if x % 2 ^ 23 ≠ 0 then 2 else 3
      if x / 2 ^ 23 % 2 ^ 8 = 255 ∧ x % 2 ^ 23 ≠ 0 then (if x % 2 ^ 23 < 2 ^ 22 then 8 else 9) else if x < 2 ^ 31 then 7 - k else k))
    ∧ (∀ rm a k n m e, fp32.read a = .fin n m e → (m = 0 → fScale rm a k = a)
      ∧ (m ≠ 0 → -1000 ≤ k → k ≤ 1000 → fScale rm a k = fp32.round rm n { m := signed n m, e := e + k })
      ∧ (m ≠ 0 → 1000 ≤ k → fScale rm a k = fp32.overflow rm n)
      ∧ (m ≠ 0 → k ≤ -1000 → fScale rm a k = fp32.signBit n + if rm = .rup ∧ n = false ∨ rm = .rdn ∧ n = true then 1 else 0))
    ∧ (∀ rm a k n, fp32.read a = .inf n → fScale rm a k = a ∧ fRound rm a = a)
    ∧ (∀ rm a k, (fp32.read a).isNan = true → fScale rm a k = fp32.quiet a ∧ fRound rm a = fp32.quiet a)
    ∧ (∀ rm a n m e, fp32.read a = .fin n m e → ((m = 0 ∨ 0 ≤ e ∨ 2 ^ 23 * 2 ^ (-e).toNat ≤ m) → fRound rm a = a)
      ∧ (m ≠ 0 → e < 0 → m < 2 ^ 23 * 2 ^ (-e).toNat → ∃ i : Int, fRound rm a = fp32.round .rne n { m := i, e := 0 }
        ∧ (rm = .rdn → i * 2 ^ (-e).toNat ≤ signed n m ∧ signed n m < (i + 1) * 2 ^ (-e).toNat)
        ∧ (rm = .rup → signed n m ≤ i * 2 ^ (-e).toNat ∧ (i - 1) * 2 ^ (-e).toNat < signed n m)
        ∧ (rm = .rz → i = signed n (m / 2 ^ (-e).toNat))
        ∧ (rm = .rne → 2 * (signed n m - i * 2 ^ (-e).toNat).natAbs ≤ 2 ^ (-e).toNat ∧ (2 * (signed n m - i * 2 ^ (-e).toNat).natAbs = 2 ^ (-e).toNat → i % 2 = 0)))))
  ∧ ((∀ a : W32, (fp32.read a.toNat).isNan = true → ∀ f ∈ [sfuRcp, sfuRsq, sfuSqrt, sfuExp2, sfuLog2, sfuSin, sfuCos, sfuTanh], f a = a ||| BitVec.ofNat 32 (2 ^ 22))
    ∧ (∀ n : Bool, let s : W32 := if n then BitVec.ofNat 32 (2 ^ 31) else 0
      sfuRcp s = BitVec.ofNat 32 0x7F800000 ||| s ∧ sfuRcp (BitVec.ofNat 32 0x7F800000 ||| s) = s ∧ sfuRsq s = BitVec.ofNat 32 0x7F800000 ||| s ∧ sfuSqrt s = s
      ∧ sfuExp2 s = BitVec.ofNat 32 0x3F800000 ∧ sfuLog2 s = BitVec.ofNat 32 0xFF800000 ∧ sfuSin (BitVec.ofNat 32 0x7F800000 ||| s) = BitVec.ofNat 32 0x7FC00000
      ∧ sfuCos (BitVec.ofNat 32 0x7F800000 ||| s) = BitVec.ofNat 32 0x7FC00000 ∧ sfuTanh (BitVec.ofNat 32 0x7F800000 ||| s) = BitVec.ofNat 32 0x3F800000 ||| s)
    ∧ (sfuRsq (BitVec.ofNat 32 0x7F800000) = 0 ∧ sfuSqrt (BitVec.ofNat 32 0x7F800000) = BitVec.ofNat 32 0x7F800000 ∧ sfuExp2 (BitVec.ofNat 32 0x7F800000) = BitVec.ofNat 32 0x7F800000
      ∧ sfuExp2 (BitVec.ofNat 32 0xFF800000) = 0 ∧ sfuLog2 (BitVec.ofNat 32 0x7F800000) = BitVec.ofNat 32 0x7F800000)
    ∧ (∀ a : W32, 2 ^ 31 < a.toNat → a.toNat ≤ 0xFF800000 → sfuRsq a = BitVec.ofNat 32 0x7FC00000 ∧ sfuSqrt a = BitVec.ofNat 32 0x7FC00000 ∧ sfuLog2 a = BitVec.ofNat 32 0x7FC00000)
    ∧ (∀ (a : W32) n m e (i : Int), fp32.read a.toNat = .fin n m e → Same { m := signed n m, e := e } (Dy.ofInt i) → -1000 ≤ i → i ≤ 1000 →
      sfuExp2 a = BitVec.ofNat 32 (fp32.round .rne false { m := 1, e := i }))
    ∧ (∀ (a : W32) (k : Nat) e, fp32.read a.toNat = .fin false (2 ^ k) e → sfuLog2 a = BitVec.ofNat 32 (fp32.round .rne false (Dy.ofInt (e + k))))
    ∧ (∀ (a : W32) n m e, fp32.read a.toNat = .fin n m e →
      (¬AtMost { m := 1, e := -12 } { m := m, e := e } → sfuSin a = a ∧ sfuCos a = BitVec.ofNat 32 0x3F800000)
      ∧ (AtMost (Dy.ofInt 8) { m := m, e := e } → sfuTanh a = BitVec.ofNat 32 (0x3F800000 + if n then 2 ^ 31 else 0))
      ∧ sfuRcp (a ^^^ BitVec.ofNat 32 (2 ^ 31)) = sfuRcp a ^^^ BitVec.ofNat 32 (2 ^ 31) ∧ sfuTanh (a ^^^ BitVec.ofNat 32 (2 ^ 31)) = sfuTanh a ^^^ BitVec.ofNat 32 (2 ^ 31)
      ∧ ((sfuSin a).toNat % 2 ^ 31 ≠ 0 → sfuSin (a ^^^ BitVec.ofNat 32 (2 ^ 31)) = sfuSin a ^^^ BitVec.ofNat 32 (2 ^ 31)) ∧ sfuCos (a ^^^ BitVec.ofNat 32 (2 ^ 31)) = sfuCos a
      ∧ (m ≠ 0 → ∃ (i : Nat) (c0 : Nat) (c1 c2 : Int) (p : Dy), i < 64 ∧ (64 + i) * 2 ^ m.log2 ≤ 64 * m ∧ 64 * m < (65 + i) * 2 ^ m.log2 ∧ rcpTable[i]? = some (c0, c1, c2)
        ∧ (let D : Int := 128 * (m : Int) - (129 + 2 * i) * 2 ^ m.log2
          Same p { m := c0 * 2 ^ (2 * m.log2 + 14) + c1 * 2 ^ (m.log2 + 16) * D + c2 * 2 ^ 15 * D * D, e := -(2 * m.log2 + 41) })
        ∧ sfuRcp a = BitVec.ofNat 32 (fp32.round .rne n { m := signed n 1 * p.m, e := p.e - (e + m.log2) }))))

/-- What conversions, codebook words, scans, reductions and votes give. CVT to an integer rounds by the mode of its F and saturates, a NaN gives 0 (09 R183); a change of format rounds to nearest, an infinity stays
but in E4M3, a NaN keeps its sign and its top fraction bits and is quiet (R182, R189); CVTEF feeds the error of each lane to the next (R185); PACK and UNPACK by F (10 R217, R218); CBDEC gives the
entry, CBENC the lowest code of the nearest (R220, R221); SCAN combines the active lanes before in lane order (11 R233), RED by the pairwise tree (09 R191, 11 R234); VOTE by F (11 R230). -/
def Obligations.ConversionAndTileResults : Prop :=
  let e (w : Nat) (z : W32) (j : Nat) : Nat := z.toNat / 2 ^ (w * j) % 2 ^ w
  let clamp (lo hi v : Int) : Int := max lo (min v hi)
  ((∀ (F : Fin 6) (x : W32) n m (k : Int), fp32.read x.toNat = .fin n m k → ∃ i : Int,
      aluCvt (BitVec.ofNat 4 F.val) x = BitVec.ofInt 32 (if F.val < 4 then clamp (-2 ^ 31) (2 ^ 31 - 1) i else clamp 0 (2 ^ 32 - 1) i)
      ∧ (0 ≤ k → i = signed n m * 2 ^ k.toNat)
      ∧ (k < 0 → (F.val = 0 ∨ F.val = 4 → 2 * (signed n m - i * 2 ^ (-k).toNat).natAbs ≤ 2 ^ (-k).toNat ∧ (2 * (signed n m - i * 2 ^ (-k).toNat).natAbs = 2 ^ (-k).toNat → i % 2 = 0))
        ∧ (F.val = 1 ∨ F.val = 5 → i = signed n (m / 2 ^ (-k).toNat)) ∧ (F.val = 2 → i = signed n m / 2 ^ (-k).toNat) ∧ (F.val = 3 → i = -(-signed n m / 2 ^ (-k).toNat))))
    ∧ (∀ (F : Fin 6) (x : W32), (fp32.read x.toNat).isNan = true → aluCvt (BitVec.ofNat 4 F.val) x = 0)
    ∧ (∀ (F : Fin 6) (x : W32) n, fp32.read x.toNat = .inf n → aluCvt (BitVec.ofNat 4 F.val) x =
      BitVec.ofInt 32 (if F.val < 4 then (if n then -2 ^ 31 else 2 ^ 31 - 1) else if n then 0 else 2 ^ 32 - 1))
    ∧ (∀ x : W32, aluCvt 6 x = BitVec.ofNat 32 (fp32.round .rne false (Dy.ofInt x.toInt)) ∧ aluCvt 7 x = BitVec.ofNat 32 (fp32.round .rne false (Dy.ofInt x.toNat))
      ∧ aluCvt 8 x = BitVec.ofNat 32 (fConv fp32 fp16 .rne x.toNat) ∧ aluCvt 9 x = BitVec.ofNat 32 (fConv fp32 bf16 .rne x.toNat) ∧ aluCvt 10 x = BitVec.ofNat 32 (fConv fp32 e4m3 .rne x.toNat)
      ∧ aluCvt 11 x = BitVec.ofNat 32 (fConv fp32 e5m2 .rne x.toNat) ∧ aluCvt 12 x = BitVec.ofNat 32 (fConv fp16 fp32 .rne (e 16 x 0)) ∧ aluCvt 13 x = BitVec.ofNat 32 (fConv bf16 fp32 .rne (e 16 x 0))
      ∧ aluCvt 14 x = BitVec.ofNat 32 (fConv e4m3 fp32 .rne (e 8 x 0)) ∧ aluCvt 15 x = BitVec.ofNat 32 (fConv e5m2 fp32 .rne (e 8 x 0)))
    ∧ (∀ src dst rm x, src ∈ [fp32, fp16, bf16, e5m2, e4m3] → dst ∈ [fp32, fp16, bf16, e5m2, e4m3] →
      (∀ n m k, src.read x = .fin n m k → fConv src dst rm x = dst.round rm n { m := signed n m, e := k })
      ∧ (∀ n, src.read x = .inf n → fConv src dst rm x = if dst.e4m3 then dst.signBit n + 0x7E else dst.inf n)
      ∧ ∀ n p, src.read x = .nan n p → fConv src dst rm x = if dst.e4m3 then dst.signBit n + 0x7F
        else dst.signBit n + dst.maxE * 2 ^ dst.fb + (p * 2 ^ dst.fb / 2 ^ src.fb ||| 2 ^ (dst.fb - 1))))
  ∧ (∀ (F : Fin 4) t on x, 1 ≤ t → t ≤ 5 → ∀ i, i < 2 ^ (5 - t) →
      Feedback ([fp16, bf16, e4m3, e5m2].getD F.val fp16) on x (aluCvtef (BitVec.ofNat 4 F.val) (2 ^ t) on x) (2 ^ t) (i * 2 ^ t) Dy.zero)
  ∧ ((∀ x y : W32, (∀ j, j < 2 → e 16 (aluPack 0 x y) j = fConv fp32 fp16 .rne (if j = 0 then x else y).toNat ∧ e 16 (aluPack 1 x y) j = fConv fp32 bf16 .rne (if j = 0 then x else y).toNat
        ∧ e 16 (aluPack 2 x y) j = (BitVec.ofInt 16 (clamp (-2 ^ 15) (2 ^ 15 - 1) (if j = 0 then x else y).toInt)).toNat ∧ e 16 (aluPack 3 x y) j = min (if j = 0 then x else y).toNat (2 ^ 16 - 1))
      ∧ (∀ j, j < 4 → let v := e 16 (if j < 2 then x else y) (j % 2)
        e 8 (aluPack 4 x y) j = (BitVec.ofInt 8 (clamp (-2 ^ 7) (2 ^ 7 - 1) (BitVec.ofNat 16 v).toInt)).toNat ∧ e 8 (aluPack 5 x y) j = min v (2 ^ 8 - 1)
        ∧ e 8 (aluPack 6 x y) j = fConv fp16 e4m3 .rne v ∧ e 8 (aluPack 7 x y) j = fConv fp16 e5m2 .rne v)
      ∧ (∀ j, j < 8 → let v := e 8 (if j < 4 then x else y) (j % 4)
        e 4 (aluPack 8 x y) j = (BitVec.ofInt 4 (clamp (-2 ^ 3) (2 ^ 3 - 1) (BitVec.ofNat 8 v).toInt)).toNat ∧ e 4 (aluPack 9 x y) j = min v (2 ^ 4 - 1)))
    ∧ (∀ (F : Fin 12) (x : W32), aluUnpack (BitVec.ofNat 4 F.val) x = BitVec.ofNat 32 (if F.val < 2 then fConv fp16 fp32 .rne (e 16 x F.val) else if F.val < 4 then fConv bf16 fp32 .rne (e 16 x (F.val - 2))
      else if F.val < 8 then fConv e4m3 fp32 .rne (e 8 x (F.val - 4)) else fConv e5m2 fp32 .rne (e 8 x (F.val - 8)))))
  ∧ ((∀ (F : BitVec 4) x (book : List Nat), book.length = 16 → ∀ c, book[e 4 x (F.toNat % 8)]? = some c →
      aluCbdec F x book = BitVec.ofNat 32 (if F.getLsbD 3 then c else fConv bf16 fp32 .rne c))
    ∧ (∀ (F : BitVec 4) (x : W32) (book : List Nat), book.length = 16 → ∃ c, c < 16 ∧ aluCbenc F x book = BitVec.ofNat 32 (c * 2 ^ (4 * (F.toNat % 8)))
      ∧ Chosen (fp32.read x.toNat) (fun i => bf16.read (book.getD i 0)) c))
  ∧ ((∀ op ty t on x (l : Fin 32), op < 6 → ty < 3 → (2 < op → ty < 2) → 1 ≤ t → t ≤ 5 → on[l] = true →
      (aluScan op ty false (2 ^ t) on x)[l] = (match before t on x l.val ++ [x[l]] with
        | v :: vs => vs.foldl (combined op ty) v
        | [] => 0)
      ∧ (aluScan op ty true (2 ^ t) on x)[l] = (match before t on x l.val with
        | v :: vs => vs.foldl (combined op ty) v
        | [] => BitVec.ofNat 32 (if op = 1 then [0x7FFFFFFF, 0xFFFFFFFF, 0x7F800000].getD ty 0 else if op = 2 then [0x80000000, 0, 0xFF800000].getD ty 0 else if op = 3 then 0xFFFFFFFF else 0)))
    ∧ (∀ op ty t on x (l : Fin 32), op < 6 → ty < 3 → (2 < op → ty < 2) → 1 ≤ t → t ≤ 5 → on[l] = true →
      some ((aluRed op ty t on x)[l]) = treeOf op ty t fun i => if on.getLsbD (l.val / 2 ^ t * 2 ^ t + i) then some (x.getD (l.val / 2 ^ t * 2 ^ t + i) 0) else none))
  ∧ (∀ t (on : W32) x, 1 ≤ t → t ≤ 5 → let act (i : Nat) : List (Fin 32) := (List.finRange 32).filter fun l => on[l] = true ∧ l.val / 2 ^ t = i
      (∀ l, (aluVote 0 (2 ^ t) on x).getLsbD l = (decide (l < 32) && on.getLsbD l && x.getD l 0 != 0))
      ∧ (∀ i, (aluVote 1 (2 ^ t) on x).getLsbD i = (act i).any fun l => x[l] != 0)
      ∧ (∀ i, (aluVote 2 (2 ^ t) on x).getLsbD i = (!(act i).isEmpty && (act i).all fun l => x[l] != 0))
      ∧ (∀ i, (aluVote 3 (2 ^ t) on x).getLsbD i = (!(act i).isEmpty && (act i).all fun l => (act i).all fun l' => x[l] == x[l']))
      ∧ ∀ i, i < 2 ^ (5 - t) → (aluVote 4 (2 ^ t) on x).toNat / 2 ^ (2 * 2 ^ t * i) % 2 ^ (2 * 2 ^ t) = (act i).countP fun l => x[l] != 0)

/-- Rounding is right in the five formats (09 R175, R180, R181): it gives every finite encoding back, in every mode, so that a conversion of a representable value is exact; and where the exact value does not
pass the largest finite one, the result is finite, .rdn gives the greatest representable value not above, .rup the least not below, .rz the one nearest to it towards zero, .rne a nearest one, and of
two as near the one with an even fraction. -/
def Obligations.RoundingKeepsRepresentable : Prop :=
  (∀ f rm x n m e, f ∈ [fp32, fp16, bf16, e5m2, e4m3] → x < 2 ^ f.width → f.read x = .fin n m e → f.round rm n (FVal.fin n m e).dy = x)
  ∧ (∀ f rm z (x : Dy), f ∈ [fp32, fp16, bf16, e5m2, e4m3] → x.m ≠ 0 → AtMost x.abs (f.read (f.maxFin false)).dy →
    ∃ n m e, f.read (f.round rm z x) = .fin n m e ∧ f.round rm z x < 2 ^ f.width ∧ let y : Dy := { m := signed n m, e := e }
      (rm = .rdn → AtMost y x) ∧ (rm = .rup → AtMost x y) ∧ (rm = .rz → AtMost y.abs x.abs ∧ (m ≠ 0 → (n = true ↔ x.m < 0)))
      ∧ ∀ v n' m' e', v < 2 ^ f.width → f.read v = .fin n' m' e' → let w : Dy := { m := signed n' m', e := e' }
        (rm = .rdn → AtMost w x → AtMost w y) ∧ (rm = .rup → AtMost x w → AtMost y w) ∧ (rm = .rz → AtMost w.abs x.abs → AtMost w.abs y.abs)
        ∧ (rm = .rne → NotFarther x y w ∧ (NotFarther x w y → ¬Same w y → f.round rm z x % 2 = 0)))

/-- Moves, lane numbers, votes, shuffles, scans, reductions, transfers and shared registers (10 R222, 11 R230-R239), and the lanes that VOTE, SHFL and FIRST name: FIRST is the
lowest active lane; IDX wraps in the tile, UP and DOWN keep a lane whose source lies outside its tile, BFLY is the exclusive or; BALLOT has the bit of each active lane that holds a
value other than 0. -/
def Obligations.CrossLaneWords : Prop :=
  ((∀ h d a f, Lane1 (.vmov h d a f) h 4 d a fun x => x)
  ∧ (∀ h d i, Issues (.vmovi h d i) h false .inOrder 4 [vname d.toNat] fun _ _ on => [.reg d.toNat on (Vector.replicate 32 i)])
  ∧ (∀ h d f, Issues (.laneid h d f) h false .inOrder 4 [regName d] fun _ g on =>
      [.reg (g.place (regName d)) on (Vector.ofFn fun l => BitVec.ofNat 32 (if f = 0 then l.val else l.val % 2 ^ g.tpart.toNat))])
  ∧ (∀ h d a f, Issues (.vote h d a f) h false .inOrder 0 [regName a] fun _ g on => [.sreg d (aluVote f.toNat (2 ^ g.tpart.toNat) on (lanesOf g a))])
  ∧ (∀ h d a b f, Issues (.shfl h d a b f) h false .inOrder 0 (regName d :: regName a :: opndRegs b) fun s g on =>
      [.reg (g.place (regName d)) on (Vector.ofFn fun l =>
        (lanesOf g a).getD (shflSource f.toNat (2 ^ g.tpart.toNat) l.val ((opnd s g .int b)[l]).toNat) 0)])
  ∧ (∀ h d a f ty ex, Issues (.scan h d a f ty ex) h false .inOrder 0 [regName d, regName a] fun _ g on =>
      [.reg (g.place (regName d)) on (aluScan f.toNat ty.toNat ex (2 ^ g.tpart.toNat) on (lanesOf g a))])
  ∧ (∀ h d a f ty, Issues (.red h d a f ty) h false .inOrder 0 [regName d, regName a] fun _ g on =>
      [.reg (g.place (regName d)) on (aluRed f.toNat ty.toNat g.tpart.toNat on (lanesOf g a))])
  ∧ (∀ h d a b sx, Issues (.vtos h d a b true sx) h false .inOrder 0 [regName a] fun _ g on =>
      let x := (lanesOf g a).getD ((lowestLane on).getD 0) 0
      [.sreg d (if sx then x.signExtend 64 else x.setWidth 64)])
  ∧ (∀ h d a b sx, Issues (.vtos h d a b false sx) h false .inOrder 0 [regName a] fun s g _ =>
      let x := (lanesOf g a).getD (((opnd s g .int b).getD 0 0).toNat % 32) 0
      [.sreg d (if sx then x.signExtend 64 else x.setWidth 64)])
  ∧ (∀ h d a hi, Issues (.stov h d a hi) h false .inOrder 0 [regName d] fun s g on =>
      [.reg (g.place (regName d)) on (Vector.replicate 32 (BitVec.ofNat 32 ((rd s g a).toNat / (if hi then 2 ^ 32 else 1))))])
  ∧ (∀ h d k, Issues (.wsr h d k) h false .inOrder 0 [regName d] fun s g on =>
      [.reg (g.place (regName d)) on (Vector.replicate 32 (((s.wg? g.gid g.lw).map fun w => w.wsAt s.fclk k).getD 0))])
  ∧ (∀ h k a s g w, AtLane s g h true [regName a] → g.exm ≠ 0 → s.wg? g.gid g.lw = some w → ∃ u w', exec (.wsw h k a) s = .next u ∧ u.mem = s.mem
      ∧ u.group? g.slot = some (g.issued s.fclk h .inOrder 0 true [.ws s.fclk]) ∧ u.wg? g.gid g.lw = some w'
      ∧ (s.fclk, s.lg g, k.toNat, (lanesOf g a).getD ((lowestLane g.exm).getD 0) 0) ∈ w'.wsPend))
  ∧ ((∀ (on : W32) (l : Fin 32), on[l] = true → (∀ j : Fin 32, j < l → on[j] = false) → lowestLane on = some l.val)
  ∧ (∀ t l b, t ∈ [1, 2, 3, 4, 5] → l < 32 →
      shflSource 0 (2 ^ t) l b = l / 2 ^ t * 2 ^ t + b % 2 ^ t
      ∧ shflSource 1 (2 ^ t) l b = (if b ≤ l % 2 ^ t then l - b else l)
      ∧ shflSource 2 (2 ^ t) l b = (if l % 2 ^ t + b < 2 ^ t then l + b else l)
      ∧ shflSource 3 (2 ^ t) l b = l / 2 ^ t * 2 ^ t + (l % 2 ^ t ^^^ b % 2 ^ t))
  ∧ (∀ t (on : W32) x (l : Fin 32), (aluVote 0 t on x).getLsbD l.val = (on[l] && x[l] != 0)))

-- ### Memory words of the lanes

/-- LD, LDS and LDT (13 R280, R283, R285, R288): when every active lane passes its checks, the register group at vd takes the elements, low word first, and no
memory changes; LDT takes a row a lane and gives its columns, with zero rows for inactive lanes. The bytes are those that the memory model lets the lanes read (17 R355, R363): those of
memory or of the scratchpad, where the lane knows every write of them, or where the groups of the core that holds the scratchpad have made them all (13 R279). One address that all lanes name is read once for all
(R283). A relaxed load of global memory may issue with its accesses left to be performed later, and then reads as one that is performed at that time: that the model leaves this to a turn of its own, and what it leaves out of it, is
the model's reading of 17 R371 (notes/assumptions/5). -/
def Obligations.LaneLoads : Prop :=
  (∀ h d m s g pls, AtLane s g h false (vgroup d.toNat (typeRegs m.type) ++ memRegs m) → (s.taskOf g = none ∨ m.ord = 0) →
      Placed s g h m (checkGlob s g needRead (typeSize m.type)) pls → Readable s (typeSize m.type) pls →
    ∃ u g' v, exec (.ld h d m) s = .next u ∧ u.mem = s.mem ∧ (∀ x ∈ u.groups, x.slot ≠ g.slot → x ∈ s.groups) ∧ u.group? g.slot = some g'
      ∧ Moved h (g.issued s.fclk h (memWord true false m.ord) 0 true (loads d (typeRegs m.type) (onLanes s g h false) v)) g' ∧ (s.taskOf g = none → Knows (drawn s g') u)
      ∧ ∀ x ∈ pls, ∃ bs, Reads (s.scStart g m.ord m.scope).1 (s.taskOf g) (placeReader (s.scStart g m.ord m.scope).1 g m x.1 x.2) (x.2.locs g (typeSize m.type)) bs
        ∧ ∀ i, i < typeRegs m.type → (v i).getD x.1 0 = (loadWords m.type bs).getD i 0 ∧ (m.voff = false → ∀ y ∈ pls, (v i).getD y.1 0 = (v i).getD x.1 0))
  ∧ (∀ h d m s g pls, AtLane s g h false (vgroup d.toNat (typeRegs m.type) ++ memRegs m) → (s.taskOf g = none ∨ m.ord = 0) →
      Placed s g h m (checkSpad s g (typeSize m.type)) pls →
    ∃ u g' v, exec (.lds h d m) s = .next u ∧ u.mem = s.mem ∧ (∀ x ∈ u.groups, x.slot ≠ g.slot → x ∈ s.groups) ∧ u.group? g.slot = some g'
      ∧ Moved h (g.issued s.fclk h (memWord true false m.ord) 0 true (loads d (typeRegs m.type) (onLanes s g h false) v)) g' ∧ (s.taskOf g = none → Knows (drawn s g') u)
      ∧ ∀ x ∈ pls, ∃ bs, Reads (s.scStart g m.ord m.scope).1 (s.taskOf g) (placeReader (s.scStart g m.ord m.scope).1 g m x.1 x.2) (x.2.locs g (typeSize m.type)) bs
        ∧ ∀ i, i < typeRegs m.type → (v i).getD x.1 0 = (loadWords m.type bs).getD i 0 ∧ (m.voff = false → ∀ y ∈ pls, (v i).getD y.1 0 = (v i).getD x.1 0))
  ∧ ((∀ h d m s g pls, AtLane s g h false (vgroup d.toNat (typeRegs m.type) ++ memRegs m) → s.taskOf g = none → m.ord = 0 → h.setc.toNat < 12 → g.late = [] →
      Placed s g h m (checkGlob s g needRead (typeSize m.type)) pls →
    ∃ (x : Late) (effs : List Eff), s.issueLate g (.ld h d m) = drawn s { g.issued s.fclk h (memWord true false 0) 0 false effs with late := [x] } ∧ (∀ e ∈ effs, ∃ p v, e = .reg p 0 v)
      ∧ x.id = g.nextId ∧ x.ctr = h.setc ∧ x.load = true ∧ x.d = d ∧ x.run = g.runq.head? ∧ x.word.op = m ∧ x.word.on = onLanes s g h false ∧ x.word.accs.map LaneAcc.placed = pls)
    ∧ ∀ s g (x : Late), s.group? g.slot = some g → g.late.find? (fun y => y.id == x.id) = some x → x.load = true → s.taskOf g = none → (x.word.accs.map LaneAcc.lane).Nodup →
      Readable s x.word.size (x.word.accs.map LaneAcc.placed) →
    ∃ u g' v, performTurn g.slot x.id s = .next u ∧ Knows (drawn s g') u ∧ g'.late = g.late.filter (fun y => y.id != x.id) ∧ g'.runq = g.runq ∧ g'.ctrs = g.ctrs ∧ g'.regs = g.regs ∧ g'.deferred = g.deferred
      ∧ (∀ f ∈ g.flights, f.id = x.id → { f with ready := true, effs := f.effs ++ loads x.d (typeRegs x.word.op.type) x.word.on v } ∈ g'.flights)
      ∧ (∀ f ∈ g.flights, f.id ≠ x.id → f ∈ g'.flights)
      ∧ ∀ a ∈ x.word.accs, ∃ bs, Reads s none (placeReader s { g with runq := x.run.toList } x.word.op a.lane a.place) (a.place.locs g x.word.size) bs
        ∧ ∀ i, i < typeRegs x.word.op.type → (v i).getD a.lane 0 = (loadWords x.word.op.type bs).getD i 0)
  ∧ (∀ h d m s g pls e, e = (if m.type = 1 then 2 else 1) → AtLane s g h false (vgroup d.toNat (8 * e) ++ memRegs m) →
      Placed s g h m (checkGlob s g needRead (32 * e)) pls → Readable s (32 * e) pls →
    ∃ u g' v, ∃ rows : Nat → List Byte, exec (.ldt h d m) s = .next u ∧ u.mem = s.mem ∧ u.group? g.slot = some g'
      ∧ Moved h (g.issued s.fclk h (memWord true false 0) 0 true (loads d (8 * e) (onLanes s g h false) v)) g' ∧ (s.taskOf g = none → Knows (drawn s g') u)
      ∧ (∀ x ∈ pls, Reads s (s.taskOf g) (placeReader s g m x.1 x.2) (x.2.locs g (32 * e)) (rows x.1))
      ∧ ∀ i, i < 8 * e → ∀ c, c < 32 → ∀ j, j < 4 / e → elem (8 * e) ((v i).getD c 0) j =
        if (onLanes s g h false).getLsbD (4 / e * i + j) then leNat ((rows (4 / e * i + j)).extract (e * c) (e * c + e)) else 0)
  ∧ (∀ s (g : Group) t r lw off n bs, Reads s t r ((Place.spad lw off).locs g n) bs → UpToDate s r ((Place.spad lw off).locs g n) → bs = memRead (s.spadOf g.gid lw) off n)
  ∧ (∀ s (g : Group) m l lw off n w, s.wg? g.gid lw = some w → w.core = g.slot / 48 →
      (∀ x ∈ (Place.spad lw off).locs g n, ∀ v ∈ s.order.versions x, v.stamp = 0 ∨ v.src.agent.group? ≠ none ∧ v.src.lw = g.lw) →
      UpToDate s (placeReader s g m l (.spad lw off)) ((Place.spad lw off).locs g n))
  ∧ (∀ (type : BitVec 4) bs, type.toNat ≤ 6 → bs.length = typeSize type →
      (type.toNat < 4 → loadWords type bs = [(extended (type.toNat % 2 == 1) (typeSize type) (leNat bs)).setWidth 32])
      ∧ (4 ≤ type.toNat → (loadWords type bs).length = typeSize type / 4 ∧ ∀ i, i < typeSize type / 4 → (loadWords type bs).getD i 0 = BitVec.ofNat 32 (leNat bs / 2 ^ (32 * i))))

/-- ST and STS (13 R284, R286): outside a task each active lane stores its element, the highest lane last; every byte outside the lanes' elements reads as before, and of the group
only the issue shows, and that its stores are under way. A relaxed store may issue with its accesses left to be performed, and stores the same when they are (17 R371; notes/assumptions/5). ST goes to memory, STS to the scratchpads of the gang, and then memory does not change. Sixteen bytes go as two halves, and eight that
lie in the doorbell page ring (03 R47). -/
def Obligations.LaneStores : Prop :=
  (∀ h c m s g pls, AtLane s g h false (vgroup c.toNat (typeRegs m.type) ++ memRegs m) → s.taskOf g = none → s.memOk →
      Placed s g h m (checkGlob s g needWrite (typeSize m.type)) pls → Storable s (typeSize m.type) pls →
    ∃ u g', exec (.st h c m) s = .next u ∧ u.memOk ∧ u.wgs = s.wgs ∧ u.stoker = s.stoker ∧ u.group? g.slot = some g' ∧ Moved h (g.issued s.fclk h (memWord false false m.ord) 0 true []) g'
      ∧ (∀ l p k, (l, Place.glob p) ∈ pls → k < typeSize m.type →
        (∀ l' p', (l', Place.glob p') ∈ pls → l < l' → p + k < p' ∨ p' + typeSize m.type ≤ p + k) → memGet u.mem (p + k) = storedByte g c l k)
      ∧ ∀ x, (∀ l p, (l, Place.glob p) ∈ pls → x < p ∨ p + typeSize m.type ≤ x) → memGet u.mem x = memGet s.mem x)
  ∧ (∀ h c m s g pls, AtLane s g h false (vgroup c.toNat (typeRegs m.type) ++ memRegs m) →
      (s.taskOf g = none ∨ m.ord = 0 ∧ s.storeRoom g [] = some s) → (∀ w ∈ s.wgs, memWf w.spad = true) → Placed s g h m (checkSpad s g (typeSize m.type)) pls →
    ∃ u g', exec (.sts h c m) s = .next u ∧ u.mem = s.mem ∧ u.group? g.slot = some g' ∧ Moved h (g.issued s.fclk h (memWord false false m.ord) 0 true []) g'
      ∧ (∀ l lw off k, (l, Place.spad lw off) ∈ pls → s.wg? g.gid lw ≠ none → k < typeSize m.type →
        (∀ l' off', (l', Place.spad lw off') ∈ pls → l < l' → off + k < off' ∨ off' + typeSize m.type ≤ off + k) →
        memGet (u.spadOf g.gid lw) (off + k) = storedByte g c l k)
      ∧ ∀ lw x, (∀ l off, (l, Place.spad lw off) ∈ pls → x < off ∨ off + typeSize m.type ≤ x) →
        memGet (u.spadOf g.gid lw) x = memGet (s.spadOf g.gid lw) x)
  ∧ (∀ s g (x : Late), let n := typeSize x.word.op.type
      s.group? g.slot = some g → g.late.find? (fun y => y.id == x.id) = some x → x.load = false → x.word.atom = false → x.word.done = 0 → s.taskOf g = none → s.memOk →
      x.word.accs.Pairwise (fun a b => a.lane < b.lane) → (∀ a ∈ x.word.accs, a.data.length = typeRegs x.word.op.type ∧ ∃ p, a.place = .glob p) → Storable s n (x.word.accs.map LaneAcc.placed) →
    ∃ u g', performTurn g.slot x.id s = .next u ∧ u.memOk ∧ u.wgs = s.wgs ∧ u.stoker = s.stoker ∧ u.group? g.slot = some g' ∧ g'.late = g.late.filter (fun y => y.id != x.id) ∧ g'.runq = g.runq ∧ g'.ctrs = g.ctrs
      ∧ g'.regs = g.regs ∧ (∀ f ∈ g.flights, f.id = x.id → { f with ready := true } ∈ g'.flights)
      ∧ (∀ a ∈ x.word.accs, ∀ p k, a.place = .glob p → k < n → (∀ b ∈ x.word.accs, ∀ q, b.place = .glob q → a.lane < b.lane → p + k < q ∨ q + n ≤ p + k) →
        memGet u.mem (p + k) = (bytesOf x.word.op.type a.data).getD k 0)
      ∧ ∀ y, (∀ a ∈ x.word.accs, ∀ p, a.place = .glob p → y < p ∨ p + n ≤ y) → memGet u.mem y = memGet s.mem y)
  ∧ (∀ h c m s g l p q, AtLane s g h false (vgroup c.toNat (typeRegs m.type) ++ memRegs m) → s.taskOf g = none → s.svc.dbbase ≠ 0 → isHost p = false →
      Placed s g h m (checkGlob s g needWrite (typeSize m.type)) [(l, .glob p)] → p = s.svc.dbbase + 8 * q →
      (m.type.toNat = 5 ∧ q < 65536 ∨ m.type.toNat = 6 ∧ q + 1 < 65536) →
    ∃ u, exec (.st h c m) s = .next u ∧ u.mem = s.mem ∧ u.stoker.bells = s.stoker.bells ++ (q, BitVec.ofNat 64 (leNat ((List.range 8).map (storedByte g c l))), 0xFFFF) ::
      if m.type.toNat = 5 then [] else [(q + 1, BitVec.ofNat 64 (leNat ((List.range 8).map fun k => storedByte g c l (8 + k))), 0xFFFF)])

/-- ATOM and ATOMS (13 R289, R290, 17 R356, 19 R378): in ascending lane order each active lane's operation takes the newest value in memory or in a scratchpad of the gang and stores its own; every other byte
reads as before, and vd takes in each lane the value that it found, or 0 in a deterministic grid. The forms whose outcome depends on order raise ILLEGAL there, and every form inside an ordered task (19 R382). -/
def Obligations.Atomics : Prop :=
  (∀ h d c m s g pls, AtLane s g h false (vgroup d.toNat (atomOutRegs m.type) ++ memRegs m ++ vgroup c.toNat (atomDataRegs m.type)) →
      s.taskOf g = none → (s.det g = true → m.type ≠ 2 ∧ m.type.toNat < 10) → Placed s g h m (checkGlob s g needAtomic (atomSize m.type)) pls → Readable s (atomSize m.type) pls →
      Storable s (atomSize m.type) pls → (∀ x ∈ pls, ∀ p, x.2 = .glob p → ∀ k, k < atomSize m.type → errOf s (p + k) 1 = 0) →
    let data (l : Nat) : List W32 := (List.range (atomDataRegs m.type)).map fun i => (g.stored (c.toNat + i)).getD l 0
    let at_ : List (Nat × Nat) := pls.filterMap fun x => match x.2 with
      | .glob p => some (x.1, p)
      | .spad _ _ => none
    ∃ u g' v, exec (.atom h d c m) s = .next u ∧ u.mem = (atomSeq m.type data s.mem at_).1 ∧ u.wgs = s.wgs ∧ u.group? g.slot = some g'
      ∧ Moved h (g.issued s.fclk h (memWord true false m.ord) 0 true (loads d (atomOutRegs m.type) (onLanes s g h false) v)) g'
      ∧ ∀ l old, (l, old) ∈ (atomSeq m.type data s.mem at_).2 → ∀ i, i < atomOutRegs m.type → (v i).getD l 0 = if s.det g then 0 else BitVec.ofNat 32 (old / 2 ^ (32 * i)))
  ∧ (∀ h d c m s g pls, AtLane s g h false (vgroup d.toNat (atomOutRegs m.type) ++ memRegs m ++ vgroup c.toNat (atomDataRegs m.type)) →
      s.taskOf g = none → (s.det g = true → m.type ≠ 2 ∧ m.type.toNat < 10) → Placed s g h m (checkSpad s g (atomSize m.type)) pls →
      (∀ x ∈ pls, ∀ lw off, x.2 = .spad lw off → s.wg? g.gid lw ≠ none) →
    let data (l : Nat) : List W32 := (List.range (atomDataRegs m.type)).map fun i => (g.stored (c.toNat + i)).getD l 0
    let at_ (lw : Nat) : List (Nat × Nat) := pls.filterMap fun x => match x.2 with
      | .glob _ => none
      | .spad w off => if w = lw then some (x.1, off) else none
    ∃ u g' v, exec (.atoms h d c m) s = .next u ∧ u.mem = s.mem ∧ u.group? g.slot = some g'
      ∧ Moved h (g.issued s.fclk h (memWord true false m.ord) 0 true (loads d (atomOutRegs m.type) (onLanes s g h false) v)) g'
      ∧ (∀ lw, s.wg? g.gid lw ≠ none → u.spadOf g.gid lw = (atomSeq m.type data (s.spadOf g.gid lw) (at_ lw)).1)
      ∧ ∀ lw l old, (l, old) ∈ (atomSeq m.type data (s.spadOf g.gid lw) (at_ lw)).2 → ∀ i, i < atomOutRegs m.type → (v i).getD l 0 = if s.det g then 0 else BitVec.ofNat 32 (old / 2 ^ (32 * i)))
  ∧ (∀ type data m pls, memWf m = true → memWf (atomSeq type data m pls).1 = true
      ∧ ∀ x, (∀ l p, (l, p) ∈ pls → x < p ∨ p + atomSize type ≤ x) → memGet (atomSeq type data m pls).1 x = memGet m x)
  ∧ (∀ h d c m s g, s.group? s.cur = some g → g.still → (s.taskOf g ≠ none ∨ s.det g = true ∧ (m.type.toNat = 2 ∨ 10 ≤ m.type.toNat)) →
    (∃ u g', exec (.atom h d c m) s = .next u ∧ u.group? g.slot = some g' ∧ g'.cause.toNat % 256 = 1 ∧ g'.epc = g.spc ∧ g'.elpc = g.lpc ∧ g'.regs = g.regs ∧ u.mem = s.mem)
    ∧ ∃ u g', exec (.atoms h d c m) s = .next u ∧ u.group? g.slot = some g' ∧ g'.cause.toNat % 256 = 1 ∧ g'.epc = g.spc ∧ g'.elpc = g.lpc ∧ g'.regs = g.regs ∧ u.mem = s.mem)
  ∧ (∀ (old : Nat) (ws : List W32), let o : W32 := BitVec.ofNat 32 old
      let x : W32 := ws.getD 0 0
      let pair (i : Nat) : Nat := (ws.getD i 0).toNat + 2 ^ 32 * (ws.getD (i + 1) 0).toNat
      atomNew 0 old ws = (o + x).toNat ∧ atomNew 1 old ws = (old + pair 0) % 2 ^ 64 ∧ atomNew 2 old ws = fAdd fp32 .rne old x.toNat
      ∧ atomNew 3 old ws = (if x.toInt < o.toInt then x else o).toNat ∧ atomNew 4 old ws = (if x.toNat < o.toNat then x else o).toNat
      ∧ atomNew 5 old ws = (if o.toInt < x.toInt then x else o).toNat ∧ atomNew 6 old ws = (if o.toNat < x.toNat then x else o).toNat
      ∧ atomNew 7 old ws = (o &&& x).toNat ∧ atomNew 8 old ws = (o ||| x).toNat ∧ atomNew 9 old ws = (o ^^^ x).toNat
      ∧ atomNew 10 old ws = x.toNat ∧ atomNew 11 old ws = pair 0 ∧ atomNew 12 old ws = (if o = x then (ws.getD 1 0).toNat else old)
      ∧ atomNew 13 old ws = if old = pair 0 then pair 2 else old)

/-- FENCE, PREF and LDK (13 R287, R292, R293, 12 R259, 17 R357-R359): outside a task a fence makes no access; one that releases gives each lane a message of what it knows and of all that the lanes have written, which every later store of the lanes
hands on, and, once a WAITC has proved it complete, those of the scalar stream too; one that acquires makes known to each lane the messages in scope of what it has read, and of what the scalar stream had read at the LRUN. A prefetch changes nothing but the issue; a memory word behind an acquire that is not complete does not issue, nor a store that releases behind an
MMQ that has still to read its B tile (15 R334). A fence inside an ordered task, and LDK outside a slice, raise ILLEGAL. -/
def Obligations.FencesAndPrefetches : Prop :=
  (∀ h o sc s g, AtLane s g h true [] → s.taskOf g = none →
    ∃ u g', exec (.fence h o sc) s = .next u ∧ Knows (drawn s g') u
      ∧ g' = { g.issued s.fclk h (memWord false true o) 0 true [] with relv := g'.relv, obsv := g'.obsv, slack := g'.slack }
      ∧ (o.toNat < 2 → g'.relv = g.relv)
      ∧ (2 ≤ o.toNat → o.toNat ≤ 4 → ∃ f, g'.relv = f :: g.relv.filter (fun x => x.scope != sc.toNat) ∧ f.scope = sc.toNat ∧ (∃ n, (s.lanesAgent g, n) ∈ f.view.upto ∧ s.order.stamp ≤ n)
        ∧ ∀ l, l < 32 → Covered (s.order.view (s.laneAgent g l)) (s.fenceMsg g' l f).view)
      ∧ (2 ≤ o.toNat → o.toNat ≤ 4 → h.setc.toNat < 12 → ∃ y ∈ g'.slack, y.ctr = h.setc ∧ ∃ m ∈ y.rels, m.scope = sc.toNat ∧ m.src = s.scalarThread g
        ∧ ∃ n, (s.lanesAgent g, n) ∈ m.view.upto ∧ s.order.stamp ≤ n)
      ∧ (o.toNat = 1 ∨ o.toNat = 3 ∨ o.toNat = 4 → ∀ l, l < 32 →
        (∀ x ∈ g.acqv, x.1 = l ∨ x.1 = 32 → takesMsg (s.laneThread g l) sc.toNat x.2.1 x.2.2 = true → Covered x.2.2.view (u.order.view (s.laneAgent g l)))
        ∧ ∀ r rs, g.runq = r :: rs → ∀ x ∈ r.heard, takesMsg (s.laneThread g l) sc.toNat x.1 x.2 = true → Covered x.2.view (u.order.view (s.laneAgent g l))))
  ∧ (∀ h o sc s g, s.group? s.cur = some g → g.still → s.taskOf g ≠ none →
    ∃ u g', exec (.fence h o sc) s = .next u ∧ u.mem = s.mem ∧ u.group? g.slot = some g' ∧ g'.cause.toNat % 256 = 1 ∧ g'.epc = g.spc ∧ g'.elpc = g.lpc ∧ g'.regs = g.regs)
  ∧ (∀ h o sc d m s (g : Group) (f : Flight) k, s.group? s.cur = some g → s.taskOf g = none → f ∈ g.flights → f.cls = .memory k → k.acq = true →
      exec (.fence h o sc) s = .next s ∧ exec (.ld h d m) s = .next s ∧ exec (.lds h d m) s = .next s ∧ exec (.st h d m) s = .next s ∧ exec (.sts h d m) s = .next s
      ∧ exec (.ldt h d m) s = .next s ∧ exec (.pref h m) s = .next s
      ∧ (s.det g = false → ∀ c, exec (.atom h d c m) s = .next s ∧ exec (.atoms h d c m) s = .next s))
  ∧ (∀ h c m s (g : Group) (f : Flight), s.group? s.cur = some g → s.taskOf g = none → f ∈ g.flights → f.cls = .mmq → 2 ≤ m.ord.toNat → m.ord.toNat ≤ 4 →
      exec (.st h c m) s = .next s ∧ exec (.sts h c m) s = .next s)
  ∧ (∀ h m, Issues (.pref h m) h false (memWord false false 0) 0 (memRegs m) fun _ _ _ => [])
  ∧ (∀ h d m s g, s.group? s.cur = some g → g.still →
    ∃ u g', exec (.ldk h d m) s = .next u ∧ u.mem = s.mem ∧ u.group? g.slot = some g' ∧ g'.cause.toNat % 256 = 1 ∧ g'.cause.getLsbD 24 = true
      ∧ g'.epc = g.spc ∧ g'.elpc = g.lpc ∧ g'.faddr = 0 ∧ g'.regs = g.regs ∧ g'.sregs = g.sregs ∧ g'.masks = g.masks)

-- ### Embers

/-- KDEF, DOUSE, EMBER_DEMOTION and REKINDLE (12 R255-R258, R260-R266): KDEF runs its slice in the active lanes, vd takes v3, and the recipe record is kept; a slice whose word faults traps with the
word's cause, and FSPC names vd and the word; one that breaks R253 or R254 raises ILLEGAL at once; DOUSE drops the recipe and keeps the register. A VALUE register with a full recipe that no recipe holds may lose its value
and keeps its recipe, but not while the word before its DOUSE has read it and the DOUSE is the next lane word of the run, which is the model's reading of 23 R441 (notes/assumptions/62). A word that writes a register
drops its recipe and every recipe that holds it, after it has rekindled the registers that depend on it (R252, R264); a write of all lanes needs no rekindling of the register itself. Rekindling happens only for the next lane word of the group, when that is not ILLEGAL, is eligible and needs the register, and gives the register the value of its recipe; a fault of the
slice is that word's REGEN. The block of an MMQ that names the register is in a task's signature by then (19 R385). -/
def Obligations.EmberRecipes : Prop :=
  ((∀ h d a b c len slice s g ws ls r, AtLane s g h false (vname d.toNat :: (kdefInputs a b c).map fun k => vname k.toNat) →
      kdefSlice s g d a b c len slice = some (ws, ls) →
      runSlice s g { on := onLanes s g h false, scalar := slotValue ls (packSlots ls (rd s g)), task := s.taskOf g, salt := 0, strict := false } d slice.toNat ws
        ([a, b, c].map fun x => (x.map fun k => g.stored k.toNat).getD (Vector.replicate 32 0)) = .ok r → r.bad = [] →
    ∃ u g', exec (.kdef h d a b c len slice) s = .next u ∧ u.mem = s.mem ∧ u.group? g.slot = some g' ∧ (s.taskOf g = none → Knows (drawn s g') u) ∧ Moved h
      ({ g with recipes := [kdefRecipe g d a b c len slice (onLanes s g h false) ls (packSlots ls (rd s g))] }.issued s.fclk h .kdef 0 true
        [.reg d.toNat (onLanes s g h false) (r.reg 3)]) g')
  ∧ (∀ h d a b c len slice s g ws ls f r, AtLane s g h false (vname d.toNat :: (kdefInputs a b c).map fun k => vname k.toNat) → g.still →
      kdefSlice s g d a b c len slice = some (ws, ls) →
      runSlice s g { on := onLanes s g h false, scalar := slotValue ls (packSlots ls (rd s g)), task := s.taskOf g, salt := 0, strict := false } d slice.toNat ws
        ([a, b, c].map fun x => (x.map fun k => g.stored k.toNat).getD (Vector.replicate 32 0)) = .error (f, r) →
    ∃ u g', exec (.kdef h d a b c len slice) s = .next u ∧ u.mem = s.mem ∧ u.group? g.slot = some g' ∧ g'.cause.toNat % 256 = f.code % 256 ∧ g'.faddr = BitVec.ofNat 64 f.addr
      ∧ g'.fspc = BitVec.ofNat 64 f.fspc ∧ (∃ i, i < ws.length ∧ f.fspc = d.toNat * 2 ^ 32 + (slice.toNat + i) % 2 ^ 19) ∧ g'.epc = g.spc ∧ g'.elpc = g.lpc ∧ g'.regs = g.regs ∧ g'.recipes = [])
  ∧ (∀ h d a b c len slice s g, s.group? s.cur = some g → g.still → kdefSlice s g d a b c len slice = none →
    ∃ u g', exec (.kdef h d a b c len slice) s = .next u ∧ u.group? g.slot = some g' ∧ g'.cause.toNat % 256 = 1 ∧ g'.epc = g.spc ∧ g'.elpc = g.lpc ∧ g'.regs = g.regs ∧ g'.recipes = g.recipes)
  ∧ (∀ h d (s : State) (g : Group), s.group? s.cur = some g → Eligible s g h → g.flights = [] → g.deferred = [] → g.mid = none → (∀ r ∈ g.regs, r.st ≠ .ember) → onLanes s g h false ≠ 0 →
      d.toNat < g.bound →
    exec (.douse h d) s = .next (drawn s ({ g with recipes := g.recipes.filter fun r => r.dst != d }.issued s.fclk h .inOrder 0 true [])))
  ∧ (∀ h d i (s : State) (g : Group), s.group? s.cur = some g → Eligible s g h → g.flights = [] → g.deferred = [] → g.mid = none → (∀ r ∈ g.regs, r.st ≠ .ember) → onLanes s g h false ≠ 0 →
      d.toNat < g.bound →
    exec (.vmovi h d i) s = .next (drawn s ({ g with recipes := g.recipes.filter fun r => r.dst != d && !r.inputs.contains d }.issued s.fclk h .inOrder 4 true
      [.reg d.toNat (onLanes s g h false) (Vector.replicate 32 i)])))
  ∧ (∀ h d i (s : State) (g : Group), s.group? s.cur = some g → Eligible s g h → g.flights = [] → g.deferred = [] → g.mid = none → g.isEmber d.toNat = true → (∀ x ∈ g.recipes, d ∉ x.inputs) →
      onLanes s g h false = 0xFFFFFFFF → d.toNat < g.bound →
    ∃ u g', exec (.vmovi h d i) s = .next u ∧ u.mem = s.mem ∧ u.group? g.slot = some g' ∧ g'.recipes = g.recipes.filter (fun r => r.dst != d)
      ∧ ((g'.regs[d.toNat]?).map Reg.st) = some .value ∧ (∀ j, j ≠ d.toNat → g'.regs[j]? = g.regs[j]?) ∧ ∀ f ∈ g'.flights, f.effs = [.reg d.toNat 0xFFFFFFFF (Vector.replicate 32 i)])
  ∧ (∀ h d i e (s : State) (g : Group) rc r, s.group? s.cur = some g → Eligible s g h → g.flights = [] → g.deferred = [] → g.mid = none → onLanes s g h false ≠ 0 → d.toNat < g.bound → e < g.bound → e ≠ d.toNat →
      (∀ k, g.isEmber k = true ↔ k = e) → g.recipe? e = some rc → d ∈ rc.inputs → kindle s g rc = .ok r →
    ∃ u g' x, exec (.vmovi h d i) s = .next u ∧ u.mem = s.mem ∧ u.group? g.slot = some g' ∧ g'.recipes = g.recipes.filter (fun r => r.dst != d && !r.inputs.contains d)
      ∧ g'.regs[e]? = some x ∧ x.st = .value ∧ x.val = r.reg 3 ∧ ∀ j, j ≠ e → g'.regs[j]? = g.regs[j]?))
  ∧ ((∀ slot d s g r rc, s.group? slot = some g → g.flights = [] → g.regs[d.toNat]? = some r → r.st = .value → g.recipe? d.toNat = some rc → rc.full = true →
      (∀ x ∈ g.recipes, d ∉ x.inputs) → g.mid = none → s.dousesRead g d = false →
    ∃ u g' r', exec (.emberDemotion slot d) s = .next u ∧ u.mem = s.mem ∧ u.group? slot = some g' ∧ g'.regs[d.toNat]? = some r' ∧ r'.st = .ember
      ∧ g'.recipes = g.recipes ∧ ∀ j, j ≠ d.toNat → g'.regs[j]? = g.regs[j]?)
  ∧ (∀ slot d s g, s.group? slot = some g → (g.recipe? d.toNat = none ∨ (∃ x ∈ g.recipes, d ∈ x.inputs) ∨ s.dousesRead g d = true) → exec (.emberDemotion slot d) s = .next s)
  ∧ (∀ s (g : Group) d, s.dousesRead g d = true ↔ ∃ r rs x xs v h i p, g.runq = r :: rs ∧ r.buf = some x :: xs ∧ r.prev = some v ∧ decodeLane x = some (.douse h d)
      ∧ decodeLane v = some i ∧ lanePorts s g i = some p ∧ vname d.toNat ∈ p.reads)
  ∧ (∀ slot (d : BitVec 8) s g r x rc, s.group? slot = some g → s.nextRekindle g = some d.toNat → g.regs[d.toNat]? = some x → x.st = .ember → g.recipe? d.toNat = some rc → kindle (s.noteNext g) g rc = .ok r →
    ∃ u g', exec (.rekindle slot d) s = .next u ∧ u.mem = s.mem ∧ u.group? slot = some g'
      ∧ g'.regs[d.toNat]? = some { st := .value, val := Vector.ofFn fun l => (r.reg 3)[l] } ∧ g'.recipes = g.recipes
      ∧ (∀ j, j ≠ d.toNat → g'.regs[j]? = g.regs[j]?) ∧ g'.runq = g.runq ∧ g'.sregs = g.sregs)
  ∧ (∀ slot (d : BitVec 8) s g x rc f r, s.group? slot = some g → g.still → s.nextRekindle g = some d.toNat → g.regs[d.toNat]? = some x → x.st = .ember → g.recipe? d.toNat = some rc →
      kindle (s.noteNext g) g rc = .error (f, r) →
    ∃ u g', exec (.rekindle slot d) s = .next u ∧ u.mem = s.mem ∧ u.group? slot = some g' ∧ g'.cause.toNat % 256 = 7 ∧ g'.cause.toNat / 256 % 256 = f.code % 256
      ∧ g'.faddr = BitVec.ofNat 64 f.addr ∧ g'.fspc = BitVec.ofNat 64 f.fspc ∧ g'.regs = g.regs ∧ g'.recipes = g.recipes)
  ∧ (∀ slot (d : BitVec 8) s g, s.group? slot = some g → s.nextRekindle g ≠ some d.toNat → exec (.rekindle slot d) s = .next s)
  ∧ (∀ s g k, s.nextRekindle g = some k → g.isEmber k = true ∧ ∃ i p, s.nextLane g = some i ∧ illegalNow s g i = false ∧ lanePorts s g i = some p ∧ s.laneReady g p.h = true))

/-- The record that KDEF keeps gives, when it is rekindled over the same inputs and memory, the value that KDEF wrote in all lanes (12 R256, R258, R262). -/
def Obligations.RecipeReproducesValue : Prop :=
  ∀ s g d a b c len slice ws ls r, kdefSlice s g d a b c len slice = some (ws, ls) →
    runSlice s g { on := 0xFFFFFFFF, scalar := slotValue ls (packSlots ls (rd s g)), task := s.taskOf g, salt := 0, strict := false } d slice.toNat ws
      ([a, b, c].map fun x => (x.map fun k => g.stored k.toNat).getD (Vector.replicate 32 0)) = .ok r → r.bad = [] →
    kindle s g (kdefRecipe g d a b c len slice 0xFFFFFFFF ls (packSlots ls (rd s g))) = .ok r

-- ### Matrix words, the dual word

/-- MMQ, MDRAIN, MZERO and MWAIT join the group's matrix queue while it has room (15 R319, R327, R328, R337, R343-R345); an MMQ that passes its checks carries its lanes,
its block and the registers of A as they stand, and the stores of its lanes that no wait has covered; with REUSE = 1 it fills the A latch. While the latch is HELD it carries the latch's A, format and codebook,
does not check field a, and leaves the latch HELD with REUSE = 1 and EMPTY with REUSE = 0 (R333). It waits while its reservation is not granted. An MMQ under TRAP (R339) joins no queue: once the queue is empty its pass runs before it
issues, and it issues with the latch that it leaves, or raises CARRY_FULL with the address of its B tile. -/
def Obligations.MatrixWordsQueue : Prop :=
  (∀ h reuse d a sb sc (s : State) (g : Group) b bp blw boff rs, AtLane s g h false (vgroup a.toNat (fmtNA b.afmt)) → g.mq.length < 8 → g.trial = none → g.latch = none →
      g.inAllot (vname a.toNat) = true → readBlock s g (rd s g sc).toNat = .ok (b, bp) → bp.err = 0 →
      (∀ i, i < 32 → g.inAllot (aname (d.toNat + i)) = true) → ((b.aklen ≠ 0 ∨ b.bklen ≠ 0) → g.inAllot (aname (d.toNat + 33)) = true) →
      checkB s g (fmtBytes b.bfmt) (rd s g sb).toNat = .ok (blw, boff) → readRanges s g [b.ascale, b.bscale, b.atab, b.btab] = .ok rs → (∀ x ∈ rs, x.err = 0) →
      (match (predictTiles g).find? (fun t => t.d == d) with
        | some t => t.keeps b.afmt b
        | none => tileFits (predictTiles g) d (b.aklen != 0 || b.bklen != 0)) = true →
    let resv := if fmtFloat b.afmt || (((predictTiles g).find? fun t => t.d == d).map Tile.kw).getD 0 != 0 then 0 else 2 ^ (b.depth + 5)
    (s.admits g resv = false → ∃ u, exec (.mmq h reuse d a sb sc) s = .next u ∧ u.mem = s.mem ∧ u.group? g.slot = some { g with passed := max g.passed 1 })
    ∧ (s.admits g resv = true → b.full = false →
      ∃ u g', ∃ (q : Mmq) (l : Option Latch), exec (.mmq h reuse d a sb sc) s = .next u ∧ u.mem = s.mem ∧ u.group? g.slot = some g'
        ∧ Moved h ({ g with mq := g.mq ++ [(g.nextId, MWord.mmq q)], latch := l }.issued s.fclk h .mmq 0 false []) g'
        ∧ q.d = d ∧ q.act = onLanes s g h false ∧ q.blk = b ∧ q.blw = blw ∧ q.boff = boff ∧ q.eb = rd s g sb ∧ q.resv = resv
        ∧ (∃ n, (s.lanesAgent g, n) ∈ q.view.upto ∧ s.order.stamp ≤ n)
        ∧ (∀ n, n ∈ q.holes ↔ ∃ y ∈ g.slack, y.waited = false ∧ (¬∃ k : Fin 12, y.ctr.toNat = k.val ∧ h.wait.getLsbD k.val = true) ∧ n ∈ y.stores)
        ∧ q.afmt = b.afmt ∧ q.a = (List.range (fmtNA b.afmt)).map (fun i => g.stored (a.toNat + i))
        ∧ l = (if reuse then some { afmt := b.afmt, regs := q.a, cb := q.acb } else none))
    ∧ (s.admits g resv = true → b.full = true →
      ∃ u g', ∃ (t : Option Trial), exec (.mmq h reuse d a sb sc) s = .next u ∧ u.mem = s.mem ∧ u.group? g.slot = some g'
        ∧ g' = { g with passed := 0, trial := t, acqv := g'.acqv, obsv := g'.obsv, slack := g'.slack }
        ∧ t.map (fun t => (t.m.d, t.m.act, t.m.blk, t.res)) = if g.mq = [] then some (d, onLanes s g h false, b, none) else none))
  ∧ (∀ h reuse d a sb sc (s : State) (g : Group) lt b bp blw boff rs, AtLane s g h false [] → g.mq.length < 8 → g.trial = none → g.latch = some lt →
      readBlock s g (rd s g sc).toNat = .ok (b, bp) → bp.err = 0 →
      (∀ i, i < 32 → g.inAllot (aname (d.toNat + i)) = true) → ((b.aklen ≠ 0 ∨ b.bklen ≠ 0) → g.inAllot (aname (d.toNat + 33)) = true) →
      checkB s g (fmtBytes b.bfmt) (rd s g sb).toNat = .ok (blw, boff) → readRanges s g [b.ascale, b.bscale, 0, b.btab] = .ok rs → (∀ x ∈ rs, x.err = 0) →
      (match (predictTiles g).find? (fun t => t.d == d) with
        | some t => t.keeps lt.afmt b
        | none => tileFits (predictTiles g) d (b.aklen != 0 || b.bklen != 0)) = true → b.full = false →
      s.admits g (if fmtFloat lt.afmt || (((predictTiles g).find? fun t => t.d == d).map Tile.kw).getD 0 != 0 then 0 else 2 ^ (b.depth + 5)) = true →
    ∃ u g', ∃ q : Mmq, exec (.mmq h reuse d a sb sc) s = .next u ∧ u.mem = s.mem ∧ u.group? g.slot = some g'
      ∧ Moved h ({ g with mq := g.mq ++ [(g.nextId, MWord.mmq q)], latch := if reuse then some lt else none }.issued s.fclk h .mmq 0 false []) g'
      ∧ q.d = d ∧ q.act = onLanes s g h false ∧ q.blk = b ∧ q.blw = blw ∧ q.boff = boff ∧ q.afmt = lt.afmt ∧ q.a = lt.regs ∧ q.acb = lt.cb)
  ∧ (∀ h reuse d a sb sc (s : State) (g : Group) t, s.group? s.cur = some g → g.trial = some t →
      (t.res = none → exec (.mmq h reuse d a sb sc) s = .next s)
      ∧ (t.res = some true → g.flights = [] → t.down = none →
        exec (.mmq h reuse d a sb sc) s = .next (drawn s ({ g with latch := t.latch, trial := none }.issued s.fclk h .other 0 true [])))
      ∧ (t.res = some false → g.mq = [] → g.flights = [] → g.spend = none → ∃ u g', exec (.mmq h reuse d a sb sc) s = .next u ∧ u.mem = s.mem ∧ u.group? g.slot = some g'
        ∧ g'.cause.toNat % 256 = 6 ∧ g'.faddr = t.m.eb ∧ g'.trial = none ∧ g'.epc = g.spc ∧ g'.elpc = g.lpc ∧ g'.regs = g.regs))
  ∧ (∀ h d sk (s : State) (g : Group), AtLane s g h true (tileRegs d) → g.mq.length < 8 →
    exec (.mdrain h d sk) s = .next (drawn s ({ g with mq := g.mq ++ [(g.nextId, MWord.mdrain d sk)] }.issued s.fclk h .other 0 false [])))
  ∧ (∀ h d (s : State) (g : Group), AtLane s g h true (tileRegs d) → g.mq.length < 8 →
    exec (.mzero h d) s = .next (drawn s ({ g with mq := g.mq ++ [(g.nextId, MWord.mzero d)] }.issued s.fclk h .other 0 false [])))
  ∧ (∀ h (s : State) (g : Group), AtLane s g h true [] → g.mq.length < 8 →
    exec (.mwait h) s = .next (drawn s ({ g with mq := g.mq ++ [(g.nextId, MWord.mwait)] }.issued s.fclk h .other 0 false [])))
  ∧ (∀ h (s : State) (g : Group), s.group? s.cur = some g → g.trial = none → 8 ≤ g.mq.length → exec (.mwait h) s = .next s
      ∧ (∀ d, exec (.mzero h d) s = .next s) ∧ (∀ d sk, exec (.mdrain h d sk) s = .next s) ∧ ∀ reuse d a sb sc, exec (.mmq h reuse d a sb sc) s = .next s)

/-- MATRIX_PASS (15 R326, R329-R332, R334, R337, R338, R340, R343-R345): the pointer moves to the first queue after it with a word, and its head is performed: MWAIT ends, MZERO zeroes the
tile and drops its record, MDRAIN of no open window gives the carries, one of an open window adds what the window holds to the tile (a float one replaces it) and drops its entries; a float MMQ, on a
record that its pass makes or finds, open or not, leaves in each cell of an active row P and the exact sum of its 32 products rounded once, adds 32 to KW, and drains the window in the same pass when KW reaches the interval, with the scales of its operands in a(d + 32) and
a(d + 33) (R331, R332). An integer MMQ loses nothing, whether sums stay, are carried into cinder entries, are drained early for want of room, or are drained at the end of the interval: what
each cell of an active row stands for rises by the exact sum of its products. -/
def Obligations.MatrixPasses : Prop :=
  (∀ c (s : State) (g : Group) gs, s.queuesFrom c (s.clusterAt c).ptr = g :: gs → c < s.units.clusters.length → ∃ u, exec (.matrixPass c) s = .next u ∧ (u.clusterAt c).ptr = g.slot % 192)
  ∧ (∀ c (s : State) (g : Group) gs id rest, s.queuesFrom c (s.clusterAt c).ptr = g :: gs → s.group? g.slot = some g → g.mq = (id, .mwait) :: rest →
    ∃ u g', exec (.matrixPass c) s = .next u ∧ u.mem = s.mem ∧ u.group? g.slot = some g' ∧ g'.mq = rest ∧ g'.regs = g.regs ∧ g'.tiles = g.tiles
      ∧ (∀ f ∈ g'.flights, f.id = id → f.ready = true))
  ∧ (∀ c (s : State) (g : Group) gs id d rest, s.queuesFrom c (s.clusterAt c).ptr = g :: gs → s.group? g.slot = some g → g.mq = (id, .mzero d) :: rest →
      (∀ n, n < 32 → g.inAllot (aname (d.toNat + n)) = true) →
    ∃ u g', exec (.matrixPass c) s = .next u ∧ u.mem = s.mem ∧ u.group? g.slot = some g' ∧ g'.mq = rest ∧ (∀ t ∈ g'.tiles, t.d ≠ d)
      ∧ ∀ n, n < 32 → ∃ r, g'.regs[g.bound + d.toNat + n]? = some r ∧ r.st = .value ∧ r.val = Vector.replicate 32 0)
  ∧ (∀ c (s : State) (g : Group) gs id d sk rest, s.queuesFrom c (s.clusterAt c).ptr = g :: gs → s.group? g.slot = some g → g.mq = (id, .mdrain d sk) :: rest →
      (∀ t, g.tile? d = some t → t.kw = 0) →
    ∃ u g', exec (.matrixPass c) s = .next u ∧ u.mem = s.mem ∧ u.group? g.slot = some g' ∧ g'.mq = rest ∧ g'.regs = g.regs ∧ (∀ t ∈ g'.tiles, t.d ≠ d)
      ∧ ∀ f ∈ g.flights, f.id = id → { f with ready := true, effs := f.effs ++ [.sreg sk (BitVec.ofNat 64 (((g.tile? d).map Tile.ccount).getD 0))] } ∈ g'.flights)
  ∧ (∀ c (s : State) (g : Group) gs id d sk rest t, s.queuesFrom c (s.clusterAt c).ptr = g :: gs → s.group? g.slot = some g → g.slot / 192 = c → c < s.units.clusters.length →
      g.mq = (id, .mdrain d sk) :: rest → g.tile? d = some t → t.kw ≠ 0 → g.pending = [] → g.races = [] → (∀ n, n < 34 → g.inAllot (aname (d.toNat + n)) = true) →
    ∃ u g', exec (.matrixPass c) s = .next u ∧ u.mem = s.mem ∧ u.group? g.slot = some g' ∧ g'.mq = rest ∧ (∀ t ∈ g'.tiles, t.d ≠ d)
      ∧ (∀ f ∈ g.flights, f.id = id → { f with ready := true, effs := f.effs ++ [.sreg sk (BitVec.ofNat 64 t.ccount)] } ∈ g'.flights)
      ∧ (∀ l n, cinderCount (u.clusterAt c).cinder g.slot d l n = 0)
      ∧ (fmtFloat t.afmt = true → DrainedFloat g g' d t.rows (fun l n => (t.cells.getD n (Vector.replicate 32 0)).getD l 0) (t.aklen != 0 || t.bklen != 0) (t.asc, t.bsc))
      ∧ (fmtFloat t.afmt = false → Tidy s g d → ∀ (n : Fin 32) (l : Fin 32), (g'.stored (g.bound + d.toNat + n.val))[l] = tileSum s g d l.val n.val))
  ∧ (∀ c (s : State) (g : Group) id m rest, s.queuesFrom c (s.clusterAt c).ptr = [g] → s.group? g.slot = some g → c < s.units.clusters.length → g.slot / 192 = c →
      g.mq = (id, .mmq m) :: rest → fmtFloat m.afmt = true → (∀ t, g.tile? m.d = some t → fmtFloat t.afmt = true) → recKw g m + 32 ≠ recInterval g m →
    ∃ u g' t bs, exec (.matrixPass c) s = .next u ∧ u.mem = s.mem ∧ u.group? g.slot = some g' ∧ g'.mq = rest ∧ g'.regs = g.regs ∧ g'.tile? m.d = some t
      ∧ t.kw = recKw g m + 32 ∧ t.rows = recRows g m ||| m.act ∧ (t.asc, t.bsc) = recScales g m ∧ (t.aklen, t.bklen) = recKlens g m ∧ Reads s none (tileReader s g m) (tileLocs g m) bs
      ∧ ∀ (n : Fin 32) (l : Fin 32), (m.act[l] = true → FloatCell m bs l.val n.val (recCell g m l.val n.val) (t.cells[n])[l])
        ∧ (m.act[l] = false → (t.cells[n])[l] = recCell g m l.val n.val))
  ∧ (∀ c (s : State) (g : Group) id m rest, s.queuesFrom c (s.clusterAt c).ptr = [g] → s.group? g.slot = some g → c < s.units.clusters.length → g.slot / 192 = c →
      g.mq = (id, .mmq m) :: rest → fmtFloat m.afmt = true → (∀ t, g.tile? m.d = some t → fmtFloat t.afmt = true) → recKw g m + 32 = recInterval g m →
      g.pending = [] → g.races = [] → (∀ n, n < 34 → g.inAllot (aname (m.d.toNat + n)) = true) →
    ∃ u g' t bs, ∃ cell : Nat → Nat → W32, exec (.matrixPass c) s = .next u ∧ u.mem = s.mem ∧ u.group? g.slot = some g' ∧ g'.mq = rest ∧ g'.tile? m.d = some t
      ∧ t.kw = 0 ∧ t.rows = 0 ∧ (t.aklen, t.bklen) = recKlens g m ∧ Reads s none (tileReader s g m) (tileLocs g m) bs
      ∧ (∀ (n : Fin 32) (l : Fin 32), (m.act[l] = true → FloatCell m bs l.val n.val (recCell g m l.val n.val) (cell l.val n.val))
        ∧ (m.act[l] = false → cell l.val n.val = recCell g m l.val n.val))
      ∧ DrainedFloat g g' m.d (recRows g m ||| m.act) cell ((recKlens g m).1 != 0 || (recKlens g m).2 != 0) (recScales g m))
  ∧ (∀ c (s : State) (g : Group) id m rest, s.queuesFrom c (s.clusterAt c).ptr = [g] → s.group? g.slot = some g → c < s.units.clusters.length → g.slot / 192 = c →
      g.mq = (id, .mmq m) :: rest → fmtFloat m.afmt = false → (∀ t, g.tile? m.d = some t → fmtFloat t.afmt = false) → m.blk.full = false → g.pending = [] → g.races = [] → Tidy s g m.d →
      (∀ n, n < 32 → g.inAllot (aname (m.d.toNat + n)) = true) →
    ∃ u g' bs, exec (.matrixPass c) s = .next u ∧ u.mem = s.mem ∧ u.group? g.slot = some g' ∧ g'.mq = rest ∧ Reads s none (tileReader s g m) (tileLocs g m) bs
      ∧ ∀ l n, l < 32 → n < 32 → tileSum u g' m.d l n = tileSum s g m.d l n + if m.act.getLsbD l then BitVec.ofInt 32 (productSum m bs l n) else 0)
  ∧ (∀ c (s : State), s.queuesFrom c (s.clusterAt c).ptr = [] → exec (.matrixPass c) s = .next s)

/-- The dual word (06 R120, R121, 10 R225): from every state in which it is eligible it issues; both halves read their operands before either writes, and each half has the effect of its full form with the same F,
an empty one none. -/
def Obligations.DualWord : Prop :=
  ∀ h x y s g, AtLane s g h false (halfWrites x ++ halfWrites y ++ (x.readsX ++ y.readsY).map vname) →
    exec (.dualWord h x y) s = .next (drawn s (g.issued s.fclk h .inOrder 6 true
      ((if x.op = 0 then [] else [.reg x.d.toNat (onLanes s g h false) (Vector.ofFn fun l =>
          halfX x.op.toNat (x.f.setWidth 4) (lanesOf g { acc := false, k := x.a })[l] (opnd s g .int (halfB x))[l])])
        ++ (if y.op = 0 then [] else [.reg y.d.toNat (onLanes s g h false) (Vector.ofFn fun l =>
          halfY y.op.toNat (y.f.setWidth 4) g.tpart.toNat l.val (lanesOf g { acc := false, k := y.a })[l] (opnd s g .int (halfB y))[l])]))))

-- ### Queues

/-- DOORBELL and QFAULT (03 R48, R59, R66): a doorbell within the ring raises WIDX and maps an idle queue; one past the ring or for a bad queue makes it FAULTED; an
uncorrectable error found in an entry or header does so too. The header of a FAULTED queue says so where it can be written, whatever becomes of ERRSIG. -/
def Obligations.DoorbellsAndQueueFaults : Prop :=
  (∀ q v src s h u, let s0 := { s with stoker := { s.stoker with bells := s.stoker.bells.erase (q, v, src) } }
    (q, v, src) ∈ s.stoker.bells → s.serves = true → errOf s (qEntry s q) 16 = 0 → qValid s q = true → qEntryBad s q = false → q ∉ s.stoker.faulted →
    (s.svc.ctx (qCtx s q)).troot ≠ 0 → s.qHeader q = some h → h.bad = false → h.widx < v.toNat → v.toNat ≤ h.ridx + 2 ^ h.slog →
    s0.qWrite q 0x10 8 v.toNat = some u →
    exec (.doorbell q v src) s = .next (if s.stoker.mapped q || s.stoker.parked q || s.stoker.waiting q || s.stoker.hasWoken q then u else u.mapQueue q))
  ∧ (∀ q v src s h, (q, v, src) ∈ s.stoker.bells → s.serves = true → errOf s (qEntry s q) 16 = 0 → qValid s q = true → q ∉ s.stoker.faulted →
      qCtxWord s q < 4096 → (s.svc.ctx (qCtx s q)).troot ≠ 0 → s.qHeader q = some h → v.toNat ≤ h.widx →
    exec (.doorbell q v src) s = .next { s with stoker := { s.stoker with bells := s.stoker.bells.erase (q, v, src) } })
  ∧ (∀ q v src s, (q, v, src) ∉ s.stoker.bells → exec (.doorbell q v src) s = .next s)
  ∧ (∀ q v src s, (q, v, src) ∈ s.stoker.bells → s.serves = false →
      exec (.doorbell q v src) s = .next { s with stoker := { s.stoker with bells := s.stoker.bells.erase (q, v, src) } })
  ∧ (∀ q v src s h, (q, v, src) ∈ s.stoker.bells → s.serves = true → errOf s (qEntry s q) 16 = 0 → qValid s q = true → q ∉ s.stoker.faulted →
      qCtxWord s q < 4096 → (s.svc.ctx (qCtx s q)).troot ≠ 0 → s.qHeader q = some h → h.bad = false → h.ridx + 2 ^ h.slog < v.toNat → h.widx < v.toNat →
    ∃ u, exec (.doorbell q v src) s = .next u ∧ q ∈ u.stoker.faulted ∧ u.groups = s.groups ∧ u.grids = s.grids)
  ∧ (∀ q s, s.serves = true → q ∉ s.stoker.faulted → errOf s (qEntry s q) 16 ≠ 0 →
    ∃ u, exec (.qfault q) s = .next u ∧ q ∈ u.stoker.faulted ∧ u.groups = s.groups ∧ u.grids = s.grids)
  ∧ (∀ q s i, qEntryBad s q = false → ∀ h u, s.qHeader q = some h → h.bad = false → s.stoker.freeSlot = some i → s.qWrite q 0x22 1 1 = some u →
    (i, q) ∈ (s.mapQueue q).stoker.slots)
  ∧ (∀ q code s h u, errOf s (qEntry s q) 16 = 0 → qCtxWord s q < 4096 → s.qHeader q = some h → s.qWrite q 0x22 2 (3 + 256 * code) = some u →
    q ∈ (s.faultQueue q code).stoker.faulted ∧ (∀ x ∈ (s.faultQueue q code).stoker.slots, x.2 ≠ q)
      ∧ (h.errsig = 0 ∨ h.errsig % 8 ≠ 0 → (s.faultQueue q code).mem = u.mem)
      ∧ (∀ t, h.errsig ≠ 0 → h.errsig % 8 = 0 → u.ctxWrite u.unitRelease (qCtx u q) h.errsig (leBytes 8 (code * 2 ^ 48 + h.ridx % 2 ^ 48)) = some t →
          (s.faultQueue q code).mem = t.mem))

/-- STOKER_ROUND, STOKER_REPOLL, PACKET_COMPLETE, SIGNAL_WATCH_READ, WAITTO and IO_COPY_GRANULE (03 R49, R51-R56, R60, R62): a round launches the ready packets of its
core, a SIGNAL before a WAIT; TYPE is read before the rest of a packet; a FENCE acquires what the stoker's reads have met and gives later SIGNALs of its queue what it knows; a DISPATCH or TASKROOT that passes its checks gives the dispatcher a grid of what they read; the other packets have their effects; a
packet whose work has ended completes; a watch whose condition holds, or whose time has passed, ends; a copy moves on by a granule. That an uncorrectable error met while the stoker reads a packet, a
signal, a footprint list or a descriptor is logged and ends the packet with PKTFAULT or DESCFAULT, that a packet which cannot be read whole is taken at once and decrements no CSIG, and that a list of more than
eight ranges has no entry read, are the model's choices (notes/assumptions/59, 70): 02 R33 and 03 R52 name PAGE and ACCESS only. -/
def Obligations.StokerAndPackets : Prop :=
  (∀ core c b q x h s, s.stoker.cores[core]? = some c → c.block = some b → c.halted = false → s.serves = true → s.stoker.blockQueues b = [q] → s.stoker.mapped q = true →
      s.qHeader q = some h → s.readyPacket q = some x → exec (.stokerRound core) s = .next (s.launch x.q x.i x.va x.bs))
  ∧ (∀ core c b q q' x x' s, let u := s.launch x'.q x'.i x'.va x'.bs
      s.stoker.cores[core]? = some c → c.block = some b → c.halted = false → s.serves = true → s.stoker.blockQueues b = [q, q'] →
      s.stoker.mapped q = true → s.stoker.mapped q' = true → s.readyPacket q = some x → s.readyPacket q' = some x' →
      x.type = 3 → x'.type = 4 →
      exec (.stokerRound core) s = .next (if u.stoker.mapped q then u.launch x.q x.i x.va x.bs else u))
  ∧ (∀ q (s : State) h, s.qHeader q = some h → h.ridx < h.widx → (∀ p ∈ s.stoker.pkts, p.q ≠ q) → let va := h.base + 64 * (h.ridx % 2 ^ h.slog)
      (s.ctxNat (qCtx s q) va 1 = some 0 → (s.readyPacket q).isNone = true)
      ∧ (s.ctxNat (qCtx s q) va 1 = none → s.readyPacket q = some { q := q, i := h.ridx, va := va, type := 1, bs := none })
      ∧ ∀ y, y ≠ 0 → s.ctxNat (qCtx s q) va 1 = some y → s.readyPacket q = some { q := q, i := h.ridx, va := va, type := y, bs := s.ctxRead (qCtx s q) va 64 })
  ∧ (∀ q i va (s : State), s.launch q i va none = ended ((s.unitSees (qCtx s q) va 64).eccSeen (qCtx s q) needRead va 64) q i va none 5)
  ∧ (∀ q s core, s.stoker.coreOf q = some core → exec (.stokerRepoll q) s = exec (.stokerRound core) s)
  ∧ (∀ q s, s.stoker.coreOf q = none → exec (.stokerRepoll q) s = .next s)
  ∧ (∀ core s, s.serves = false ∨ s.stoker.cores[core]? = none ∨ (∃ c, s.stoker.cores[core]? = some c ∧ (c.block = none ∨ c.halted = true)) →
      exec (.stokerRound core) s = .next s)
  ∧ (∀ q i va bs l e s task, packetBad bs = false → fieldOf bs 0 1 = (if task then 8 else 2) → (task = true → ∀ d ∈ s.grids, ¬(d.isTask = true ∧ d.st = .live)) →
      s.stoker.keptFor q i = some l ∨ (s.stoker.keptFor q i = none ∧ checkLaunch s (qCtx s q) (fieldOf bs 8 8) task = .ok l) → s.freeEntry = some e →
    ∃ d ∈ (s.launch q i va (some bs)).grids, d.gid = s.nextName ∧ d.entry = e.1 ∧ d.name = va ∧ d.ctx = qCtx s q ∧ d.isTask = task ∧ d.st = .live
      ∧ d.desc = l.desc ∧ d.ko = l.ko ∧ d.foot = l.foot ∧ d.born = s.order.stamp ∧ d.walk = 0 ∧ d.exited = [] ∧ d.left = l.desc.equota ∧ d.unl = (l.desc.equota == 0)
      ∧ d.tasks = if task then [{ ts := BitVec.ofNat 48 (fieldOf bs 0x10 8), seq := 0, arg := BitVec.ofNat 64 (fieldOf bs 0x18 8) }] else [])
  ∧ (∀ q i va bs l s, packetBad bs = false → fieldOf bs 0 1 = 2 → s.stoker.keptFor q i = none → checkLaunch s (qCtx s q) (fieldOf bs 8 8) false = .ok l → s.freeEntry = none →
    (s.launch q i va (some bs)).stoker.keptFor q i = some l ∧ (s.launch q i va (some bs)).mem = s.mem ∧ (s.launch q i va (some bs)).grids = s.grids)
  ∧ (∀ q i va bs s, let t := s.unitSees (qCtx s q) va 64
      let c := qCtx s q
      packetBad bs = false →
      (fieldOf bs 0 1 = 1 → s.launch q i va (some bs) = ended t q i va (packetCsig bs) 0)
      ∧ (fieldOf bs 0 1 = 6 → ∃ u, Knows t u ∧ s.launch q i va (some bs) = ended u q i va (packetCsig bs) 0
        ∧ (∀ x ∈ t.order.heard, takesMsg unitThread (fieldOf bs 8 1) x.1 x.2 = true → Covered x.2.view (u.order.view .unit))
        ∧ ∃ m, (q, m) ∈ u.order.fences ∧ m.src = unitThread ∧ m.scope = fieldOf bs 8 1 ∧ Covered (u.order.view .unit) m.view ∧ ∃ n, (Agent.unit, n) ∈ m.view.upto ∧ t.order.stamp ≤ n)
      ∧ (∀ x, fieldOf bs 0 1 = 3 → t.ctxNat c (fieldOf bs 8 8) 8 = some x →
          (waitHolds (fieldOf bs 0x18 1) (BitVec.ofNat 64 x) (BitVec.ofNat 64 (fieldOf bs 0x10 8)) = true →
            s.launch q i va (some bs) = ended (t.unitHears c (fieldOf bs 8 8) 8) q i va (packetCsig bs) 0)
          ∧ (waitHolds (fieldOf bs 0x18 1) (BitVec.ofNat 64 x) (BitVec.ofNat 64 (fieldOf bs 0x10 8)) = false →
            { q := q, i := i, sig := fieldOf bs 8 8, cond := fieldOf bs 0x18 1, value := BitVec.ofNat 64 (fieldOf bs 0x10 8),
              deadline := if fieldOf bs 0x1C 4 = 0 then none else some (s.us + fieldOf bs 0x1C 4) } ∈ (s.launch q i va (some bs)).stoker.watches
            ∧ { q := q, i := i, csig := packetCsig bs, err := 0, work := .wait } ∈ (s.launch q i va (some bs)).stoker.pkts))
      ∧ (∀ x u, fieldOf bs 0 1 = 4 → t.ctxNat c (fieldOf bs 8 8) 8 = some x →
          (t.unitHears c (fieldOf bs 8 8) 8).ctxWrite { Writer.unit with rel := (t.order.fences.filter fun y => y.1 == q).map Prod.snd, rmw := true } c (fieldOf bs 8 8)
            (leBytes 8 (signalled (fieldOf bs 0x18 1) (BitVec.ofNat 64 (fieldOf bs 0x10 8)) (BitVec.ofNat 64 x)).toNat) = some u →
          s.launch q i va (some bs) = ended u q i va (packetCsig bs) 0)
      ∧ (fieldOf bs 0 1 = 5 → { q := q, i := i, csig := packetCsig bs, err := 0, work := .copy (fieldOf bs 8 8) (fieldOf bs 0x10 8) (fieldOf bs 0x18 8) 0 }
          ∈ (s.launch q i va (some bs)).stoker.pkts)
      ∧ (∀ rs m ps, fieldOf bs 0 1 = 7 → readFoot t c (fieldOf bs 8 8) = .ok rs → digestMessage t c rs = some m →
          t.translateRange c needWrite (fieldOf bs 0x10 8) 32 = .ok ps → (∀ p ∈ ps, errOf t p 1 = 0) →
          s.launch q i va (some bs) = ended (t.putPlaces Writer.unit ps (shake256 m)) q i va (packetCsig bs) 0)
      ∧ (fieldOf bs 0 1 = 7 → readFoot t c (fieldOf bs 8 8) = .fault → s.launch q i va (some bs) = ended (t.eccSeen c needRead (fieldOf bs 8 8) (footSize t c (fieldOf bs 8 8))) q i va (packetCsig bs) 5)
      ∧ (let n := (t.ctxNat c (fieldOf bs 8 8) 8).getD 0
        footSize t c (fieldOf bs 8 8) = if n ≤ 8 then 8 + 16 * n else 8)
      ∧ (∀ e, fieldOf bs 0 1 = 2 → t.stoker.keptFor q i = none → checkLaunch t c (fieldOf bs 8 8) false = .error e → e ≠ 1 →
          s.launch q i va (some bs) = ended t q i va (packetCsig bs) e)
      ∧ (fieldOf bs 0 1 = 2 → t.stoker.keptFor q i = none → checkLaunch t c (fieldOf bs 8 8) false = .error 1 → s.launch q i va (some bs) = ended (descEcc t c (fieldOf bs 8 8)) q i va (packetCsig bs) 1)
      ∧ ((fieldOf bs 0 1 = 3 ∨ fieldOf bs 0 1 = 4) → t.ctxNat c (fieldOf bs 8 8) 8 = none →
          s.launch q i va (some bs) = ended (t.eccSeen c needRead (fieldOf bs 8 8) 8) q i va (packetCsig bs) 5))
  ∧ (∀ q i va bs (s : State), packetBad bs = true → s.launch q i va (some bs) = ended (s.unitSees (qCtx s q) va 64) q i va (packetCsig bs) 4)
  ∧ (∀ q i va u v (s : State), s.ctxWrite Writer.unit (qCtx s q) va [0] = some u → u.ctxWrite u.unitRelease (qCtx u q) (qHdr u q + 8) (leBytes 8 (i + 1)) = some v → s.consume q i va = v)
  ∧ (∀ p (s u : State), Reported (s.packetWork p) p u → (s.completePkt p).settleQueue p.q = closing u p)
  ∧ (∀ q i s p, s.serves = true → s.pkt? q i = some p → (p.work = .ready ∨ p.work = .woken ∧ (s.stoker.mapped q = true ∨ q ∈ s.stoker.faulted)) →
      exec (.packetComplete q i) s = .next ((s.completePkt p).settleQueue q) ∧ (∀ x ∈ ((s.completePkt p).settleQueue q).stoker.pkts, ¬(x.q = q ∧ x.i = i))
      ∧ ((s.completePkt p).settleQueue q).groups = s.groups ∧ ((s.completePkt p).settleQueue q).grids = s.grids)
  ∧ (∀ q s w x, s.serves = true → s.stoker.watches.find? (fun w => w.q == q) = some w → s.ctxNat (qCtx s q) w.sig 8 = some x →
      (waitHolds w.cond (BitVec.ofNat 64 x) w.value = false → exec (.signalWatchRead q) s = .next s)
      ∧ (waitHolds w.cond (BitVec.ofNat 64 x) w.value = true → ∃ u, exec (.signalWatchRead q) s = .next u ∧ (∀ y ∈ u.stoker.watches, y.q ≠ q)
        ∧ ∀ p, s.pkt? q w.i = some p → u.pkt? q w.i = some { p with work := .woken, err := 0 }))
  ∧ (∀ q s w, s.serves = true → s.stoker.watches.find? (fun w => w.q == q) = some w → s.ctxNat (qCtx s q) w.sig 8 = none →
      ∃ u, exec (.signalWatchRead q) s = .next u ∧ (∀ y ∈ u.stoker.watches, y.q ≠ q) ∧ ∀ p, s.pkt? q w.i = some p → u.pkt? q w.i = some { p with work := .woken, err := 5 })
  ∧ (∀ q s w t, s.serves = true → s.stoker.watches.find? (fun w => w.q == q) = some w → w.deadline = some t →
      (s.us < t → exec (.waitTo q) s = .next s)
      ∧ (t ≤ s.us → ∃ u, exec (.waitTo q) s = .next u ∧ (∀ y ∈ u.stoker.watches, y.q ≠ q)
        ∧ ∀ p, s.pkt? q w.i = some p → u.pkt? q w.i = some { p with work := .woken, err := 6 }))
  ∧ (∀ q i s p src dst len done bs ps, let n := min 256 (len - done)
      let u := s.putPlaces (copyWriter q i) ps bs
      s.serves = true → s.pkt? q i = some p → p.work = .copy src dst len done → s.ctxRead (qCtx s q) (src + done) n = some bs →
      s.translateRange (qCtx s q) needWrite (dst + done) n = .ok ps → (∀ a ∈ ps, errOf s a 1 = 0) →
      (done + n ≠ len → exec (.ioCopyGranule q i) s = .next (u.setPkt { p with work := .copy src dst len (done + n) }))
      ∧ (done + n = len → exec (.ioCopyGranule q i) s = .next (u.setPkt { p with work := .ready })))
  ∧ (∀ q i s p src dst len done, let n := min 256 (len - done)
      s.serves = true → s.pkt? q i = some p → p.work = .copy src dst len done → p.err = 0 →
      (s.ctxRead (qCtx s q) (src + done) n = none ∨ (∀ ps, s.translateRange (qCtx s q) needWrite (dst + done) n = .ok ps → ∃ a ∈ ps, errOf s a 1 ≠ 0)) →
      ∃ u, exec (.ioCopyGranule q i) s = .next u ∧ u.mem = s.mem ∧ u.pkt? q i = some { p with work := .ready, err := 5 })

/-- GRID_RETIRE and the stoker cores (03 R57, R64, R65, 26 R453, R456; 19 R392): a grid whose gangs have all exited retires, under DET with its digest, what its groups have written becomes known to the stoker (17 R360), and its packet's
work ends; a stoker core that halts is logged, the spare takes its slots lane for lane, or without a spare its queues leave them; the reloaded core becomes the spare, and its repair slot is free when no other core is halted. -/
def Obligations.RetirementAndStokerCores : Prop :=
  (∀ gid s d p, s.grid? gid = some d → s.gridOver d = true → (d.foot = none ∨ d.desc.mode < 4) → s.pkt? d.q d.pi = some p → p.err = 0 →
    ∃ u d', exec (.gridRetire gid) s = .next u ∧ u.mem = s.mem ∧ u.grid? gid = some d' ∧ d'.st = .retired ∧ d'.retiredAt = s.fclk ∧ d'.cut = []
      ∧ u.pkt? d.q d.pi = some { p with work := .ready } ∧ ∀ v, s.order.grids.lookup gid = some v → Covered v (u.order.view .unit))
  ∧ (∀ gid s d p a rs m ps, s.grid? gid = some d → s.gridOver d = true → d.foot = some (a, rs) → 4 ≤ d.desc.mode → digestMessage s d.ctx rs = some m →
      s.translateRange d.ctx needWrite ((a + 8 + 16 * rs.length + 31) / 32 * 32) 32 = .ok ps → (∀ x ∈ ps, errOf s x 1 = 0) → s.pkt? d.q d.pi = some p → p.err = 0 →
    ∃ u, exec (.gridRetire gid) s = .next u ∧ u.mem = (s.putPlaces Writer.unit ps (shake256 m)).mem ∧ u.pkt? d.q d.pi = some { p with work := .ready })
  ∧ (∀ gid s d, s.grid? gid = some d → s.gridOver d = false → exec (.gridRetire gid) s = .next s)
  ∧ (∀ core s c b sp, s.stoker.cores[core]? = some c → c.halted = false → c.block = some b → s.stoker.spare = some sp → s.stoker.promised = [] →
    ∃ u e, exec (.stokerHalt core) s = .next u ∧ u.mem = s.mem ∧ u.stoker.cores[core]? = some { c with halted := true } ∧ u.stoker.slots = s.stoker.slots
      ∧ u.svc.log.head? = some e ∧ e.code = 2 ∧ e.unit = core ∧ e.detail = sp
      ∧ (memWf s.svc.repairMap = true → memGet u.svc.repairMap 0x3E3 = 0x80 ∧ memGet u.svc.repairMap 0x3E0 = BitVec.ofNat 8 core))
  ∧ (∀ core s c b, s.stoker.cores[core]? = some c → c.halted = false → c.block = some b → s.stoker.spares = [] →
      (∀ i c', s.stoker.cores[i]? = some c' → i ≠ core → c'.block ≠ some b) →
    ∃ u, exec (.stokerHalt core) s = .next u ∧ u.stoker.cores[core]? = some { block := none, halted := true } ∧ u.groups = s.groups
      ∧ ∀ x ∈ u.stoker.slots, x.2 ∈ s.stoker.blockQueues b → x.1 / 32 ≠ b)
  ∧ (∀ core s c, s.stoker.cores[core]? = some c → c.halted = true → exec (.stokerHalt core) s = .next s)
  ∧ (∀ core s c sp, s.stoker.cores[core]? = some c → c.halted = true → c.block ≠ none → s.stoker.spare = some sp →
    ∃ u, exec (.stokerTakeover core) s = .next u ∧ u.stoker.cores[sp]? = some { block := c.block, halted := false }
      ∧ u.stoker.cores[core]? = some { c with block := none } ∧ u.groups = s.groups ∧ (s.stoker.pending = [] → u.stoker.slots = s.stoker.slots ∧ u.mem = s.mem))
  ∧ (∀ core s c, s.stoker.cores[core]? = some c → c.halted = true → c.block = none →
    ∃ u, exec (.stokerReload core) s = .next u ∧ u.mem = s.mem ∧ u.stoker.cores[core]? = some { block := none, halted := false }
      ∧ u.stoker.slots = s.stoker.slots ∧ (memWf s.svc.repairMap = true → memGet u.svc.repairMap 0x3E1 = BitVec.ofNat 8 core
        ∧ ((∀ i c', s.stoker.cores[i]? = some c' → i ≠ core → c'.halted = false) → memGet u.svc.repairMap 0x3E3 = 0)
        ∧ ((∃ i c', s.stoker.cores[i]? = some c' ∧ i ≠ core ∧ c'.halted = true) → memGet u.svc.repairMap 0x3E3 = memGet s.svc.repairMap 0x3E3)))

-- ### Placement, saves, resumption

/-- A group at its start (02 R38): SPC is the entry, s1 the argument address, every other scalar register 0, every register VOID, m0 and EXM all ones, TPART one tile
of 32, the boundary as the descriptor says; no cause, no run, no pin. A DISPATCHER_DECISION (04 R69, R76-R78, R80, R81) serves the oldest grid with a candidate: it starts
the first gang that fits, whole, on cores of one cluster in ascending order, or gives a saved gang its cores, where a migrated workgroup keeps its LCORE (22 R433, R436); a
request that those cores owe reaches it (03 R58); a first candidate that has waited 500 us keeps younger grids waiting. That a gang waits from the decision in which it becomes a candidate and for as long as it is
one, and that a saved gang placed again gets no partitions and slots before it is restored, are the model's choices (notes/assumptions/64): 04 R69 and R81 say neither. -/
def Obligations.PlacementStartsGroups : Prop :=
  (∀ s d lw k slot, let g := newGroup s d lw k slot none
    g.spc = BitVec.ofNat 32 d.ko.entry ∧ g.sregs[1] = d.desc.args ∧ (∀ j : Fin 256, j ≠ 1 → g.sregs[j] = 0) ∧ g.regs.length = 8 * d.desc.rgran
      ∧ (∀ r ∈ g.regs, r.st = .void) ∧ g.bound = 8 * d.desc.vbnd0 ∧ g.masks[0] = BitVec.allOnes 32 ∧ (∀ j : Fin 8, j ≠ 0 → g.masks[j] = 0)
      ∧ g.exm = BitVec.allOnes 32 ∧ g.tpart = 5 ∧ g.cause = 0 ∧ g.runq = [] ∧ g.recipes = [] ∧ g.pins = Vector.replicate 8 0 ∧ g.stepn = 0
      ∧ g.progto = d.desc.progto ∧ g.ctrs = Vector.replicate 12 0)
  ∧ (∀ (s : State) d gs gang cores, s.firstFit d gs = some (gang, cores) → gang ∈ gs ∧ cores.length = (s.needs d gang).length ∧ cores.Pairwise (· < ·)
      ∧ (∃ cl, ∀ c ∈ cores, c / 4 = cl ∧ c < 416)
      ∧ ∀ c ∈ cores, (s.logicalOf c).isSome = true ∧ (s.clusterAt (c / 4)).out = false ∧ (s.clusterAt (c / 4)).tripped = false
        ∧ ∃ x, s.units.coreSens[c]? = some x ∧ x.seen = true ∧ x.band = 0)
  ∧ (∀ s d ds c cs gang cores, s.grids = d :: ds → s.candidates d = c :: cs → s.firstFit d (c :: cs) = some (gang, cores) → s.savedGang d.gid gang = [] →
      d.isTask = false → (∀ x ∈ s.owed, x.1 ∉ cores) →
    ∃ u ws gs, exec .dispatcherDecision s = .next u ∧ u.mem = s.mem ∧ u.wgs = s.wgs ++ ws ∧ u.groups = s.groups ++ gs ∧ ws.length = d.desc.gang
      ∧ gs.length = d.desc.gang * d.desc.wgsize
      ∧ (∀ j w, ws[j]? = some w → w.gid = d.gid ∧ w.lw = gang * d.desc.gang + j ∧ cores[j]? = some w.core ∧ w.lcore = (s.logicalOf w.core).getD 0 ∧ w.spad = []
          ∧ w.ws = Vector.replicate 16 0 ∧ w.stop = none ∧ w.placed = s.moment)
      ∧ (∀ n g, gs[n]? = some g → g.gid = d.gid ∧ g.lw = gang * d.desc.gang + n / d.desc.wgsize ∧ g.k = n % d.desc.wgsize ∧ cores[n / d.desc.wgsize]? = some (g.slot / 48)
          ∧ g.part = g.slot % 48 / 8 ∧ g.spc = BitVec.ofNat 32 d.ko.entry ∧ g.sregs[1] = d.desc.args ∧ g.regs.length = 8 * d.desc.rgran))
  ∧ (∀ s d ds c cs gang cores, s.grids = d :: ds → s.candidates d = c :: cs → s.firstFit d (c :: cs) = some (gang, cores) → s.savedGang d.gid gang = [] →
      d.isTask = false → s.grid? d.gid = some d → (∃ x ∈ s.owed, x.1 ∈ cores) →
    ∃ u, exec .dispatcherDecision s = .next u ∧ (∀ lw ∈ gangOf d.desc gang, ∃ w ∈ u.wgs, w.gid = d.gid ∧ w.lw = lw ∧ w.core ∈ cores ∧ w.stop.isSome = true)
      ∧ ∀ x ∈ u.owed, x.1 ∉ cores)
  ∧ (∀ s d ds c cs gang cores, s.grids = d :: ds → s.candidates d = c :: cs → s.firstFit d (c :: cs) = some (gang, cores) →
      ((s.savedGang d.gid gang).map fun r => r.wg.lw).Nodup → s.savedGang d.gid gang ≠ [] → s.grid? d.gid = some d → (∀ x ∈ s.owed, x.1 ∉ cores) →
    ∃ u, exec .dispatcherDecision s = .next u ∧ u.mem = s.mem ∧ u.wgs = s.wgs ∧ u.groups = s.groups ∧ u.savedGang d.gid gang = []
      ∧ u.resuming.length = s.resuming.length + (s.savedGang d.gid gang).length
      ∧ ∀ r ∈ s.savedGang d.gid gang, ∃ core ∈ cores,
          { r with wg := { r.wg with core := core, placed := s.moment, lcore := if r.migr then r.wg.lcore else (s.logicalOf core).getD 0 } } ∈ u.resuming)
  ∧ (∀ s d ds c cs t, s.grids = d :: ds → s.candidates d = c :: cs → s.firstFit d (c :: cs) = none → d.waits.lookup c = some t → s.passed t 500 = true →
    ∃ u, exec .dispatcherDecision s = .next u ∧ u.wgs = s.wgs ∧ u.groups = s.groups ∧ u.resuming = s.resuming ∧ u.saved = s.saved ∧ u.mem = s.mem)
  ∧ (∀ gid s u d d', exec .dispatcherDecision s = .next u → s.grid? gid = some d → u.grid? gid = some d' → ∀ c t, (c, t) ∈ d'.waits → c ∈ s.candidates d ∧ t = (d.waits.lookup c).getD s.moment)
  ∧ (∀ (s : State) t n, s.passed t n = true ↔ (t.us + n < s.us ∨ t.us + n = s.us ∧ t.frac ≤ s.usFrac))
  ∧ (∀ s, (∀ d ∈ s.grids, s.candidates d = []) → exec .dispatcherDecision s = .next { s with grids := s.grids.map fun d => { d with waits := [] } })

/-- PREEMPTION_REQUEST and QUANTUM_EXPIRY (22 R427, R435, R436, R438; 04 R80, R82; 03 R58): every member of the gang, resident or placed and not yet restored, is asked to stop, where the
weightier of two requests stands, and nothing else of the machine changes but, at the end of a quantum, the gang that the grid's quantum names, and at a STEP that a migration or a cut waits for, which all groups of
the gang have completed, that the gang is saved there, with the migration that is asked for then (the model's choice, notes/assumptions/68). The host may ask at any time; each other request needs its event: a quantum that ends, a tripped cluster, an exhausted quota, a trap that has gone to the host, a
migration or a cut that is due. A gang that has exited in this FCLK is not asked: its cores owe the request to what runs next on them, but for the end of a quantum. Any other gang is left alone. -/
def Obligations.StopRequests : Prop :=
  (∀ gid gang why s, why ∈ [StopReason.host, StopReason.hostHold] → (s.gangWgs gid gang ≠ [] ∨ s.gangResuming gid gang = true) →
      exec (.preemptionRequest gid gang why) s = .next (gangAsked s gid gang why))
  ∧ (∀ gid gang why s x, why ∈ [StopReason.host, StopReason.hostHold] → s.gangWgs gid gang = [] → s.gangResuming gid gang = false →
      s.exits.find? (fun x => x.1 == gid && x.2.1 == gang) = some x →
      exec (.preemptionRequest gid gang why) s = .next { s with owed := s.owed ++ x.2.2.map fun c => (c, why) })
  ∧ (∀ gid gang why s, why ∈ [StopReason.host, StopReason.hostHold] → s.gangWgs gid gang = [] → s.gangResuming gid gang = false → (∀ x ∈ s.exits, ¬(x.1 = gid ∧ x.2.1 = gang)) →
      exec (.preemptionRequest gid gang why) s = .next s)
  ∧ (∀ gid gang s, ((∃ w ∈ s.gangMembers gid gang, (s.clusterAt (w.core / 4)).tripped = true) → (s.gangWgs gid gang ≠ [] ∨ s.gangResuming gid gang = true) →
        exec (.preemptionRequest gid gang .trip) s = .next (gangAsked s gid gang .trip))
      ∧ ((∀ c, (s.clusterAt c).tripped = false) → exec (.preemptionRequest gid gang .trip) s = .next s)
      ∧ (s.quotaHeld gid = true → exec (.preemptionRequest gid gang .quota) s = .next (gangAsked s gid gang .quota))
      ∧ (s.quotaHeld gid = false → exec (.preemptionRequest gid gang .quota) s = .next s)
      ∧ ((∃ g ∈ s.gangGroups gid gang, g.toHost = true) → exec (.preemptionRequest gid gang .trapHost) s = .next (gangAsked s gid gang .trapHost))
      ∧ ((∀ g ∈ s.gangGroups gid gang, g.toHost = false) → exec (.preemptionRequest gid gang .trapHost) s = .next s))
  ∧ (∀ gid gang why s, why = .migration ∧ s.gangMigrates gid gang = true ∨ why = .cut ∧ s.cutting gid = true → s.gangGroups gid gang ≠ [] →
      ((∀ g ∈ s.gangGroups gid gang, g.stepHeld = true) → let v := gangAsked s gid gang (if s.cutting gid then .cut else .migration)
        exec (.preemptionRequest gid gang why) s = .next { v with wgs := v.wgs.map fun w => if w.gid = gid ∧ gangIdx (s.desc gid) w.lw = gang then { w with atStep := true, moves := w.moves || s.gangMigrates gid gang } else w })
      ∧ ((∃ g ∈ s.gangGroups gid gang, g.stepHeld = false) → exec (.preemptionRequest gid gang why) s = .next s))
  ∧ (∀ gid gang why s, why = .migration ∧ s.gangMigrates gid gang = false ∨ why = .cut ∧ s.cutting gid = false → exec (.preemptionRequest gid gang why) s = .next s)
  ∧ (∀ gid gang s d, s.grid? gid = some d → d.isTask = false → d.st = .live → d.desc.mode % 4 = 2 → s.hasWaiting d = true → s.quantumUnderWay d = false →
      s.quantumNext d = some gang → let u := { gangAsked s gid gang .quantum with grids := s.grids.map fun x => if x.gid = gid then { x with quantum := some gang } else x }
      exec (.quantumExpiry gid gang) s = .next u ∧ exec (.preemptionRequest gid gang .quantum) s = .next u)
  ∧ (∀ (s : State) d gang, s.quantumNext d = some gang → ∃ t, s.residentSince d.gid gang = some t ∧ s.quantumPast t = true ∧ s.gangStop d.gid gang = none
      ∧ ∀ x t', s.residentSince d.gid x = some t' → s.quantumPast t' = true → s.gangStop d.gid x = none → t.fclk ≤ t'.fclk)
  ∧ (∀ (s : State) t, s.quantumPast t = true ↔ (t.us + 50 < s.us ∨ t.us + 50 = s.us ∧ t.frac ≤ s.usFrac))
  ∧ (∀ gid gang s d, s.grid? gid = some d → (d.desc.mode % 4 ≠ 2 ∨ s.hasWaiting d = false ∨ s.quantumUnderWay d = true ∨ s.quantumNext d ≠ some gang) →
      exec (.quantumExpiry gid gang) s = .next s ∧ exec (.preemptionRequest gid gang .quantum) s = .next s)

/-- SAVE_COMPLETE and WORKGROUP_RESUMPTION (22 R428, R430, R433-R435; 02 R28): a gang that has been asked to stop leaves its cores whole and each member becomes a record with
its groups, held for the host if a trap stopped it or the host asked so, marked for a quota that stopped it, and migrating when all its groups had completed the STEP that the migration waited for, whatever else asked for the save by then (R436, R438) and whether or not the core has cooled since (the model's choice, notes/assumptions/68); a gang
waits while a group has runs left at a PHINT or lanes of a word left to perform, or a WSW has not had its two FCLK; the records of a gang placed again become resident workgroups with all their groups. That a member whose groups have all
exited is kept with the gang is the model's reading (notes/assumptions/58). -/
def Obligations.SaveAndResume : Prop :=
  (∀ gid gang s, (s.gangStop gid gang).isSome = true → s.gangWgs gid gang ≠ [] → (∀ g ∈ s.gangGroups gid gang, s.phintWaits g = false ∧ g.mid = none ∧ ∀ t, Eff.ws t ∈ g.pending → t + 2 ≤ s.fclk) →
      (∀ w ∈ s.gangMembers gid gang, ∀ x ∈ w.wsPend, x.1 + 2 ≤ s.fclk) → (∀ w ∈ s.gangMembers gid gang, (∀ g ∈ s.wgGroups gid w.lw, g.k < 48) ∧ ((s.wgGroups gid w.lw).map Group.k).Nodup) → (s.groups.map Group.slot).Nodup →
      ((s.gangMembers gid gang).map Wg.lw).Nodup →
    ∃ u, exec (.saveComplete gid gang) s = .next u ∧ (∀ x ∈ u.wgs, ¬(x.gid = gid ∧ gangIdx (s.desc gid) x.lw = gang))
      ∧ (∀ w ∈ s.wgs, ¬(w.gid = gid ∧ gangIdx (s.desc gid) w.lw = gang) → ∃ x ∈ u.wgs, x.gid = w.gid ∧ x.lw = w.lw)
      ∧ (∀ d, u.grid? gid = some d → d.quantum ≠ some gang)
      ∧ ∀ w ∈ s.gangMembers gid gang, (∀ g ∈ u.groups, ¬(g.gid = gid ∧ g.lw = w.lw))
        ∧ ∃ r ∈ u.saved, r.wg.gid = gid ∧ r.wg.lw = w.lw ∧ r.groups.length = (s.wgGroups gid w.lw).length
          ∧ (∀ g ∈ s.wgGroups gid w.lw, ∃ g' ∈ r.groups, g'.k = g.k ∧ g'.stepn = g.stepn)
          ∧ (w.stop = some .trapHost ∨ (∃ x ∈ s.gangMembers gid gang, x.hold = true) → r.held = true)
          ∧ (s.quotaHeld gid = true ∨ (∃ x ∈ s.gangMembers gid gang, x.quota = true) → r.quota = true)
          ∧ ((∃ x ∈ s.gangMembers gid gang, x.atStep = true ∧ (x.stop = some .migration ∨ x.moves = true ∨ s.gangMigrates gid gang = true)) → r.migr = true)
          ∧ ((∀ x ∈ s.gangMembers gid gang, x.atStep = false) → r.migr = false))
  ∧ (∀ gid gang s, s.gangStop gid gang = none → exec (.saveComplete gid gang) s = .next s)
  ∧ (∀ gid gang s, (∃ g ∈ s.gangGroups gid gang, s.phintWaits g = true ∨ g.mid ≠ none ∨ ∃ t, Eff.ws t ∈ g.pending ∧ s.fclk < t + 2) ∨ (∃ w ∈ s.gangMembers gid gang, ∃ x ∈ w.wsPend, s.fclk < x.1 + 2) →
      exec (.saveComplete gid gang) s = .next s)
  ∧ (∀ gid lw s, let rs := s.resuming.filter fun r => r.wg.gid == gid && gangIdx (s.desc gid) r.wg.lw == gangIdx (s.desc gid) lw
      (∃ r ∈ rs, r.wg.lw = lw) →
    ∃ u gs, exec (.workgroupResumption gid lw) s = .next u ∧ u.mem = s.mem ∧ u.groups = s.groups ++ gs ∧ gs.length = (rs.map fun r => r.groups.length).sum
      ∧ (∀ r ∈ rs, (∃ w ∈ u.wgs, w.gid = gid ∧ w.lw = r.wg.lw ∧ w.core = r.wg.core ∧ w.lcore = r.wg.lcore ∧ w.placed = r.wg.placed)
        ∧ (r.spilled = false → ∀ g ∈ r.groups, ∃ g' ∈ gs, g'.k = g.k ∧ g'.lw = g.lw ∧ g'.slot / 48 = r.wg.core ∧ g'.spc = g.spc ∧ g'.sregs = g.sregs ∧ g'.regs = g.regs
          ∧ g'.exm = g.exm ∧ g'.cause = g.cause)
        ∧ ∀ x ∈ u.resuming, x.order ≠ r.order))
  ∧ (∀ gid lw s, (∀ r ∈ s.resuming, ¬(r.wg.gid = gid ∧ r.wg.lw = lw)) → exec (.workgroupResumption gid lw) s = .next s)

-- ### Heat, clocks, energy

/-- Sensors, refresh, clocks, glide and energy (21 R406-R417). A first sample sets the band of its thresholds; later the band rises at once and falls by one after
400 us, 3 degrees below its threshold; a core that reaches band 3 trips its cluster, which keeps its ratio while it saves its workgroups; glide operations hold the fall of a die's current to 6 A, and their energy is charged to the
grids that have departed, in whole microjoules rounded up; a charge past the quota stops the grid, in its gangs that are placed but not yet restored too. -/
def Obligations.HeatClocksEnergy : Prop :=
  (∀ idx temp s x, s.units.vaultSens[idx]? = some x → ∃ u y, exec (.sensorSample false idx temp) s = .next u ∧ u.mem = s.mem ∧ u.groups = s.groups
      ∧ u.units.vaultSens[idx]? = some y ∧ Sampled [340, 380, 420] x temp s.us y)
  ∧ (∀ idx temp s x, s.units.coreSens[idx]? = some x → idx / 4 < s.units.clusters.length → ∃ u y, exec (.sensorSample true idx temp) s = .next u ∧ u.mem = s.mem
      ∧ u.units.coreSens[idx]? = some y ∧ Sampled [380, 420, 460] x temp s.us y
      ∧ (y.band = 3 → ¬(x.seen = true ∧ x.band = 3) → (u.clusterAt (idx / 4)).tripped = true))
  ∧ (∀ v s, v < s.units.vaults.length → ∃ u, exec (.vaultRefresh v) s = .next u ∧ u.mem = s.mem ∧ u.units.vaults[v]? = some { busy := true, trefi :=
      if (s.units.vaultSens.getD v Sensor.reset).band = 0 then 4 else if (s.units.vaultSens.getD v Sensor.reset).band = 1 then 2 else 1 })
  ∧ (∀ v s x, s.units.vaults[v]? = some x → ∃ u, exec (.refreshEnd v) s = .next u ∧ u.units.vaults[v]? = some { x with busy := false })
  ∧ (∀ c s x, s.units.clusters[c]? = some x → x.switching = false → x.ratio ≠ s.ratioLimit c →
      (x.tripped = false ∨ (∀ w ∈ s.wgs, w.core / 4 ≠ c) ∧ ∀ r ∈ s.resuming, r.wg.core / 4 ≠ c) →
    ∃ u, exec (.ratioChange c) s = .next u ∧ u.units.clusters[c]? = some { x with pending := some (s.ratioLimit c), switching := true })
  ∧ (∀ c s, (s.clusterAt c).tripped = true → ((∃ w ∈ s.wgs, w.core / 4 = c) ∨ ∃ r ∈ s.resuming, r.wg.core / 4 = c) → exec (.ratioChange c) s = .next s)
  ∧ (∀ c s x r, s.units.clusters[c]? = some x → x.pending = some r →
    ∃ u, exec (.ratioSwitchEnd c) s = .next u ∧ u.units.clusters[c]? = some { x with ratio := r, pending := none, switching := false })
  ∧ (∀ d pm s x, s.units.dies[d]? = some x → x.nstep = none → (∀ t, x.nlast = some t → t + 10 ≤ s.us) →
      (500 < pm → x.nclk < 7 → ∃ u, exec (.nclkWindow d pm) s = .next u ∧ u.units.dies[d]? = some { x with nstep := some true, nlast := some s.us })
      ∧ (pm < 125 → 0 < x.nclk → ∃ u, exec (.nclkWindow d pm) s = .next u ∧ u.units.dies[d]? = some { x with nstep := some false, nlast := some s.us })
      ∧ (125 ≤ pm → pm ≤ 500 → ∃ u, exec (.nclkWindow d pm) s = .next u ∧ u.units.dies[d]? = some x))
  ∧ (∀ d s x up, s.units.dies[d]? = some x → x.nstep = some up → x.nclk ≤ 7 → ∃ u, exec (.nclkStepDone d) s = .next u
      ∧ u.units.dies[d]? = some { x with nstep := none, nclk := if up then min 7 (x.nclk + 1) else x.nclk - 1 })
  ∧ (∀ d e s x, s.units.dies[d]? = some x → ∃ u, exec (.glideInterval d e) s = .next u ∧ u.mem = s.mem
      ∧ u.units.dies[d]? = some { x with estimate := max e (x.estimate - 6), glide := max e (x.estimate - 6) - e })
  ∧ (∀ d e s x gid g, s.units.dies[d]? = some x → e < x.estimate - 6 → s.units.departed.filter (fun y => y.1 == d) = [(d, gid)] → s.grid? gid = some g → g.st ≠ .reused →
    ∃ u g' nj, exec (.glideInterval d e) s = .next u ∧ u.grid? gid = some g' ∧ g'.energy = g.energy + (nj + 999) / 1000)
  ∧ (∀ gid uj s d, s.grid? gid = some d → d.st = .live → (d.unl = true ∨ uj ≤ d.left) → ∃ u, exec (.energyCharge gid uj) s = .next u ∧ u.groups = s.groups ∧ u.wgs = s.wgs
      ∧ u.grid? gid = some { d with left := d.left - uj, energy := d.energy + uj })
  ∧ (∀ gid uj s d, s.grid? gid = some d → d.st = .live → d.unl = false → d.left < uj → d.quotaHeld = false → s.gridOver d = false →
    ∃ u, exec (.energyCharge gid uj) s = .next u ∧ u.mem = s.mem
      ∧ u.grid? gid = some { d with left := 0, energy := d.energy + uj, overrun := d.overrun + (uj - d.left), quotaHeld := true }
      ∧ (1 ≤ d.desc.gang → (∀ w ∈ u.wgs, w.gid = gid → w.quota = true ∧ (w.stop = some .quota ∨ w.stop = some .trapHost))
        ∧ ∀ r ∈ u.resuming, r.wg.gid = gid → r.wg.quota = true ∧ (r.wg.stop = some .quota ∨ r.wg.stop = some .trapHost)))
  ∧ (∀ gid uj s d, s.grid? gid = some d → d.st = .reused → ∃ u, exec (.energyCharge gid uj) s = .next u ∧ u.groups = s.groups
      ∧ (u.svc.ctx d.ctx).energy = (s.svc.ctx d.ctx).energy + uj)

-- ### The host

/-- Accesses of the host, links, OWNSEM and configuration (20 R394-R399, 26 R449-R452, R459): an access in the window of the port is one of the readback space; elsewhere
below 2^39 it is memory, which firmware that does not verify refuses; OWNSEM is taken by a read while free and freed by its holder's 0, or once its port's link has been lost, at the latest 100 us later; the readback space
shows the registers, tables and directories of the module; global configuration changes only for the holder and only to legal values, and the error log records another's write; a write that runs over several fields reaches each of them (00 R3).
That a write of TROOT takes effect with LIVE not 0 (R451 leaves it open), that a command joins the agenda's end, that the core table shows FREG and FSPAD of an empty core as 0 (R453 gives only its PART), and that
where the window lies over memory an address of it is the window's, are the model's choices (notes/assumptions/13, 48, 28, 29). -/
def Obligations.HostAccessAndOwnership : Prop :=
  (∀ port addr bs s, let base := (s.port port).base.toNat
      let off := addr - base
      (s.port port).up = true → base ≤ addr → addr < base + 2 ^ 26 →
    exec (.hostAccess port addr bs.length (some bs)) s
      = exec (if isGlobal off then .globalConfigWrite port off bs else if isCtxTable off then .contextTableWrite port off bs else .registerWrite port off bs) s)
  ∧ (∀ port addr len s, let base := (s.port port).base.toNat
      port < 2 → (s.port port).up = true → base ≤ addr → addr < base + 2 ^ 26 →
    ∃ u, exec (.hostAccess port addr len none) s = .next u ∧ u.mem = s.mem ∧ (u.port port).read = readback s (addr - base) len
      ∧ u.svc.ownsem = if s.svc.ownsem = 0 ∧ addr - base < 0x48 ∧ 0x40 < addr - base + len then port + 1 else s.svc.ownsem)
  ∧ (∀ port addr bs s, (s.port port).up = true → s.svc.fwok = true → addr + bs.length ≤ 2 ^ 39 → (addr < (s.port port).base.toNat ∨ (s.port port).base.toNat + 2 ^ 26 ≤ addr) →
      s.memOk → bellOf s addr bs.length = none →
    ∃ u, exec (.hostAccess port addr bs.length (some bs)) s = .next u ∧ u.groups = s.groups ∧ (∀ k (h : k < bs.length), memGet u.mem (addr + k) = bs[k])
      ∧ ∀ x, (x < addr ∨ addr + bs.length ≤ x) → memGet u.mem x = memGet s.mem x)
  ∧ (∀ port addr len s, port < 2 → (s.port port).up = true → s.svc.fwok = true → addr + len ≤ 2 ^ 39 →
      (addr < (s.port port).base.toNat ∨ (s.port port).base.toNat + 2 ^ 26 ≤ addr) → (∀ k, k < len → errOf s (addr + k) 1 = 0) →
    ∃ u, exec (.hostAccess port addr len none) s = .next u ∧ u.mem = s.mem ∧ (u.port port).read = memRead s.mem addr len)
  ∧ (∀ port addr len w s, (s.port port).up = false → exec (.hostAccess port addr len w) s = .next s)
  ∧ (∀ port addr len w s, s.svc.fwok = false → addr < 2 ^ 57 → (addr < (s.port port).base.toNat ∨ (s.port port).base.toNat + 2 ^ 26 ≤ addr) →
      exec (.hostAccess port addr len w) s = .next s)
  ∧ (∀ port s, port < 2 → ∃ u, exec (.linkDown port) s = .next u ∧ u.mem = s.mem ∧ (u.port port).up = false ∧ (u.port port).lost = if s.svc.ownsem = port + 1 then some ((s.port port).lost.getD s.moment) else (s.port port).lost)
  ∧ (∀ port base s, port < 2 → ∃ u, exec (.linkTraining port base) s = .next u ∧ u.mem = s.mem ∧ (u.port port).up = true ∧ (u.port port).base = base
      ∧ (u.port port).lost = (s.port port).lost)
  ∧ (∀ port s, port < 2 → ∃ u, exec (.ownsemRead port) s = .next u ∧ u.mem = s.mem ∧ (u.port port).read = leBytes 8 (s.svc.ownsem % 2 ^ 64)
      ∧ u.svc.ownsem = if s.svc.ownsem = 0 then port + 1 else s.svc.ownsem)
  ∧ (∀ port v s, ∃ u, exec (.ownsemWrite port v) s = .next u ∧ u.mem = s.mem ∧ u.svc.ownsem = if v = 0 ∧ s.svc.ownsem = port + 1 then 0 else s.svc.ownsem)
  ∧ (∀ port s, (s.port port).lost ≠ none → s.svc.ownsem = port + 1 → ∃ u, exec (.ownsemRelease port) s = .next u ∧ u.svc.ownsem = 0 ∧ u.mem = s.mem)
  ∧ (∀ port s, (s.port port).lost = none → exec (.ownsemRelease port) s = .next s)
  ∧ (∀ (s : State) n port t, port < 2 → (s.port port).lost = some t → (s.tick n).passed t 100 = true → (s.tick n).svc.ownsem ≠ port + 1)
  ∧ (∀ port x s, s.svc.ownsem = port + 1 → x < 2 ^ 64 → s.svc.qtbase < 2 ^ 64 → s.svc.dbbase < 2 ^ 64 → ∃ u, exec (.globalConfigWrite port 0x80 (leBytes 8 x)) s = .next u
      ∧ u.svc.qtbase = x ∧ u.svc.dbbase = s.svc.dbbase ∧ u.svc.limits = s.svc.limits ∧ u.mem = s.mem)
  ∧ (∀ port x y s, s.svc.ownsem = port + 1 → x < 2 ^ 64 → s.svc.qtbase < 2 ^ 64 → s.svc.dbbase < 2 ^ 64 → ∃ u, exec (.registerWrite port 0x78 (leBytes 8 y ++ leBytes 8 x)) s = .next u
      ∧ u.svc.qtbase = x ∧ u.svc.dbbase = s.svc.dbbase ∧ u.mem = s.mem)
  ∧ (∀ port c (x : Byte) s, s.svc.ownsem = port + 1 → c < 96 → s.svc.limits.length = 96 → (∀ y ∈ s.svc.limits, y ≤ 2) → 1 ≤ s.svc.fclkLimit → s.svc.fclkLimit ≤ 180 →
    ∃ u, exec (.globalConfigWrite port (0x100 + c) [x]) s = .next u ∧ u.svc.limits = (if x.toNat ≤ 2 then s.svc.limits.set c x.toNat else s.svc.limits)
      ∧ u.svc.fclkLimit = s.svc.fclkLimit ∧ (2 < x.toNat → ∃ e, u.svc.log.head? = some e ∧ e.code = 5 ∧ e.unit = port ∧ e.addr = 0x100 + c))
  ∧ (∀ port off bs s, isGlobal off = true → s.svc.ownsem ≠ port + 1 → ∃ u, exec (.globalConfigWrite port off bs) s = .next u
      ∧ u.svc.qtbase = s.svc.qtbase ∧ u.svc.dbbase = s.svc.dbbase ∧ u.svc.limits = s.svc.limits ∧ u.svc.fclkLimit = s.svc.fclkLimit
      ∧ u.svc.ctxStore = s.svc.ctxStore ∧ u.svc.repairMap = s.svc.repairMap
      ∧ (bs ≠ [] → bs.length ≤ spaceRun off → ∃ e, u.svc.log.head? = some e ∧ e.code = 5 ∧ e.unit = port ∧ e.addr = off ∧ e.arg = leNat bs % 2 ^ 64))
  ∧ (∀ port c x s, c < 4096 → x < 2 ^ 64 → ∃ u, exec (.contextTableWrite port (0x100000 + 256 * c) (leBytes 8 x)) s = .next u ∧ (u.svc.ctx c).troot = x
      ∧ u.mem = s.mem ∧ ∀ c', c' ≠ c → u.svc.ctx c' = s.svc.ctx c')
  ∧ (∀ s, ReadsBack s)
  ∧ (∀ port cmd i s, port < 2 → (s.port port).mb.status ≠ 0xFF → s.svc.fwok = true → commandOf port cmd (s.port port).mb.arg0 (s.port port).mb.arg1 = some i →
    ∃ u, exec (.registerWrite port (0x1000 + 64 * port) [cmd]) s = .next u ∧ (u.port port).mb.cmd = cmd ∧ (u.port port).mb.status = 0xFF ∧ (u.port port).mb.via = port ∧ ((u.port port).mb.own = true ↔ s.svc.ownsem = port + 1)
      ∧ u.agenda = s.agenda ++ [.act i] ∧ u.mem = s.mem)

/-- The mailbox commands on grids and queues, and their ends (26 R448, R454, 22 R427, R435, 13 R276, 21 R415, 03 R66). Where no live grid has the name, STATUS reads
NOGRID and nothing else changes; ENDGRID reports the same of a grid whose last workgroup has exited, while the other commands still name it. A PREEMPT of a gang that has exited in this
FCLK goes to what runs next on its cores (03 R58, 19 R390); a gang that RESUME releases joins the candidates behind those saved before (notes/assumptions/33). A CUT of a grid whose cut already runs joins it, and its end answers every port that asked: that is the model's reading (notes/assumptions/26). -/
def Obligations.GridCommands : Prop :=
  (∀ port name arg s, (∀ d ∈ s.grids, d.st = .live → d.name ≠ name.toNat) →
    ∀ i ∈ [Instr.preempt port name arg, .resume port name arg, .endgrid port name, .cut port name, .quotaadd port name arg], exec i s = .next (s.setStatus port 1))
  ∧ (∀ port name s, (∀ d ∈ s.grids, d.st = .live → d.name = name.toNat → s.gridOver d = true) → exec (.endgrid port name) s = .next (s.setStatus port 1))
  ∧ (∀ (name : W64) (s : State) d, d ∈ s.grids → d.st = .live → d.name = name.toNat → ∃ x, s.gridNamed name = some x ∧ x ∈ s.grids ∧ x.st = .live ∧ x.name = name.toNat
      ∧ (s.gridOver x = true → ∀ y ∈ s.grids, y.st = .live → y.name = name.toNat → s.gridOver y = true))
  ∧ (∀ port name (arg : W64) s d, let gang := arg.toNat % 2 ^ 63
      s.gridNamed name = some d → gang < d.desc.gangs → gang ≠ 2 ^ 63 - 1 → (s.gangWgs d.gid gang ≠ [] ∨ s.gangResuming d.gid gang = true) →
      exec (.preempt port name arg) s = .next ((gangAsked s d.gid gang (if arg.getLsbD 63 then .hostHold else .host)).setStatus port 0))
  ∧ (∀ port name (arg : W64) s d, let gang := arg.toNat % 2 ^ 63
      s.gridNamed name = some d → gang < d.desc.gangs → gang ≠ 2 ^ 63 - 1 → s.gangWgs d.gid gang = [] → s.gangResuming d.gid gang = false →
      (∀ x ∈ s.exits, ¬(x.1 = d.gid ∧ x.2.1 = gang)) → s.grid? d.gid = some d →
      (arg.getLsbD 63 = false → exec (.preempt port name arg) s = .next (s.setStatus port 0))
      ∧ (arg.getLsbD 63 = true → port < 2 → ∃ u, exec (.preempt port name arg) s = .next u ∧ (u.port port).mb.status = 0 ∧ u.groups = s.groups ∧ u.saved.length = s.saved.length
          ∧ ∀ r ∈ s.savedGang d.gid gang, ∃ r' ∈ u.saved, r'.order = r.order ∧ r'.wg = r.wg ∧ r'.groups = r.groups ∧ r'.held = true))
  ∧ (∀ port name (arg : W64) s d x, let gang := arg.toNat % 2 ^ 63
      s.gridNamed name = some d → gang < d.desc.gangs → gang ≠ 2 ^ 63 - 1 → s.gangWgs d.gid gang = [] → s.gangResuming d.gid gang = false →
      s.exits.find? (fun x => x.1 == d.gid && x.2.1 == gang) = some x →
      exec (.preempt port name arg) s = .next (({ s with owed := s.owed ++ x.2.2.map fun c => (c, if arg.getLsbD 63 then StopReason.hostHold else StopReason.host) }).setStatus port 0))
  ∧ (∀ port name (arg : W64) s d, arg.toNat % 2 ^ 63 = 2 ^ 63 - 1 → port < 2 → s.gridNamed name = some d → s.grid? d.gid = some d → 1 ≤ d.desc.gang →
      ∃ u, exec (.preempt port name arg) s = .next u ∧ (u.port port).mb.status = 0 ∧ u.mem = s.mem ∧ u.groups = s.groups
      ∧ ∀ w ∈ s.wgs, w.gid = d.gid → s.wgGroups w.gid w.lw ≠ [] → asked s.fclk (if arg.getLsbD 63 then .hostHold else .host) w ∈ u.wgs)
  ∧ (∀ port name gang s d, port < 2 → s.gridNamed name = some d → gang.toNat < d.desc.gangs → (s.saved.map SavedWg.order).Nodup →
      ∃ u, exec (.resume port name gang) s = .next u ∧ (u.port port).mb.status = 0 ∧ u.mem = s.mem ∧ u.groups = s.groups ∧ u.saved.length = s.saved.length
      ∧ ∀ r ∈ s.savedGang d.gid gang.toNat, ∃ r' ∈ u.saved, r'.order = r.order ∧ r'.wg = r.wg ∧ r'.groups = r.groups ∧ r'.held = false ∧ (r.held = false → r' = r) ∧ (r.held = true → s.nextName ≤ r'.rank))
  ∧ (∀ port name s d, port < 2 → s.gridNamed name = some d → s.gridOver d = false → s.grid? d.gid = some d → ∃ u d', exec (.endgrid port name) s = .next u ∧ (u.port port).mb.status = 0
      ∧ u.grid? d.gid = some d' ∧ d'.st = .retired ∧ (∀ g ∈ u.groups, g.gid ≠ d.gid) ∧ (∀ w ∈ u.wgs, w.gid ≠ d.gid) ∧ (∀ r ∈ u.saved, r.wg.gid ≠ d.gid)
      ∧ ∀ p, s.pkt? d.q d.pi = some p → u.pkt? d.q d.pi = some { p with work := .ready, err := if p.err = 0 then 9 else p.err })
  ∧ (∀ port name s d, s.gridNamed name = some d → s.grid? d.gid = some d → ∃ u k, exec (.cut port name) s = .next u ∧ u.mem = s.mem ∧ u.groups = s.groups
      ∧ u.grid? d.gid = some { d with cut := d.cut ++ [port], cutMax := k } ∧ (d.cut ≠ [] → k = d.cutMax)
      ∧ (d.cut = [] → (∀ r ∈ s.saved, r.wg.gid = d.gid → ∀ g ∈ r.groups, g.stepn.toNat / 2 ^ 16 ≤ k)
          ∧ (k = 0 ∨ ∃ r ∈ s.saved, r.wg.gid = d.gid ∧ ∃ g ∈ r.groups, g.stepn.toNat / 2 ^ 16 = k)))
  ∧ (∀ gid s d, s.grid? gid = some d → d.cut ≠ [] → s.cutReached d = true → (∀ p ∈ d.cut, p < 2) → ∃ u, exec (.cutComplete gid) s = .next u ∧ u.mem = s.mem
      ∧ u.grid? gid = some { d with cut := [], cutMax := 0 } ∧ ∀ p ∈ d.cut, (u.port p).mb.status = 0)
  ∧ (∀ gid s d, s.grid? gid = some d → s.cutReached d = false → exec (.cutComplete gid) s = .next s)
  ∧ (∀ port c range s, port < 2 → c.toNat < 4096 → ∃ u, exec (.inval port c range) s = .next u ∧ u.mem = s.mem ∧ (u.port port).inval = some (c.toNat, range.toNat))
  ∧ (∀ port c range s, 4096 ≤ c.toNat → exec (.inval port c range) s = .next (s.setStatus port 2))
  ∧ (∀ port s c x, let lo := x % 2 ^ 57 / 2 ^ 12 * 2 ^ 12
      let waits : Prop := ∃ g ∈ s.groups, s.ctxOfGrid g.gid = c ∧ ∃ w ∈ g.mid.toList ++ g.late.map Late.word, ∃ a ∈ w.accs.drop w.done, (∃ p, a.place = .glob p) ∧ lo ≤ a.ea ∧ a.ea < lo + 2 ^ (x % 64)
      port < 2 → (s.port port).inval = some (c, x) →
      (waits → exec (.invalComplete port) s = .next s)
      ∧ (¬waits → ∃ u, exec (.invalComplete port) s = .next u ∧ u.mem = s.mem ∧ (u.port port).inval = none ∧ (u.port port).mb.status = 0
        ∧ ∃ v ∈ u.order.invals, v.ctx = c ∧ v.lo = lo ∧ v.hi = lo + 2 ^ (x % 64) ∧ v.stamp = s.order.stamp))
  ∧ (∀ port name uj s d, port < 2 → s.gridNamed name = some d → s.grid? d.gid = some d → d.unl = false → ∃ u d', exec (.quotaadd port name uj) s = .next u
      ∧ (u.port port).mb.status = 0 ∧ u.mem = s.mem ∧ u.grid? d.gid = some d' ∧ d'.left = d.left + uj.toNat ∧ (uj ≠ 0 → d'.quotaHeld = false))
  ∧ (∀ port name uj s d, s.gridNamed name = some d → d.unl = true → exec (.quotaadd port name uj) s = .next (s.setStatus port 2))
  ∧ (∀ port q s, port < 2 → (s.port port).mb.own = true → q.toNat < 65536 → q.toNat ∈ s.stoker.faulted → ∃ u, exec (.endqf port q) s = .next u
      ∧ (u.port port).mb.status = 0 ∧ q.toNat ∉ u.stoker.faulted ∧ u.groups = s.groups)
  ∧ (∀ port a b s, port < 2 → (s.port port).mb.own = false → ∀ i ∈ [Instr.endqf port a, .repair port a b, .fwload port a b],
    ∃ u e, exec i s = .next u ∧ (u.port port).mb.status = 3 ∧ u.svc.log.head? = some e ∧ e.code = 5 ∧ e.unit = (s.port port).mb.via
      ∧ u.stoker = s.stoker ∧ u.svc.repairMap = s.svc.repairMap ∧ u.svc.image = s.svc.image ∧ u.mem = s.mem)

/-- The commands of service, reset and power (26 R454-R461, R452; 01 R24): REPAIR marks its slot and takes effect once the unit holds no work; ATTEST spends a leaf before it
signs; FWLOAD stores an image that verifies and refuses another; RECREAD and RECWRITE copy a record to and from host memory; a unit lost without a spare is logged; a reset keeps
memory, the repair map but for the stoker's USED byte, the stored image and the leaf counter; power loss loses device memory. That lost memory reads 0, that the error log
records a repair as it takes effect, that ATTEST is two steps of the agenda, that RECREAD tests the alignment of its address before the entry, and that a record whose host address
runs past the 2^56 bytes of a port is BADARG, are the model's choices (notes/assumptions/3, 36, 38, 39, 49). -/
def Obligations.ServiceResetPower : Prop :=
  (∀ port off unit first n s, port < 2 → (s.port port).mb.own = true → repairUnits off.toNat = some (first, n) → first ≤ unit.toNat → unit.toNat < first + n →
      slotUsed s.svc off.toNat = false → memWf s.svc.repairMap = true → ∃ u, exec (.repair port off unit) s = .next u ∧ (u.port port).mb.status = 0 ∧ u.mem = s.mem
      ∧ slotUsed u.svc off.toNat = true ∧ slotReplaced u.svc off.toNat = unit.toNat)
  ∧ (∀ slot s, (repairUnits slot).isSome = true → slotUsed s.svc slot = true → slot ∉ s.svc.inEffect → s.unitIdle slot = true →
    ∃ u e, exec (.repairTakesEffect slot) s = .next u ∧ u.mem = s.mem ∧ slotWorks u.svc slot = true ∧ u.svc.log.head? = some e ∧ e.code = 4 ∧ e.unit = slot
      ∧ e.detail = slotReplaced s.svc slot)
  ∧ (∀ d unit (s : State), d < 8 → (12 * d ≤ unit ∧ unit < 12 * d + 12 ∨ unit = 96 + d) → unit < s.units.clusters.length → slotUsed s.svc (4 * d) = true →
    ∃ e, (s.loseUnit (4 * d) unit).svc.log.head? = some e ∧ e.code = 4 ∧ e.unit = 0xFFFF ∧ e.detail = unit ∧ ((s.loseUnit (4 * d) unit).clusterAt unit).out = true)
  ∧ (∀ port s, port < 2 → (s.port port).leaf = none → (∀ p ∈ s.svc.ports, p.leaf = none) → s.svc.leaf < 2 ^ 20 → ∃ u, exec (.attest port) s = .next u ∧ u.mem = s.mem
      ∧ u.svc.leaf = s.svc.leaf + 1 ∧ (u.port port).leaf = some s.svc.leaf ∧ u.agenda = s.agenda ++ [.act (.attest port)])
  ∧ (∀ port s, (s.port port).leaf = none → (∀ p ∈ s.svc.ports, p.leaf = none) → 2 ^ 20 ≤ s.svc.leaf → exec (.attest port) s = .next (s.setStatus port 5))
  ∧ (∀ port s i, port < 2 → (s.port port).leaf = some i → ∃ u, exec (.attest port) s = .next u ∧ u.mem = s.mem ∧ (u.port port).leaf = none
      ∧ (u.port port).mb.status = 0 ∧ u.svc.leaf = s.svc.leaf ∧ (memWf (s.port port).att = true → memNat (u.port port).att 0x28 4 = i % 2 ^ 32))
  ∧ (∀ port addr len s, port < 2 → (s.port port).mb.own = true → s.svc.fwok = true → addr.toNat % 4096 = 0 → len.toNat % 4096 = 0 → 2 ^ 16 ≤ len.toNat →
      len.toNat ≤ 2 ^ 24 → addr.toNat + len.toNat ≤ 2 ^ 56 →
    let bs := loadBytes s 0 (hostAddr port addr.toNat) len.toNat
    ∃ u, exec (.fwload port addr len) s = .next u ∧ (u.port port).mb.status = (if Config.imageVerifies bs then 0 else 4) ∧ u.mem = s.mem
      ∧ u.svc.running = s.svc.running ∧ u.svc.image = if Config.imageVerifies bs then bs else s.svc.image)
  ∧ (∀ port idx addr s r, port < 2 → addr.toNat % 4096 = 0 → s.savedAt idx.toNat = some r → addr.toNat + r.size ≤ 2 ^ 56 → ∃ u, exec (.recread port idx addr) s = .next u
      ∧ (u.port port).mb.status = 0 ∧ u.saved = s.saved ∧ u.mem = (s.putBytes (s.hostWriter port) (hostAddr port addr.toNat) (s.recordNow r).bytes).mem)
  ∧ (∀ port idx addr s, s.savedAt idx.toNat = none → exec (.recread port idx addr) s = .next (s.setStatus port (if addr.toNat % 4096 = 0 then 1 else 2)))
  ∧ (∀ port idx addr s r r', port < 2 → addr.toNat % 4096 = 0 → s.savedAt idx.toNat = some r → addr.toNat + r.size ≤ 2 ^ 56 →
      (r.held = true ∨ r.byQuota = true ∧ s.quotaHeld r.wg.gid = true) → r.spilled = false →
      r.rewrite (loadBytes s 0 (hostAddr port addr.toNat) r.size) = some r' → ∃ u, exec (.recwrite port idx addr) s = .next u ∧ (u.port port).mb.status = 0
      ∧ u.mem = s.mem ∧ r' ∈ u.saved)
  ∧ (∀ port idx addr s r, s.savedAt idx.toNat = some r → (addr.toNat % 4096 ≠ 0 ∨ 2 ^ 56 < addr.toNat + r.size ∨ r.held = false ∧ (r.byQuota = false ∨ s.quotaHeld r.wg.gid = false)) →
      exec (.recwrite port idx addr) s = .next (s.setStatus port 2))
  ∧ (∀ s, ∃ u, exec .moduleReset s = .next u ∧ u.mem = s.mem ∧ u.groups = [] ∧ u.grids = [] ∧ u.svc.qtbase = 0 ∧ u.svc.dbbase = 0 ∧ u.svc.ownsem = 0
      ∧ u.svc.image = s.svc.image ∧ u.svc.running = s.svc.image ∧ u.svc.leaf = s.svc.leaf ∧ u.fclk = 0
      ∧ (memWf s.svc.repairMap = true → ∀ x, x ≠ 0x3E3 → memGet u.svc.repairMap x = memGet s.svc.repairMap x))
  ∧ (∀ s, s.memOk → ∃ u, exec .powerLoss s = .next u ∧ u.memOk ∧ u.groups = [] ∧ (∀ x, x < 2 ^ 57 → memGet u.mem x = 0)
      ∧ (∀ x, 2 ^ 57 ≤ x → memGet u.mem x = memGet s.mem x) ∧ u.svc.leaf = s.svc.leaf ∧ u.svc.image = s.svc.image)
end

