-- ==== Sys2Proof/Laws/Memory.lean ====
section
/-!
SUPPORT. Memory: a read after a write, other addresses unchanged, and every memory operation keeps the canonical form.
-/
namespace Sys2Proof.Machine

theorem memWfFrom_mono {lo lo' : Nat} {m : Memory} (h : lo ≤ lo') (hw : memWfFrom lo' m = true) : memWfFrom lo m = true := by
  cases m with
  | nil => rfl
  | cons c m =>
    simp only [memWfFrom, Bool.and_eq_true, decide_eq_true_eq] at hw ⊢
    exact ⟨⟨by omega, hw.1.2⟩, hw.2⟩

theorem memSet_wfFrom {lo : Nat} {m : Memory} {a : Nat} {b : Byte} (ha : lo ≤ a) (hw : memWfFrom lo m = true) :
    memWfFrom lo (memSet m a b) = true := by
  induction m generalizing lo with
  | nil =>
    simp only [memSet]
    split
    · rfl
    · simp_all [memWfFrom]
  | cons c m ih =>
    simp only [memWfFrom, Bool.and_eq_true, decide_eq_true_eq] at hw
    simp only [memSet]
    split
    · split
      · simp_all [memWfFrom]
      · simp only [memWfFrom, Bool.and_eq_true, decide_eq_true_eq]
        refine ⟨⟨ha, ?_⟩, ⟨by omega, hw.1.2⟩, hw.2⟩
        simpa using ‹¬b = Config.memDefault›
    · split
      · split
        · exact memWfFrom_mono (by omega) hw.2
        · simp only [memWfFrom, Bool.and_eq_true, decide_eq_true_eq]
          refine ⟨⟨ha, ?_⟩, ?_⟩
          · simpa using ‹¬b = Config.memDefault›
          · rw [‹a = c.1›]; exact hw.2
      · simp only [memWfFrom, Bool.and_eq_true, decide_eq_true_eq]
        exact ⟨hw.1, ih (by omega) hw.2⟩

/-- One byte written keeps the canonical form. -/
theorem memSet_wf {m : Memory} {a : Nat} {b : Byte} (hw : memWf m = true) : memWf (memSet m a b) = true :=
  memSet_wfFrom (Nat.zero_le a) hw

/-- Bytes written keep the canonical form. -/
theorem memWrite_wf {m : Memory} {a : Nat} {bs : List Byte} (hw : memWf m = true) : memWf (memWrite m a bs) = true := by
  induction bs generalizing m a with
  | nil => exact hw
  | cons b bs ih => exact ih (memSet_wf hw)

theorem memWf_nil : memWf [] = true := rfl

/-- Cells removed from a canonical memory leave a canonical memory. -/
theorem filter_wfFrom {lo : Nat} {m : Memory} (p : Host.Cell → Bool) (hw : memWfFrom lo m = true) : memWfFrom lo (m.filter p) = true := by
  induction m generalizing lo with
  | nil => rfl
  | cons c m ih =>
    simp only [memWfFrom, Bool.and_eq_true, decide_eq_true_eq] at hw
    simp only [List.filter_cons]
    split
    · simp only [memWfFrom, Bool.and_eq_true, decide_eq_true_eq]
      exact ⟨hw.1, ih hw.2⟩
    · exact memWfFrom_mono (by omega) (ih hw.2)
theorem filter_wf {m : Memory} (p : Host.Cell → Bool) (hw : memWf m = true) : memWf (m.filter p) = true := filter_wfFrom p hw

theorem memGet_below {lo a : Nat} {m : Memory} (h : a < lo) (hw : memWfFrom lo m = true) : memGet m a = Config.memDefault := by
  cases m with
  | nil => rfl
  | cons c m =>
    simp only [memWfFrom, Bool.and_eq_true, decide_eq_true_eq] at hw
    simp only [memGet]
    rw [if_pos (by omega)]

/-- A read after a write of the same byte. -/
theorem memGet_memSet_self {lo : Nat} {m : Memory} (a : Nat) (b : Byte) (hw : memWfFrom lo m = true) : memGet (memSet m a b) a = b := by
  induction m generalizing lo with
  | nil =>
    simp only [memSet]
    split <;> simp_all [memGet]
  | cons c m ih =>
    simp only [memWfFrom, Bool.and_eq_true, decide_eq_true_eq] at hw
    simp only [memSet]
    split
    · split
      · simp_all [memGet]
      · simp [memGet]
    · split
      · split
        · rw [memGet_below (lo := c.1 + 1) (by omega) hw.2]; exact Eq.symm ‹_›
        · simp [memGet]
      · simp only [memGet]
        rw [if_neg ‹_›, if_neg ‹_›]
        exact ih hw.2

/-- A write leaves every other byte alone. -/
theorem memGet_memSet_of_ne {lo : Nat} {m : Memory} {a x : Nat} (b : Byte) (hx : x ≠ a) (hw : memWfFrom lo m = true) :
    memGet (memSet m a b) x = memGet m x := by
  induction m generalizing lo with
  | nil =>
    simp only [memSet]
    split
    · rfl
    · simp only [memGet]
      split <;> rfl
  | cons c m ih =>
    simp only [memWfFrom, Bool.and_eq_true, decide_eq_true_eq] at hw
    simp only [memSet]
    split
    · split
      · rfl
      · simp only [memGet, if_neg hx]
        split
        · rw [if_pos (by omega)]
        · rfl
    · split
      · split
        · simp only [memGet]
          split
          · exact memGet_below (by omega) (memWfFrom_mono (by omega) hw.2)
          · split
            · omega
            · rfl
        · simp only [memGet]
          split
          · split
            · rfl
            · omega
          · rw [if_neg (by omega), if_neg (by omega)]
      · simp only [memGet]
        split
        · rfl
        · split
          · rfl
          · exact ih hw.2

/-- Bytes written at `a` leave every byte outside them alone. -/
theorem memGet_memWrite_outside {m : Memory} {a x : Nat} {bs : List Byte} (h : x < a ∨ a + bs.length ≤ x) (hw : memWf m = true) :
    memGet (memWrite m a bs) x = memGet m x := by
  induction bs generalizing m a with
  | nil => rfl
  | cons b bs ih =>
    simp only [List.length_cons] at h
    simp only [memWrite]
    rw [ih (by omega) (memSet_wf hw)]
    exact memGet_memSet_of_ne b (by omega) hw

/-- Byte `i` of what was written reads back. -/
theorem memGet_memWrite {m : Memory} {a i : Nat} {bs : List Byte} (hi : i < bs.length) (hw : memWf m = true) :
    memGet (memWrite m a bs) (a + i) = bs[i] := by
  induction bs generalizing m a i with
  | nil => exact absurd hi (Nat.not_lt_zero i)
  | cons b bs ih =>
    simp only [memWrite]
    cases i with
    | zero =>
      rw [memGet_memWrite_outside (by omega) (memSet_wf hw)]
      exact memGet_memSet_self a b hw
    | succ i =>
      simp only [List.length_cons] at hi
      have := ih (a := a + 1) (i := i) (by omega) (memSet_wf (a := a) (b := b) hw)
      rw [show a + (i + 1) = a + 1 + i by omega, this]
      rfl

/-- A write through a port or by a program keeps the canonical form. -/
theorem putBytes_wf {s : State} {w : Writer} {p : Nat} {bs : List Byte} (hw : memWf s.mem = true) : memWf (s.putBytes w p bs).mem = true := by
  unfold State.putBytes
  split
  · exact hw
  · split
    · exact hw
    · exact memWrite_wf hw

/-- What a write leaves of memory: the doorbell window swallows it, a dead link drops it, or its bytes stand there. -/
theorem putBytes_mem (s : State) (w : Writer) (p : Nat) (bs : List Byte) :
    (s.putBytes w p bs).mem = s.mem ∨ (s.putBytes w p bs).mem = memWrite s.mem p bs := by
  unfold State.putBytes
  split
  · exact .inl rfl
  · split
    · exact .inl rfl
    · exact .inr rfl

end Sys2Proof.Machine
end

