-- ==== Sys2Proof/Laws/State.lean ====
section
/-!
SUPPORT. What each update of the state and of a group leaves unchanged, field by field, and what it sets.
-/
namespace Sys2Proof.Machine

@[simp] theorem State.setGroup_mem (s : State) (g : Group) : (s.setGroup g).mem = s.mem := rfl
@[simp] theorem State.setGroup_eccBad (s : State) (g : Group) : (s.setGroup g).eccBad = s.eccBad := rfl
@[simp] theorem State.setGroup_wgs (s : State) (g : Group) : (s.setGroup g).wgs = s.wgs := rfl
@[simp] theorem State.setGroup_saved (s : State) (g : Group) : (s.setGroup g).saved = s.saved := rfl
@[simp] theorem State.setGroup_resuming (s : State) (g : Group) : (s.setGroup g).resuming = s.resuming := rfl
@[simp] theorem State.setGroup_grids (s : State) (g : Group) : (s.setGroup g).grids = s.grids := rfl
@[simp] theorem State.setGroup_jobs (s : State) (g : Group) : (s.setGroup g).jobs = s.jobs := rfl
@[simp] theorem State.setGroup_stoker (s : State) (g : Group) : (s.setGroup g).stoker = s.stoker := rfl
@[simp] theorem State.setGroup_units (s : State) (g : Group) : (s.setGroup g).units = s.units := rfl
@[simp] theorem State.setGroup_svc (s : State) (g : Group) : (s.setGroup g).svc = s.svc := rfl
@[simp] theorem State.setGroup_fclk (s : State) (g : Group) : (s.setGroup g).fclk = s.fclk := rfl
@[simp] theorem State.setGroup_us (s : State) (g : Group) : (s.setGroup g).us = s.us := rfl
@[simp] theorem State.setGroup_usFrac (s : State) (g : Group) : (s.setGroup g).usFrac = s.usFrac := rfl
@[simp] theorem State.setGroup_agenda (s : State) (g : Group) : (s.setGroup g).agenda = s.agenda := rfl
@[simp] theorem State.setGroup_cur (s : State) (g : Group) : (s.setGroup g).cur = s.cur := rfl
@[simp] theorem State.setGroup_free (s : State) (g : Group) : (s.setGroup g).free = s.free := rfl
@[simp] theorem State.setGroup_nextName (s : State) (g : Group) : (s.setGroup g).nextName = s.nextName := rfl
@[simp] theorem State.setGroup_turns (s : State) (g : Group) : (s.setGroup g).turns = s.turns := rfl
@[simp] theorem State.setGroup_order (s : State) (g : Group) : (s.setGroup g).order = s.order := rfl
@[simp] theorem State.setGroup_seat (s : State) (g : Group) : (s.setGroup g).seat = s.seat := rfl
@[simp] theorem State.setGroup_exits (s : State) (g : Group) : (s.setGroup g).exits = s.exits := rfl
@[simp] theorem State.setGroup_owed (s : State) (g : Group) : (s.setGroup g).owed = s.owed := rfl
@[simp] theorem State.setWg_mem (s : State) (w : Wg) : (s.setWg w).mem = s.mem := rfl
@[simp] theorem State.setWg_eccBad (s : State) (w : Wg) : (s.setWg w).eccBad = s.eccBad := rfl
@[simp] theorem State.setWg_groups (s : State) (w : Wg) : (s.setWg w).groups = s.groups := rfl
@[simp] theorem State.setWg_saved (s : State) (w : Wg) : (s.setWg w).saved = s.saved := rfl
@[simp] theorem State.setWg_resuming (s : State) (w : Wg) : (s.setWg w).resuming = s.resuming := rfl
@[simp] theorem State.setWg_grids (s : State) (w : Wg) : (s.setWg w).grids = s.grids := rfl
@[simp] theorem State.setWg_jobs (s : State) (w : Wg) : (s.setWg w).jobs = s.jobs := rfl
@[simp] theorem State.setWg_stoker (s : State) (w : Wg) : (s.setWg w).stoker = s.stoker := rfl
@[simp] theorem State.setWg_units (s : State) (w : Wg) : (s.setWg w).units = s.units := rfl
@[simp] theorem State.setWg_svc (s : State) (w : Wg) : (s.setWg w).svc = s.svc := rfl
@[simp] theorem State.setWg_fclk (s : State) (w : Wg) : (s.setWg w).fclk = s.fclk := rfl
@[simp] theorem State.setWg_us (s : State) (w : Wg) : (s.setWg w).us = s.us := rfl
@[simp] theorem State.setWg_usFrac (s : State) (w : Wg) : (s.setWg w).usFrac = s.usFrac := rfl
@[simp] theorem State.setWg_agenda (s : State) (w : Wg) : (s.setWg w).agenda = s.agenda := rfl
@[simp] theorem State.setWg_cur (s : State) (w : Wg) : (s.setWg w).cur = s.cur := rfl
@[simp] theorem State.setWg_free (s : State) (w : Wg) : (s.setWg w).free = s.free := rfl
@[simp] theorem State.setWg_nextName (s : State) (w : Wg) : (s.setWg w).nextName = s.nextName := rfl
@[simp] theorem State.setWg_turns (s : State) (w : Wg) : (s.setWg w).turns = s.turns := rfl
@[simp] theorem State.setWg_order (s : State) (w : Wg) : (s.setWg w).order = s.order := rfl
@[simp] theorem State.setWg_seat (s : State) (w : Wg) : (s.setWg w).seat = s.seat := rfl
@[simp] theorem State.setWg_exits (s : State) (w : Wg) : (s.setWg w).exits = s.exits := rfl
@[simp] theorem State.setWg_owed (s : State) (w : Wg) : (s.setWg w).owed = s.owed := rfl
@[simp] theorem State.modWg_mem (s : State) (gid lw : Nat) (f : Wg → Wg) : (s.modWg gid lw f).mem = s.mem := rfl
@[simp] theorem State.modWg_eccBad (s : State) (gid lw : Nat) (f : Wg → Wg) : (s.modWg gid lw f).eccBad = s.eccBad := rfl
@[simp] theorem State.modWg_groups (s : State) (gid lw : Nat) (f : Wg → Wg) : (s.modWg gid lw f).groups = s.groups := rfl
@[simp] theorem State.modWg_saved (s : State) (gid lw : Nat) (f : Wg → Wg) : (s.modWg gid lw f).saved = s.saved := rfl
@[simp] theorem State.modWg_resuming (s : State) (gid lw : Nat) (f : Wg → Wg) : (s.modWg gid lw f).resuming = s.resuming := rfl
@[simp] theorem State.modWg_grids (s : State) (gid lw : Nat) (f : Wg → Wg) : (s.modWg gid lw f).grids = s.grids := rfl
@[simp] theorem State.modWg_jobs (s : State) (gid lw : Nat) (f : Wg → Wg) : (s.modWg gid lw f).jobs = s.jobs := rfl
@[simp] theorem State.modWg_stoker (s : State) (gid lw : Nat) (f : Wg → Wg) : (s.modWg gid lw f).stoker = s.stoker := rfl
@[simp] theorem State.modWg_units (s : State) (gid lw : Nat) (f : Wg → Wg) : (s.modWg gid lw f).units = s.units := rfl
@[simp] theorem State.modWg_svc (s : State) (gid lw : Nat) (f : Wg → Wg) : (s.modWg gid lw f).svc = s.svc := rfl
@[simp] theorem State.modWg_fclk (s : State) (gid lw : Nat) (f : Wg → Wg) : (s.modWg gid lw f).fclk = s.fclk := rfl
@[simp] theorem State.modWg_us (s : State) (gid lw : Nat) (f : Wg → Wg) : (s.modWg gid lw f).us = s.us := rfl
@[simp] theorem State.modWg_usFrac (s : State) (gid lw : Nat) (f : Wg → Wg) : (s.modWg gid lw f).usFrac = s.usFrac := rfl
@[simp] theorem State.modWg_agenda (s : State) (gid lw : Nat) (f : Wg → Wg) : (s.modWg gid lw f).agenda = s.agenda := rfl
@[simp] theorem State.modWg_cur (s : State) (gid lw : Nat) (f : Wg → Wg) : (s.modWg gid lw f).cur = s.cur := rfl
@[simp] theorem State.modWg_free (s : State) (gid lw : Nat) (f : Wg → Wg) : (s.modWg gid lw f).free = s.free := rfl
@[simp] theorem State.modWg_nextName (s : State) (gid lw : Nat) (f : Wg → Wg) : (s.modWg gid lw f).nextName = s.nextName := rfl
@[simp] theorem State.modWg_turns (s : State) (gid lw : Nat) (f : Wg → Wg) : (s.modWg gid lw f).turns = s.turns := rfl
@[simp] theorem State.modWg_order (s : State) (gid lw : Nat) (f : Wg → Wg) : (s.modWg gid lw f).order = s.order := rfl
@[simp] theorem State.modWg_seat (s : State) (gid lw : Nat) (f : Wg → Wg) : (s.modWg gid lw f).seat = s.seat := rfl
@[simp] theorem State.modWg_exits (s : State) (gid lw : Nat) (f : Wg → Wg) : (s.modWg gid lw f).exits = s.exits := rfl
@[simp] theorem State.modWg_owed (s : State) (gid lw : Nat) (f : Wg → Wg) : (s.modWg gid lw f).owed = s.owed := rfl
@[simp] theorem State.setGrid_mem (s : State) (d : Grid) : (s.setGrid d).mem = s.mem := rfl
@[simp] theorem State.setGrid_eccBad (s : State) (d : Grid) : (s.setGrid d).eccBad = s.eccBad := rfl
@[simp] theorem State.setGrid_groups (s : State) (d : Grid) : (s.setGrid d).groups = s.groups := rfl
@[simp] theorem State.setGrid_wgs (s : State) (d : Grid) : (s.setGrid d).wgs = s.wgs := rfl
@[simp] theorem State.setGrid_saved (s : State) (d : Grid) : (s.setGrid d).saved = s.saved := rfl
@[simp] theorem State.setGrid_resuming (s : State) (d : Grid) : (s.setGrid d).resuming = s.resuming := rfl
@[simp] theorem State.setGrid_jobs (s : State) (d : Grid) : (s.setGrid d).jobs = s.jobs := rfl
@[simp] theorem State.setGrid_stoker (s : State) (d : Grid) : (s.setGrid d).stoker = s.stoker := rfl
@[simp] theorem State.setGrid_units (s : State) (d : Grid) : (s.setGrid d).units = s.units := rfl
@[simp] theorem State.setGrid_svc (s : State) (d : Grid) : (s.setGrid d).svc = s.svc := rfl
@[simp] theorem State.setGrid_fclk (s : State) (d : Grid) : (s.setGrid d).fclk = s.fclk := rfl
@[simp] theorem State.setGrid_us (s : State) (d : Grid) : (s.setGrid d).us = s.us := rfl
@[simp] theorem State.setGrid_usFrac (s : State) (d : Grid) : (s.setGrid d).usFrac = s.usFrac := rfl
@[simp] theorem State.setGrid_agenda (s : State) (d : Grid) : (s.setGrid d).agenda = s.agenda := rfl
@[simp] theorem State.setGrid_cur (s : State) (d : Grid) : (s.setGrid d).cur = s.cur := rfl
@[simp] theorem State.setGrid_free (s : State) (d : Grid) : (s.setGrid d).free = s.free := rfl
@[simp] theorem State.setGrid_nextName (s : State) (d : Grid) : (s.setGrid d).nextName = s.nextName := rfl
@[simp] theorem State.setGrid_turns (s : State) (d : Grid) : (s.setGrid d).turns = s.turns := rfl
@[simp] theorem State.setGrid_order (s : State) (d : Grid) : (s.setGrid d).order = s.order := rfl
@[simp] theorem State.setGrid_seat (s : State) (d : Grid) : (s.setGrid d).seat = s.seat := rfl
@[simp] theorem State.setGrid_exits (s : State) (d : Grid) : (s.setGrid d).exits = s.exits := rfl
@[simp] theorem State.setGrid_owed (s : State) (d : Grid) : (s.setGrid d).owed = s.owed := rfl
@[simp] theorem State.modGrid_mem (s : State) (gid : Nat) (f : Grid → Grid) : (s.modGrid gid f).mem = s.mem := rfl
@[simp] theorem State.modGrid_eccBad (s : State) (gid : Nat) (f : Grid → Grid) : (s.modGrid gid f).eccBad = s.eccBad := rfl
@[simp] theorem State.modGrid_groups (s : State) (gid : Nat) (f : Grid → Grid) : (s.modGrid gid f).groups = s.groups := rfl
@[simp] theorem State.modGrid_wgs (s : State) (gid : Nat) (f : Grid → Grid) : (s.modGrid gid f).wgs = s.wgs := rfl
@[simp] theorem State.modGrid_saved (s : State) (gid : Nat) (f : Grid → Grid) : (s.modGrid gid f).saved = s.saved := rfl
@[simp] theorem State.modGrid_resuming (s : State) (gid : Nat) (f : Grid → Grid) : (s.modGrid gid f).resuming = s.resuming := rfl
@[simp] theorem State.modGrid_jobs (s : State) (gid : Nat) (f : Grid → Grid) : (s.modGrid gid f).jobs = s.jobs := rfl
@[simp] theorem State.modGrid_stoker (s : State) (gid : Nat) (f : Grid → Grid) : (s.modGrid gid f).stoker = s.stoker := rfl
@[simp] theorem State.modGrid_units (s : State) (gid : Nat) (f : Grid → Grid) : (s.modGrid gid f).units = s.units := rfl
@[simp] theorem State.modGrid_svc (s : State) (gid : Nat) (f : Grid → Grid) : (s.modGrid gid f).svc = s.svc := rfl
@[simp] theorem State.modGrid_fclk (s : State) (gid : Nat) (f : Grid → Grid) : (s.modGrid gid f).fclk = s.fclk := rfl
@[simp] theorem State.modGrid_us (s : State) (gid : Nat) (f : Grid → Grid) : (s.modGrid gid f).us = s.us := rfl
@[simp] theorem State.modGrid_usFrac (s : State) (gid : Nat) (f : Grid → Grid) : (s.modGrid gid f).usFrac = s.usFrac := rfl
@[simp] theorem State.modGrid_agenda (s : State) (gid : Nat) (f : Grid → Grid) : (s.modGrid gid f).agenda = s.agenda := rfl
@[simp] theorem State.modGrid_cur (s : State) (gid : Nat) (f : Grid → Grid) : (s.modGrid gid f).cur = s.cur := rfl
@[simp] theorem State.modGrid_free (s : State) (gid : Nat) (f : Grid → Grid) : (s.modGrid gid f).free = s.free := rfl
@[simp] theorem State.modGrid_nextName (s : State) (gid : Nat) (f : Grid → Grid) : (s.modGrid gid f).nextName = s.nextName := rfl
@[simp] theorem State.modGrid_turns (s : State) (gid : Nat) (f : Grid → Grid) : (s.modGrid gid f).turns = s.turns := rfl
@[simp] theorem State.modGrid_order (s : State) (gid : Nat) (f : Grid → Grid) : (s.modGrid gid f).order = s.order := rfl
@[simp] theorem State.modGrid_seat (s : State) (gid : Nat) (f : Grid → Grid) : (s.modGrid gid f).seat = s.seat := rfl
@[simp] theorem State.modGrid_exits (s : State) (gid : Nat) (f : Grid → Grid) : (s.modGrid gid f).exits = s.exits := rfl
@[simp] theorem State.modGrid_owed (s : State) (gid : Nat) (f : Grid → Grid) : (s.modGrid gid f).owed = s.owed := rfl
@[simp] theorem State.setCtx_mem (s : State) (c : Nat) (x : Ctx) : (s.setCtx c x).mem = s.mem := rfl
@[simp] theorem State.setCtx_eccBad (s : State) (c : Nat) (x : Ctx) : (s.setCtx c x).eccBad = s.eccBad := rfl
@[simp] theorem State.setCtx_groups (s : State) (c : Nat) (x : Ctx) : (s.setCtx c x).groups = s.groups := rfl
@[simp] theorem State.setCtx_wgs (s : State) (c : Nat) (x : Ctx) : (s.setCtx c x).wgs = s.wgs := rfl
@[simp] theorem State.setCtx_saved (s : State) (c : Nat) (x : Ctx) : (s.setCtx c x).saved = s.saved := rfl
@[simp] theorem State.setCtx_resuming (s : State) (c : Nat) (x : Ctx) : (s.setCtx c x).resuming = s.resuming := rfl
@[simp] theorem State.setCtx_grids (s : State) (c : Nat) (x : Ctx) : (s.setCtx c x).grids = s.grids := rfl
@[simp] theorem State.setCtx_jobs (s : State) (c : Nat) (x : Ctx) : (s.setCtx c x).jobs = s.jobs := rfl
@[simp] theorem State.setCtx_stoker (s : State) (c : Nat) (x : Ctx) : (s.setCtx c x).stoker = s.stoker := rfl
@[simp] theorem State.setCtx_units (s : State) (c : Nat) (x : Ctx) : (s.setCtx c x).units = s.units := rfl
@[simp] theorem State.setCtx_fclk (s : State) (c : Nat) (x : Ctx) : (s.setCtx c x).fclk = s.fclk := rfl
@[simp] theorem State.setCtx_us (s : State) (c : Nat) (x : Ctx) : (s.setCtx c x).us = s.us := rfl
@[simp] theorem State.setCtx_usFrac (s : State) (c : Nat) (x : Ctx) : (s.setCtx c x).usFrac = s.usFrac := rfl
@[simp] theorem State.setCtx_agenda (s : State) (c : Nat) (x : Ctx) : (s.setCtx c x).agenda = s.agenda := rfl
@[simp] theorem State.setCtx_cur (s : State) (c : Nat) (x : Ctx) : (s.setCtx c x).cur = s.cur := rfl
@[simp] theorem State.setCtx_free (s : State) (c : Nat) (x : Ctx) : (s.setCtx c x).free = s.free := rfl
@[simp] theorem State.setCtx_nextName (s : State) (c : Nat) (x : Ctx) : (s.setCtx c x).nextName = s.nextName := rfl
@[simp] theorem State.setCtx_turns (s : State) (c : Nat) (x : Ctx) : (s.setCtx c x).turns = s.turns := rfl
@[simp] theorem State.setCtx_order (s : State) (c : Nat) (x : Ctx) : (s.setCtx c x).order = s.order := rfl
@[simp] theorem State.setCtx_seat (s : State) (c : Nat) (x : Ctx) : (s.setCtx c x).seat = s.seat := rfl
@[simp] theorem State.setCtx_exits (s : State) (c : Nat) (x : Ctx) : (s.setCtx c x).exits = s.exits := rfl
@[simp] theorem State.setCtx_owed (s : State) (c : Nat) (x : Ctx) : (s.setCtx c x).owed = s.owed := rfl
@[simp] theorem State.log_mem (s : State) (a b c d e : Nat) : (s.log a b c d e).mem = s.mem := rfl
@[simp] theorem State.log_eccBad (s : State) (a b c d e : Nat) : (s.log a b c d e).eccBad = s.eccBad := rfl
@[simp] theorem State.log_groups (s : State) (a b c d e : Nat) : (s.log a b c d e).groups = s.groups := rfl
@[simp] theorem State.log_wgs (s : State) (a b c d e : Nat) : (s.log a b c d e).wgs = s.wgs := rfl
@[simp] theorem State.log_saved (s : State) (a b c d e : Nat) : (s.log a b c d e).saved = s.saved := rfl
@[simp] theorem State.log_resuming (s : State) (a b c d e : Nat) : (s.log a b c d e).resuming = s.resuming := rfl
@[simp] theorem State.log_grids (s : State) (a b c d e : Nat) : (s.log a b c d e).grids = s.grids := rfl
@[simp] theorem State.log_jobs (s : State) (a b c d e : Nat) : (s.log a b c d e).jobs = s.jobs := rfl
@[simp] theorem State.log_stoker (s : State) (a b c d e : Nat) : (s.log a b c d e).stoker = s.stoker := rfl
@[simp] theorem State.log_units (s : State) (a b c d e : Nat) : (s.log a b c d e).units = s.units := rfl
@[simp] theorem State.log_fclk (s : State) (a b c d e : Nat) : (s.log a b c d e).fclk = s.fclk := rfl
@[simp] theorem State.log_us (s : State) (a b c d e : Nat) : (s.log a b c d e).us = s.us := rfl
@[simp] theorem State.log_usFrac (s : State) (a b c d e : Nat) : (s.log a b c d e).usFrac = s.usFrac := rfl
@[simp] theorem State.log_agenda (s : State) (a b c d e : Nat) : (s.log a b c d e).agenda = s.agenda := rfl
@[simp] theorem State.log_cur (s : State) (a b c d e : Nat) : (s.log a b c d e).cur = s.cur := rfl
@[simp] theorem State.log_free (s : State) (a b c d e : Nat) : (s.log a b c d e).free = s.free := rfl
@[simp] theorem State.log_nextName (s : State) (a b c d e : Nat) : (s.log a b c d e).nextName = s.nextName := rfl
@[simp] theorem State.log_turns (s : State) (a b c d e : Nat) : (s.log a b c d e).turns = s.turns := rfl
@[simp] theorem State.log_order (s : State) (a b c d e : Nat) : (s.log a b c d e).order = s.order := rfl
@[simp] theorem State.log_seat (s : State) (a b c d e : Nat) : (s.log a b c d e).seat = s.seat := rfl
@[simp] theorem State.log_exits (s : State) (a b c d e : Nat) : (s.log a b c d e).exits = s.exits := rfl
@[simp] theorem State.log_owed (s : State) (a b c d e : Nat) : (s.log a b c d e).owed = s.owed := rfl
@[simp] theorem State.modCluster_mem (s : State) (c : Nat) (f : Cluster → Cluster) : (s.modCluster c f).mem = s.mem := rfl
@[simp] theorem State.modCluster_eccBad (s : State) (c : Nat) (f : Cluster → Cluster) : (s.modCluster c f).eccBad = s.eccBad := rfl
@[simp] theorem State.modCluster_groups (s : State) (c : Nat) (f : Cluster → Cluster) : (s.modCluster c f).groups = s.groups := rfl
@[simp] theorem State.modCluster_wgs (s : State) (c : Nat) (f : Cluster → Cluster) : (s.modCluster c f).wgs = s.wgs := rfl
@[simp] theorem State.modCluster_saved (s : State) (c : Nat) (f : Cluster → Cluster) : (s.modCluster c f).saved = s.saved := rfl
@[simp] theorem State.modCluster_resuming (s : State) (c : Nat) (f : Cluster → Cluster) : (s.modCluster c f).resuming = s.resuming := rfl
@[simp] theorem State.modCluster_grids (s : State) (c : Nat) (f : Cluster → Cluster) : (s.modCluster c f).grids = s.grids := rfl
@[simp] theorem State.modCluster_jobs (s : State) (c : Nat) (f : Cluster → Cluster) : (s.modCluster c f).jobs = s.jobs := rfl
@[simp] theorem State.modCluster_stoker (s : State) (c : Nat) (f : Cluster → Cluster) : (s.modCluster c f).stoker = s.stoker := rfl
@[simp] theorem State.modCluster_svc (s : State) (c : Nat) (f : Cluster → Cluster) : (s.modCluster c f).svc = s.svc := rfl
@[simp] theorem State.modCluster_fclk (s : State) (c : Nat) (f : Cluster → Cluster) : (s.modCluster c f).fclk = s.fclk := rfl
@[simp] theorem State.modCluster_us (s : State) (c : Nat) (f : Cluster → Cluster) : (s.modCluster c f).us = s.us := rfl
@[simp] theorem State.modCluster_usFrac (s : State) (c : Nat) (f : Cluster → Cluster) : (s.modCluster c f).usFrac = s.usFrac := rfl
@[simp] theorem State.modCluster_agenda (s : State) (c : Nat) (f : Cluster → Cluster) : (s.modCluster c f).agenda = s.agenda := rfl
@[simp] theorem State.modCluster_cur (s : State) (c : Nat) (f : Cluster → Cluster) : (s.modCluster c f).cur = s.cur := rfl
@[simp] theorem State.modCluster_free (s : State) (c : Nat) (f : Cluster → Cluster) : (s.modCluster c f).free = s.free := rfl
@[simp] theorem State.modCluster_nextName (s : State) (c : Nat) (f : Cluster → Cluster) : (s.modCluster c f).nextName = s.nextName := rfl
@[simp] theorem State.modCluster_turns (s : State) (c : Nat) (f : Cluster → Cluster) : (s.modCluster c f).turns = s.turns := rfl
@[simp] theorem State.modCluster_order (s : State) (c : Nat) (f : Cluster → Cluster) : (s.modCluster c f).order = s.order := rfl
@[simp] theorem State.modCluster_seat (s : State) (c : Nat) (f : Cluster → Cluster) : (s.modCluster c f).seat = s.seat := rfl
@[simp] theorem State.modCluster_exits (s : State) (c : Nat) (f : Cluster → Cluster) : (s.modCluster c f).exits = s.exits := rfl
@[simp] theorem State.modCluster_owed (s : State) (c : Nat) (f : Cluster → Cluster) : (s.modCluster c f).owed = s.owed := rfl
@[simp] theorem State.modPort_mem (s : State) (p : Nat) (f : Port → Port) : (s.modPort p f).mem = s.mem := rfl
@[simp] theorem State.modPort_eccBad (s : State) (p : Nat) (f : Port → Port) : (s.modPort p f).eccBad = s.eccBad := rfl
@[simp] theorem State.modPort_groups (s : State) (p : Nat) (f : Port → Port) : (s.modPort p f).groups = s.groups := rfl
@[simp] theorem State.modPort_wgs (s : State) (p : Nat) (f : Port → Port) : (s.modPort p f).wgs = s.wgs := rfl
@[simp] theorem State.modPort_saved (s : State) (p : Nat) (f : Port → Port) : (s.modPort p f).saved = s.saved := rfl
@[simp] theorem State.modPort_resuming (s : State) (p : Nat) (f : Port → Port) : (s.modPort p f).resuming = s.resuming := rfl
@[simp] theorem State.modPort_grids (s : State) (p : Nat) (f : Port → Port) : (s.modPort p f).grids = s.grids := rfl
@[simp] theorem State.modPort_jobs (s : State) (p : Nat) (f : Port → Port) : (s.modPort p f).jobs = s.jobs := rfl
@[simp] theorem State.modPort_stoker (s : State) (p : Nat) (f : Port → Port) : (s.modPort p f).stoker = s.stoker := rfl
@[simp] theorem State.modPort_units (s : State) (p : Nat) (f : Port → Port) : (s.modPort p f).units = s.units := rfl
@[simp] theorem State.modPort_fclk (s : State) (p : Nat) (f : Port → Port) : (s.modPort p f).fclk = s.fclk := rfl
@[simp] theorem State.modPort_us (s : State) (p : Nat) (f : Port → Port) : (s.modPort p f).us = s.us := rfl
@[simp] theorem State.modPort_usFrac (s : State) (p : Nat) (f : Port → Port) : (s.modPort p f).usFrac = s.usFrac := rfl
@[simp] theorem State.modPort_agenda (s : State) (p : Nat) (f : Port → Port) : (s.modPort p f).agenda = s.agenda := rfl
@[simp] theorem State.modPort_cur (s : State) (p : Nat) (f : Port → Port) : (s.modPort p f).cur = s.cur := rfl
@[simp] theorem State.modPort_free (s : State) (p : Nat) (f : Port → Port) : (s.modPort p f).free = s.free := rfl
@[simp] theorem State.modPort_nextName (s : State) (p : Nat) (f : Port → Port) : (s.modPort p f).nextName = s.nextName := rfl
@[simp] theorem State.modPort_turns (s : State) (p : Nat) (f : Port → Port) : (s.modPort p f).turns = s.turns := rfl
@[simp] theorem State.modPort_order (s : State) (p : Nat) (f : Port → Port) : (s.modPort p f).order = s.order := rfl
@[simp] theorem State.modPort_seat (s : State) (p : Nat) (f : Port → Port) : (s.modPort p f).seat = s.seat := rfl
@[simp] theorem State.modPort_exits (s : State) (p : Nat) (f : Port → Port) : (s.modPort p f).exits = s.exits := rfl
@[simp] theorem State.modPort_owed (s : State) (p : Nat) (f : Port → Port) : (s.modPort p f).owed = s.owed := rfl
@[simp] theorem State.draw_mem (s : State) : (s.draw).mem = s.mem := rfl
@[simp] theorem State.draw_eccBad (s : State) : (s.draw).eccBad = s.eccBad := rfl
@[simp] theorem State.draw_groups (s : State) : (s.draw).groups = s.groups := rfl
@[simp] theorem State.draw_wgs (s : State) : (s.draw).wgs = s.wgs := rfl
@[simp] theorem State.draw_saved (s : State) : (s.draw).saved = s.saved := rfl
@[simp] theorem State.draw_resuming (s : State) : (s.draw).resuming = s.resuming := rfl
@[simp] theorem State.draw_grids (s : State) : (s.draw).grids = s.grids := rfl
@[simp] theorem State.draw_jobs (s : State) : (s.draw).jobs = s.jobs := rfl
@[simp] theorem State.draw_stoker (s : State) : (s.draw).stoker = s.stoker := rfl
@[simp] theorem State.draw_units (s : State) : (s.draw).units = s.units := rfl
@[simp] theorem State.draw_svc (s : State) : (s.draw).svc = s.svc := rfl
@[simp] theorem State.draw_fclk (s : State) : (s.draw).fclk = s.fclk := rfl
@[simp] theorem State.draw_us (s : State) : (s.draw).us = s.us := rfl
@[simp] theorem State.draw_usFrac (s : State) : (s.draw).usFrac = s.usFrac := rfl
@[simp] theorem State.draw_agenda (s : State) : (s.draw).agenda = s.agenda := rfl
@[simp] theorem State.draw_cur (s : State) : (s.draw).cur = s.cur := rfl
@[simp] theorem State.draw_nextName (s : State) : (s.draw).nextName = s.nextName := rfl
@[simp] theorem State.draw_turns (s : State) : (s.draw).turns = s.turns := rfl
@[simp] theorem State.draw_order (s : State) : (s.draw).order = s.order := rfl
@[simp] theorem State.draw_seat (s : State) : (s.draw).seat = s.seat := rfl
@[simp] theorem State.draw_exits (s : State) : (s.draw).exits = s.exits := rfl
@[simp] theorem State.draw_owed (s : State) : (s.draw).owed = s.owed := rfl
@[simp] theorem State.requestStop_mem (s : State) (gid lw : Nat) (why : StopReason) : (s.requestStop gid lw why).mem = s.mem := rfl
@[simp] theorem State.requestStop_eccBad (s : State) (gid lw : Nat) (why : StopReason) : (s.requestStop gid lw why).eccBad = s.eccBad := rfl
@[simp] theorem State.requestStop_groups (s : State) (gid lw : Nat) (why : StopReason) : (s.requestStop gid lw why).groups = s.groups := rfl
@[simp] theorem State.requestStop_saved (s : State) (gid lw : Nat) (why : StopReason) : (s.requestStop gid lw why).saved = s.saved := rfl
@[simp] theorem State.requestStop_grids (s : State) (gid lw : Nat) (why : StopReason) : (s.requestStop gid lw why).grids = s.grids := rfl
@[simp] theorem State.requestStop_jobs (s : State) (gid lw : Nat) (why : StopReason) : (s.requestStop gid lw why).jobs = s.jobs := rfl
@[simp] theorem State.requestStop_stoker (s : State) (gid lw : Nat) (why : StopReason) : (s.requestStop gid lw why).stoker = s.stoker := rfl
@[simp] theorem State.requestStop_units (s : State) (gid lw : Nat) (why : StopReason) : (s.requestStop gid lw why).units = s.units := rfl
@[simp] theorem State.requestStop_svc (s : State) (gid lw : Nat) (why : StopReason) : (s.requestStop gid lw why).svc = s.svc := rfl
@[simp] theorem State.requestStop_fclk (s : State) (gid lw : Nat) (why : StopReason) : (s.requestStop gid lw why).fclk = s.fclk := rfl
@[simp] theorem State.requestStop_us (s : State) (gid lw : Nat) (why : StopReason) : (s.requestStop gid lw why).us = s.us := rfl
@[simp] theorem State.requestStop_usFrac (s : State) (gid lw : Nat) (why : StopReason) : (s.requestStop gid lw why).usFrac = s.usFrac := rfl
@[simp] theorem State.requestStop_agenda (s : State) (gid lw : Nat) (why : StopReason) : (s.requestStop gid lw why).agenda = s.agenda := rfl
@[simp] theorem State.requestStop_cur (s : State) (gid lw : Nat) (why : StopReason) : (s.requestStop gid lw why).cur = s.cur := rfl
@[simp] theorem State.requestStop_free (s : State) (gid lw : Nat) (why : StopReason) : (s.requestStop gid lw why).free = s.free := rfl
@[simp] theorem State.requestStop_nextName (s : State) (gid lw : Nat) (why : StopReason) : (s.requestStop gid lw why).nextName = s.nextName := rfl
@[simp] theorem State.requestStop_turns (s : State) (gid lw : Nat) (why : StopReason) : (s.requestStop gid lw why).turns = s.turns := rfl
@[simp] theorem State.requestStop_order (s : State) (gid lw : Nat) (why : StopReason) : (s.requestStop gid lw why).order = s.order := rfl
@[simp] theorem State.requestStop_seat (s : State) (gid lw : Nat) (why : StopReason) : (s.requestStop gid lw why).seat = s.seat := rfl
@[simp] theorem State.requestStop_exits (s : State) (gid lw : Nat) (why : StopReason) : (s.requestStop gid lw why).exits = s.exits := rfl
@[simp] theorem State.requestStop_owed (s : State) (gid lw : Nat) (why : StopReason) : (s.requestStop gid lw why).owed = s.owed := rfl
@[simp] theorem State.setJob_mem (s : State) (j : Job) : (s.setJob j).mem = s.mem := rfl
@[simp] theorem State.setJob_eccBad (s : State) (j : Job) : (s.setJob j).eccBad = s.eccBad := rfl
@[simp] theorem State.setJob_groups (s : State) (j : Job) : (s.setJob j).groups = s.groups := rfl
@[simp] theorem State.setJob_wgs (s : State) (j : Job) : (s.setJob j).wgs = s.wgs := rfl
@[simp] theorem State.setJob_saved (s : State) (j : Job) : (s.setJob j).saved = s.saved := rfl
@[simp] theorem State.setJob_resuming (s : State) (j : Job) : (s.setJob j).resuming = s.resuming := rfl
@[simp] theorem State.setJob_grids (s : State) (j : Job) : (s.setJob j).grids = s.grids := rfl
@[simp] theorem State.setJob_stoker (s : State) (j : Job) : (s.setJob j).stoker = s.stoker := rfl
@[simp] theorem State.setJob_units (s : State) (j : Job) : (s.setJob j).units = s.units := rfl
@[simp] theorem State.setJob_svc (s : State) (j : Job) : (s.setJob j).svc = s.svc := rfl
@[simp] theorem State.setJob_fclk (s : State) (j : Job) : (s.setJob j).fclk = s.fclk := rfl
@[simp] theorem State.setJob_us (s : State) (j : Job) : (s.setJob j).us = s.us := rfl
@[simp] theorem State.setJob_usFrac (s : State) (j : Job) : (s.setJob j).usFrac = s.usFrac := rfl
@[simp] theorem State.setJob_agenda (s : State) (j : Job) : (s.setJob j).agenda = s.agenda := rfl
@[simp] theorem State.setJob_cur (s : State) (j : Job) : (s.setJob j).cur = s.cur := rfl
@[simp] theorem State.setJob_free (s : State) (j : Job) : (s.setJob j).free = s.free := rfl
@[simp] theorem State.setJob_nextName (s : State) (j : Job) : (s.setJob j).nextName = s.nextName := rfl
@[simp] theorem State.setJob_turns (s : State) (j : Job) : (s.setJob j).turns = s.turns := rfl
@[simp] theorem State.setJob_order (s : State) (j : Job) : (s.setJob j).order = s.order := rfl
@[simp] theorem State.setJob_seat (s : State) (j : Job) : (s.setJob j).seat = s.seat := rfl
@[simp] theorem State.setJob_exits (s : State) (j : Job) : (s.setJob j).exits = s.exits := rfl
@[simp] theorem State.setJob_owed (s : State) (j : Job) : (s.setJob j).owed = s.owed := rfl
@[simp] theorem State.writeCard_mem (s : State) (j : Job) (o : Nat) (bs : List Byte) : (s.writeCard j o bs).mem = s.mem := rfl
@[simp] theorem State.writeCard_eccBad (s : State) (j : Job) (o : Nat) (bs : List Byte) : (s.writeCard j o bs).eccBad = s.eccBad := rfl
@[simp] theorem State.writeCard_groups (s : State) (j : Job) (o : Nat) (bs : List Byte) : (s.writeCard j o bs).groups = s.groups := rfl
@[simp] theorem State.writeCard_saved (s : State) (j : Job) (o : Nat) (bs : List Byte) : (s.writeCard j o bs).saved = s.saved := rfl
@[simp] theorem State.writeCard_resuming (s : State) (j : Job) (o : Nat) (bs : List Byte) : (s.writeCard j o bs).resuming = s.resuming := rfl
@[simp] theorem State.writeCard_grids (s : State) (j : Job) (o : Nat) (bs : List Byte) : (s.writeCard j o bs).grids = s.grids := rfl
@[simp] theorem State.writeCard_jobs (s : State) (j : Job) (o : Nat) (bs : List Byte) : (s.writeCard j o bs).jobs = s.jobs := rfl
@[simp] theorem State.writeCard_stoker (s : State) (j : Job) (o : Nat) (bs : List Byte) : (s.writeCard j o bs).stoker = s.stoker := rfl
@[simp] theorem State.writeCard_units (s : State) (j : Job) (o : Nat) (bs : List Byte) : (s.writeCard j o bs).units = s.units := rfl
@[simp] theorem State.writeCard_svc (s : State) (j : Job) (o : Nat) (bs : List Byte) : (s.writeCard j o bs).svc = s.svc := rfl
@[simp] theorem State.writeCard_fclk (s : State) (j : Job) (o : Nat) (bs : List Byte) : (s.writeCard j o bs).fclk = s.fclk := rfl
@[simp] theorem State.writeCard_us (s : State) (j : Job) (o : Nat) (bs : List Byte) : (s.writeCard j o bs).us = s.us := rfl
@[simp] theorem State.writeCard_usFrac (s : State) (j : Job) (o : Nat) (bs : List Byte) : (s.writeCard j o bs).usFrac = s.usFrac := rfl
@[simp] theorem State.writeCard_agenda (s : State) (j : Job) (o : Nat) (bs : List Byte) : (s.writeCard j o bs).agenda = s.agenda := rfl
@[simp] theorem State.writeCard_cur (s : State) (j : Job) (o : Nat) (bs : List Byte) : (s.writeCard j o bs).cur = s.cur := rfl
@[simp] theorem State.writeCard_free (s : State) (j : Job) (o : Nat) (bs : List Byte) : (s.writeCard j o bs).free = s.free := rfl
@[simp] theorem State.writeCard_nextName (s : State) (j : Job) (o : Nat) (bs : List Byte) : (s.writeCard j o bs).nextName = s.nextName := rfl
@[simp] theorem State.writeCard_turns (s : State) (j : Job) (o : Nat) (bs : List Byte) : (s.writeCard j o bs).turns = s.turns := rfl
@[simp] theorem State.writeCard_seat (s : State) (j : Job) (o : Nat) (bs : List Byte) : (s.writeCard j o bs).seat = s.seat := rfl
@[simp] theorem State.writeCard_exits (s : State) (j : Job) (o : Nat) (bs : List Byte) : (s.writeCard j o bs).exits = s.exits := rfl
@[simp] theorem State.writeCard_owed (s : State) (j : Job) (o : Nat) (bs : List Byte) : (s.writeCard j o bs).owed = s.owed := rfl
@[simp] theorem State.joinView_mem (s : State) (a : Agent) (v : View) : (s.joinView a v).mem = s.mem := rfl
@[simp] theorem State.joinView_eccBad (s : State) (a : Agent) (v : View) : (s.joinView a v).eccBad = s.eccBad := rfl
@[simp] theorem State.joinView_groups (s : State) (a : Agent) (v : View) : (s.joinView a v).groups = s.groups := rfl
@[simp] theorem State.joinView_wgs (s : State) (a : Agent) (v : View) : (s.joinView a v).wgs = s.wgs := rfl
@[simp] theorem State.joinView_saved (s : State) (a : Agent) (v : View) : (s.joinView a v).saved = s.saved := rfl
@[simp] theorem State.joinView_resuming (s : State) (a : Agent) (v : View) : (s.joinView a v).resuming = s.resuming := rfl
@[simp] theorem State.joinView_grids (s : State) (a : Agent) (v : View) : (s.joinView a v).grids = s.grids := rfl
@[simp] theorem State.joinView_jobs (s : State) (a : Agent) (v : View) : (s.joinView a v).jobs = s.jobs := rfl
@[simp] theorem State.joinView_stoker (s : State) (a : Agent) (v : View) : (s.joinView a v).stoker = s.stoker := rfl
@[simp] theorem State.joinView_units (s : State) (a : Agent) (v : View) : (s.joinView a v).units = s.units := rfl
@[simp] theorem State.joinView_svc (s : State) (a : Agent) (v : View) : (s.joinView a v).svc = s.svc := rfl
@[simp] theorem State.joinView_fclk (s : State) (a : Agent) (v : View) : (s.joinView a v).fclk = s.fclk := rfl
@[simp] theorem State.joinView_us (s : State) (a : Agent) (v : View) : (s.joinView a v).us = s.us := rfl
@[simp] theorem State.joinView_usFrac (s : State) (a : Agent) (v : View) : (s.joinView a v).usFrac = s.usFrac := rfl
@[simp] theorem State.joinView_agenda (s : State) (a : Agent) (v : View) : (s.joinView a v).agenda = s.agenda := rfl
@[simp] theorem State.joinView_cur (s : State) (a : Agent) (v : View) : (s.joinView a v).cur = s.cur := rfl
@[simp] theorem State.joinView_free (s : State) (a : Agent) (v : View) : (s.joinView a v).free = s.free := rfl
@[simp] theorem State.joinView_nextName (s : State) (a : Agent) (v : View) : (s.joinView a v).nextName = s.nextName := rfl
@[simp] theorem State.joinView_turns (s : State) (a : Agent) (v : View) : (s.joinView a v).turns = s.turns := rfl
@[simp] theorem State.joinView_seat (s : State) (a : Agent) (v : View) : (s.joinView a v).seat = s.seat := rfl
@[simp] theorem State.joinView_exits (s : State) (a : Agent) (v : View) : (s.joinView a v).exits = s.exits := rfl
@[simp] theorem State.joinView_owed (s : State) (a : Agent) (v : View) : (s.joinView a v).owed = s.owed := rfl
@[simp] theorem State.groupJoin_mem (s : State) (g : Group) (v : View) : (s.groupJoin g v).mem = s.mem := rfl
@[simp] theorem State.groupJoin_eccBad (s : State) (g : Group) (v : View) : (s.groupJoin g v).eccBad = s.eccBad := rfl
@[simp] theorem State.groupJoin_groups (s : State) (g : Group) (v : View) : (s.groupJoin g v).groups = s.groups := rfl
@[simp] theorem State.groupJoin_wgs (s : State) (g : Group) (v : View) : (s.groupJoin g v).wgs = s.wgs := rfl
@[simp] theorem State.groupJoin_saved (s : State) (g : Group) (v : View) : (s.groupJoin g v).saved = s.saved := rfl
@[simp] theorem State.groupJoin_resuming (s : State) (g : Group) (v : View) : (s.groupJoin g v).resuming = s.resuming := rfl
@[simp] theorem State.groupJoin_grids (s : State) (g : Group) (v : View) : (s.groupJoin g v).grids = s.grids := rfl
@[simp] theorem State.groupJoin_jobs (s : State) (g : Group) (v : View) : (s.groupJoin g v).jobs = s.jobs := rfl
@[simp] theorem State.groupJoin_stoker (s : State) (g : Group) (v : View) : (s.groupJoin g v).stoker = s.stoker := rfl
@[simp] theorem State.groupJoin_units (s : State) (g : Group) (v : View) : (s.groupJoin g v).units = s.units := rfl
@[simp] theorem State.groupJoin_svc (s : State) (g : Group) (v : View) : (s.groupJoin g v).svc = s.svc := rfl
@[simp] theorem State.groupJoin_fclk (s : State) (g : Group) (v : View) : (s.groupJoin g v).fclk = s.fclk := rfl
@[simp] theorem State.groupJoin_us (s : State) (g : Group) (v : View) : (s.groupJoin g v).us = s.us := rfl
@[simp] theorem State.groupJoin_usFrac (s : State) (g : Group) (v : View) : (s.groupJoin g v).usFrac = s.usFrac := rfl
@[simp] theorem State.groupJoin_agenda (s : State) (g : Group) (v : View) : (s.groupJoin g v).agenda = s.agenda := rfl
@[simp] theorem State.groupJoin_cur (s : State) (g : Group) (v : View) : (s.groupJoin g v).cur = s.cur := rfl
@[simp] theorem State.groupJoin_free (s : State) (g : Group) (v : View) : (s.groupJoin g v).free = s.free := rfl
@[simp] theorem State.groupJoin_nextName (s : State) (g : Group) (v : View) : (s.groupJoin g v).nextName = s.nextName := rfl
@[simp] theorem State.groupJoin_turns (s : State) (g : Group) (v : View) : (s.groupJoin g v).turns = s.turns := rfl
@[simp] theorem State.groupJoin_seat (s : State) (g : Group) (v : View) : (s.groupJoin g v).seat = s.seat := rfl
@[simp] theorem State.groupJoin_exits (s : State) (g : Group) (v : View) : (s.groupJoin g v).exits = s.exits := rfl
@[simp] theorem State.groupJoin_owed (s : State) (g : Group) (v : View) : (s.groupJoin g v).owed = s.owed := rfl
@[simp] theorem State.invalidate_mem (s : State) (c lo hi : Nat) : (s.invalidate c lo hi).mem = s.mem := rfl
@[simp] theorem State.invalidate_eccBad (s : State) (c lo hi : Nat) : (s.invalidate c lo hi).eccBad = s.eccBad := rfl
@[simp] theorem State.invalidate_groups (s : State) (c lo hi : Nat) : (s.invalidate c lo hi).groups = s.groups := rfl
@[simp] theorem State.invalidate_wgs (s : State) (c lo hi : Nat) : (s.invalidate c lo hi).wgs = s.wgs := rfl
@[simp] theorem State.invalidate_saved (s : State) (c lo hi : Nat) : (s.invalidate c lo hi).saved = s.saved := rfl
@[simp] theorem State.invalidate_resuming (s : State) (c lo hi : Nat) : (s.invalidate c lo hi).resuming = s.resuming := rfl
@[simp] theorem State.invalidate_grids (s : State) (c lo hi : Nat) : (s.invalidate c lo hi).grids = s.grids := rfl
@[simp] theorem State.invalidate_jobs (s : State) (c lo hi : Nat) : (s.invalidate c lo hi).jobs = s.jobs := rfl
@[simp] theorem State.invalidate_stoker (s : State) (c lo hi : Nat) : (s.invalidate c lo hi).stoker = s.stoker := rfl
@[simp] theorem State.invalidate_units (s : State) (c lo hi : Nat) : (s.invalidate c lo hi).units = s.units := rfl
@[simp] theorem State.invalidate_svc (s : State) (c lo hi : Nat) : (s.invalidate c lo hi).svc = s.svc := rfl
@[simp] theorem State.invalidate_fclk (s : State) (c lo hi : Nat) : (s.invalidate c lo hi).fclk = s.fclk := rfl
@[simp] theorem State.invalidate_us (s : State) (c lo hi : Nat) : (s.invalidate c lo hi).us = s.us := rfl
@[simp] theorem State.invalidate_usFrac (s : State) (c lo hi : Nat) : (s.invalidate c lo hi).usFrac = s.usFrac := rfl
@[simp] theorem State.invalidate_agenda (s : State) (c lo hi : Nat) : (s.invalidate c lo hi).agenda = s.agenda := rfl
@[simp] theorem State.invalidate_cur (s : State) (c lo hi : Nat) : (s.invalidate c lo hi).cur = s.cur := rfl
@[simp] theorem State.invalidate_free (s : State) (c lo hi : Nat) : (s.invalidate c lo hi).free = s.free := rfl
@[simp] theorem State.invalidate_nextName (s : State) (c lo hi : Nat) : (s.invalidate c lo hi).nextName = s.nextName := rfl
@[simp] theorem State.invalidate_turns (s : State) (c lo hi : Nat) : (s.invalidate c lo hi).turns = s.turns := rfl
@[simp] theorem State.invalidate_seat (s : State) (c lo hi : Nat) : (s.invalidate c lo hi).seat = s.seat := rfl
@[simp] theorem State.invalidate_exits (s : State) (c lo hi : Nat) : (s.invalidate c lo hi).exits = s.exits := rfl
@[simp] theorem State.invalidate_owed (s : State) (c lo hi : Nat) : (s.invalidate c lo hi).owed = s.owed := rfl

@[simp] theorem Group.goto_slot (g : Group) (pc : W32) : (g.goto pc).slot = g.slot := rfl
@[simp] theorem Group.goto_gid (g : Group) (pc : W32) : (g.goto pc).gid = g.gid := rfl
@[simp] theorem Group.goto_lw (g : Group) (pc : W32) : (g.goto pc).lw = g.lw := rfl
@[simp] theorem Group.goto_k (g : Group) (pc : W32) : (g.goto pc).k = g.k := rfl
@[simp] theorem Group.goto_part (g : Group) (pc : W32) : (g.goto pc).part = g.part := rfl
@[simp] theorem Group.goto_sregs (g : Group) (pc : W32) : (g.goto pc).sregs = g.sregs := rfl
@[simp] theorem Group.goto_runq (g : Group) (pc : W32) : (g.goto pc).runq = g.runq := rfl
@[simp] theorem Group.goto_regs (g : Group) (pc : W32) : (g.goto pc).regs = g.regs := rfl
@[simp] theorem Group.goto_bound (g : Group) (pc : W32) : (g.goto pc).bound = g.bound := rfl
@[simp] theorem Group.goto_masks (g : Group) (pc : W32) : (g.goto pc).masks = g.masks := rfl
@[simp] theorem Group.goto_ctrs (g : Group) (pc : W32) : (g.goto pc).ctrs = g.ctrs := rfl
@[simp] theorem Group.goto_flights (g : Group) (pc : W32) : (g.goto pc).flights = g.flights := rfl
@[simp] theorem Group.goto_nextId (g : Group) (pc : W32) : (g.goto pc).nextId = g.nextId := rfl
@[simp] theorem Group.goto_exm (g : Group) (pc : W32) : (g.goto pc).exm = g.exm := rfl
@[simp] theorem Group.goto_tpart (g : Group) (pc : W32) : (g.goto pc).tpart = g.tpart := rfl
@[simp] theorem Group.goto_pins (g : Group) (pc : W32) : (g.goto pc).pins = g.pins := rfl
@[simp] theorem Group.goto_recipes (g : Group) (pc : W32) : (g.goto pc).recipes = g.recipes := rfl
@[simp] theorem Group.goto_cause (g : Group) (pc : W32) : (g.goto pc).cause = g.cause := rfl
@[simp] theorem Group.goto_epc (g : Group) (pc : W32) : (g.goto pc).epc = g.epc := rfl
@[simp] theorem Group.goto_elpc (g : Group) (pc : W32) : (g.goto pc).elpc = g.elpc := rfl
@[simp] theorem Group.goto_faddr (g : Group) (pc : W32) : (g.goto pc).faddr = g.faddr := rfl
@[simp] theorem Group.goto_fspc (g : Group) (pc : W32) : (g.goto pc).fspc = g.fspc := rfl
@[simp] theorem Group.goto_stepn (g : Group) (pc : W32) : (g.goto pc).stepn = g.stepn := rfl
@[simp] theorem Group.goto_progto (g : Group) (pc : W32) : (g.goto pc).progto = g.progto := rfl
@[simp] theorem Group.goto_watch (g : Group) (pc : W32) : (g.goto pc).watch = g.watch := rfl
@[simp] theorem Group.goto_tseq (g : Group) (pc : W32) : (g.goto pc).tseq = g.tseq := rfl
@[simp] theorem Group.goto_oclosed (g : Group) (pc : W32) : (g.goto pc).oclosed = g.oclosed := rfl
@[simp] theorem Group.goto_bars (g : Group) (pc : W32) : (g.goto pc).bars = g.bars := rfl
@[simp] theorem Group.goto_growAsk (g : Group) (pc : W32) : (g.goto pc).growAsk = g.growAsk := rfl
@[simp] theorem Group.goto_latch (g : Group) (pc : W32) : (g.goto pc).latch = g.latch := rfl
@[simp] theorem Group.goto_tiles (g : Group) (pc : W32) : (g.goto pc).tiles = g.tiles := rfl
@[simp] theorem Group.goto_mq (g : Group) (pc : W32) : (g.goto pc).mq = g.mq := rfl
@[simp] theorem Group.goto_trial (g : Group) (pc : W32) : (g.goto pc).trial = g.trial := rfl
@[simp] theorem Group.goto_races (g : Group) (pc : W32) : (g.goto pc).races = g.races := rfl
@[simp] theorem Group.goto_passed (g : Group) (pc : W32) : (g.goto pc).passed = g.passed := rfl
@[simp] theorem Group.goto_aside (g : Group) (pc : W32) : (g.goto pc).aside = g.aside := rfl
@[simp] theorem Group.goto_double (g : Group) (pc : W32) : (g.goto pc).double = g.double := rfl
@[simp] theorem Group.goto_quota (g : Group) (pc : W32) : (g.goto pc).quota = g.quota := rfl
@[simp] theorem Group.goto_toHost (g : Group) (pc : W32) : (g.goto pc).toHost = g.toHost := rfl
@[simp] theorem Group.goto_parked (g : Group) (pc : W32) : (g.goto pc).parked = g.parked := rfl
@[simp] theorem Group.goto_deferred (g : Group) (pc : W32) : (g.goto pc).deferred = g.deferred := rfl
@[simp] theorem Group.goto_spend (g : Group) (pc : W32) : (g.goto pc).spend = g.spend := rfl
@[simp] theorem Group.goto_puts (g : Group) (pc : W32) : (g.goto pc).puts = g.puts := rfl
@[simp] theorem Group.goto_last (g : Group) (pc : W32) : (g.goto pc).last = g.last := rfl
@[simp] theorem Group.goto_trapAt (g : Group) (pc : W32) : (g.goto pc).trapAt = g.trapAt := rfl
@[simp] theorem Group.goto_relv (g : Group) (pc : W32) : (g.goto pc).relv = g.relv := rfl
@[simp] theorem Group.goto_srelv (g : Group) (pc : W32) : (g.goto pc).srelv = g.srelv := rfl
@[simp] theorem Group.goto_acqv (g : Group) (pc : W32) : (g.goto pc).acqv = g.acqv := rfl
@[simp] theorem Group.goto_heard (g : Group) (pc : W32) : (g.goto pc).heard = g.heard := rfl
@[simp] theorem Group.goto_obsv (g : Group) (pc : W32) : (g.goto pc).obsv = g.obsv := rfl
@[simp] theorem Group.goto_sobs (g : Group) (pc : W32) : (g.goto pc).sobs = g.sobs := rfl
@[simp] theorem Group.goto_slack (g : Group) (pc : W32) : (g.goto pc).slack = g.slack := rfl
@[simp] theorem Group.goto_mid (g : Group) (pc : W32) : (g.goto pc).mid = g.mid := rfl
@[simp] theorem Group.goto_late (g : Group) (pc : W32) : (g.goto pc).late = g.late := rfl
@[simp] theorem Group.advance_slot (g : Group) : (g.advance).slot = g.slot := rfl
@[simp] theorem Group.advance_gid (g : Group) : (g.advance).gid = g.gid := rfl
@[simp] theorem Group.advance_lw (g : Group) : (g.advance).lw = g.lw := rfl
@[simp] theorem Group.advance_k (g : Group) : (g.advance).k = g.k := rfl
@[simp] theorem Group.advance_part (g : Group) : (g.advance).part = g.part := rfl
@[simp] theorem Group.advance_sregs (g : Group) : (g.advance).sregs = g.sregs := rfl
@[simp] theorem Group.advance_runq (g : Group) : (g.advance).runq = g.runq := rfl
@[simp] theorem Group.advance_regs (g : Group) : (g.advance).regs = g.regs := rfl
@[simp] theorem Group.advance_bound (g : Group) : (g.advance).bound = g.bound := rfl
@[simp] theorem Group.advance_masks (g : Group) : (g.advance).masks = g.masks := rfl
@[simp] theorem Group.advance_ctrs (g : Group) : (g.advance).ctrs = g.ctrs := rfl
@[simp] theorem Group.advance_flights (g : Group) : (g.advance).flights = g.flights := rfl
@[simp] theorem Group.advance_nextId (g : Group) : (g.advance).nextId = g.nextId := rfl
@[simp] theorem Group.advance_exm (g : Group) : (g.advance).exm = g.exm := rfl
@[simp] theorem Group.advance_tpart (g : Group) : (g.advance).tpart = g.tpart := rfl
@[simp] theorem Group.advance_pins (g : Group) : (g.advance).pins = g.pins := rfl
@[simp] theorem Group.advance_recipes (g : Group) : (g.advance).recipes = g.recipes := rfl
@[simp] theorem Group.advance_cause (g : Group) : (g.advance).cause = g.cause := rfl
@[simp] theorem Group.advance_epc (g : Group) : (g.advance).epc = g.epc := rfl
@[simp] theorem Group.advance_elpc (g : Group) : (g.advance).elpc = g.elpc := rfl
@[simp] theorem Group.advance_faddr (g : Group) : (g.advance).faddr = g.faddr := rfl
@[simp] theorem Group.advance_fspc (g : Group) : (g.advance).fspc = g.fspc := rfl
@[simp] theorem Group.advance_stepn (g : Group) : (g.advance).stepn = g.stepn := rfl
@[simp] theorem Group.advance_progto (g : Group) : (g.advance).progto = g.progto := rfl
@[simp] theorem Group.advance_watch (g : Group) : (g.advance).watch = g.watch := rfl
@[simp] theorem Group.advance_tseq (g : Group) : (g.advance).tseq = g.tseq := rfl
@[simp] theorem Group.advance_oclosed (g : Group) : (g.advance).oclosed = g.oclosed := rfl
@[simp] theorem Group.advance_bars (g : Group) : (g.advance).bars = g.bars := rfl
@[simp] theorem Group.advance_growAsk (g : Group) : (g.advance).growAsk = g.growAsk := rfl
@[simp] theorem Group.advance_latch (g : Group) : (g.advance).latch = g.latch := rfl
@[simp] theorem Group.advance_tiles (g : Group) : (g.advance).tiles = g.tiles := rfl
@[simp] theorem Group.advance_mq (g : Group) : (g.advance).mq = g.mq := rfl
@[simp] theorem Group.advance_trial (g : Group) : (g.advance).trial = g.trial := rfl
@[simp] theorem Group.advance_races (g : Group) : (g.advance).races = g.races := rfl
@[simp] theorem Group.advance_passed (g : Group) : (g.advance).passed = g.passed := rfl
@[simp] theorem Group.advance_aside (g : Group) : (g.advance).aside = g.aside := rfl
@[simp] theorem Group.advance_double (g : Group) : (g.advance).double = g.double := rfl
@[simp] theorem Group.advance_quota (g : Group) : (g.advance).quota = g.quota := rfl
@[simp] theorem Group.advance_toHost (g : Group) : (g.advance).toHost = g.toHost := rfl
@[simp] theorem Group.advance_parked (g : Group) : (g.advance).parked = g.parked := rfl
@[simp] theorem Group.advance_deferred (g : Group) : (g.advance).deferred = g.deferred := rfl
@[simp] theorem Group.advance_spend (g : Group) : (g.advance).spend = g.spend := rfl
@[simp] theorem Group.advance_puts (g : Group) : (g.advance).puts = g.puts := rfl
@[simp] theorem Group.advance_last (g : Group) : (g.advance).last = g.last := rfl
@[simp] theorem Group.advance_trapAt (g : Group) : (g.advance).trapAt = g.trapAt := rfl
@[simp] theorem Group.advance_relv (g : Group) : (g.advance).relv = g.relv := rfl
@[simp] theorem Group.advance_srelv (g : Group) : (g.advance).srelv = g.srelv := rfl
@[simp] theorem Group.advance_acqv (g : Group) : (g.advance).acqv = g.acqv := rfl
@[simp] theorem Group.advance_heard (g : Group) : (g.advance).heard = g.heard := rfl
@[simp] theorem Group.advance_obsv (g : Group) : (g.advance).obsv = g.obsv := rfl
@[simp] theorem Group.advance_sobs (g : Group) : (g.advance).sobs = g.sobs := rfl
@[simp] theorem Group.advance_slack (g : Group) : (g.advance).slack = g.slack := rfl
@[simp] theorem Group.advance_mid (g : Group) : (g.advance).mid = g.mid := rfl
@[simp] theorem Group.advance_late (g : Group) : (g.advance).late = g.late := rfl
@[simp] theorem Group.touch_slot (g : Group) (s : State) : (g.touch s).slot = g.slot := rfl
@[simp] theorem Group.touch_gid (g : Group) (s : State) : (g.touch s).gid = g.gid := rfl
@[simp] theorem Group.touch_lw (g : Group) (s : State) : (g.touch s).lw = g.lw := rfl
@[simp] theorem Group.touch_k (g : Group) (s : State) : (g.touch s).k = g.k := rfl
@[simp] theorem Group.touch_part (g : Group) (s : State) : (g.touch s).part = g.part := rfl
@[simp] theorem Group.touch_spc (g : Group) (s : State) : (g.touch s).spc = g.spc := rfl
@[simp] theorem Group.touch_sregs (g : Group) (s : State) : (g.touch s).sregs = g.sregs := rfl
@[simp] theorem Group.touch_runq (g : Group) (s : State) : (g.touch s).runq = g.runq := rfl
@[simp] theorem Group.touch_regs (g : Group) (s : State) : (g.touch s).regs = g.regs := rfl
@[simp] theorem Group.touch_bound (g : Group) (s : State) : (g.touch s).bound = g.bound := rfl
@[simp] theorem Group.touch_masks (g : Group) (s : State) : (g.touch s).masks = g.masks := rfl
@[simp] theorem Group.touch_ctrs (g : Group) (s : State) : (g.touch s).ctrs = g.ctrs := rfl
@[simp] theorem Group.touch_flights (g : Group) (s : State) : (g.touch s).flights = g.flights := rfl
@[simp] theorem Group.touch_nextId (g : Group) (s : State) : (g.touch s).nextId = g.nextId := rfl
@[simp] theorem Group.touch_exm (g : Group) (s : State) : (g.touch s).exm = g.exm := rfl
@[simp] theorem Group.touch_tpart (g : Group) (s : State) : (g.touch s).tpart = g.tpart := rfl
@[simp] theorem Group.touch_pins (g : Group) (s : State) : (g.touch s).pins = g.pins := rfl
@[simp] theorem Group.touch_recipes (g : Group) (s : State) : (g.touch s).recipes = g.recipes := rfl
@[simp] theorem Group.touch_cause (g : Group) (s : State) : (g.touch s).cause = g.cause := rfl
@[simp] theorem Group.touch_epc (g : Group) (s : State) : (g.touch s).epc = g.epc := rfl
@[simp] theorem Group.touch_elpc (g : Group) (s : State) : (g.touch s).elpc = g.elpc := rfl
@[simp] theorem Group.touch_faddr (g : Group) (s : State) : (g.touch s).faddr = g.faddr := rfl
@[simp] theorem Group.touch_fspc (g : Group) (s : State) : (g.touch s).fspc = g.fspc := rfl
@[simp] theorem Group.touch_stepn (g : Group) (s : State) : (g.touch s).stepn = g.stepn := rfl
@[simp] theorem Group.touch_progto (g : Group) (s : State) : (g.touch s).progto = g.progto := rfl
@[simp] theorem Group.touch_tseq (g : Group) (s : State) : (g.touch s).tseq = g.tseq := rfl
@[simp] theorem Group.touch_oclosed (g : Group) (s : State) : (g.touch s).oclosed = g.oclosed := rfl
@[simp] theorem Group.touch_bars (g : Group) (s : State) : (g.touch s).bars = g.bars := rfl
@[simp] theorem Group.touch_growAsk (g : Group) (s : State) : (g.touch s).growAsk = g.growAsk := rfl
@[simp] theorem Group.touch_latch (g : Group) (s : State) : (g.touch s).latch = g.latch := rfl
@[simp] theorem Group.touch_tiles (g : Group) (s : State) : (g.touch s).tiles = g.tiles := rfl
@[simp] theorem Group.touch_mq (g : Group) (s : State) : (g.touch s).mq = g.mq := rfl
@[simp] theorem Group.touch_trial (g : Group) (s : State) : (g.touch s).trial = g.trial := rfl
@[simp] theorem Group.touch_races (g : Group) (s : State) : (g.touch s).races = g.races := rfl
@[simp] theorem Group.touch_passed (g : Group) (s : State) : (g.touch s).passed = g.passed := rfl
@[simp] theorem Group.touch_aside (g : Group) (s : State) : (g.touch s).aside = g.aside := rfl
@[simp] theorem Group.touch_skip (g : Group) (s : State) : (g.touch s).skip = g.skip := rfl
@[simp] theorem Group.touch_double (g : Group) (s : State) : (g.touch s).double = g.double := rfl
@[simp] theorem Group.touch_quota (g : Group) (s : State) : (g.touch s).quota = g.quota := rfl
@[simp] theorem Group.touch_toHost (g : Group) (s : State) : (g.touch s).toHost = g.toHost := rfl
@[simp] theorem Group.touch_parked (g : Group) (s : State) : (g.touch s).parked = g.parked := rfl
@[simp] theorem Group.touch_stepHeld (g : Group) (s : State) : (g.touch s).stepHeld = g.stepHeld := rfl
@[simp] theorem Group.touch_deferred (g : Group) (s : State) : (g.touch s).deferred = g.deferred := rfl
@[simp] theorem Group.touch_spend (g : Group) (s : State) : (g.touch s).spend = g.spend := rfl
@[simp] theorem Group.touch_puts (g : Group) (s : State) : (g.touch s).puts = g.puts := rfl
@[simp] theorem Group.touch_last (g : Group) (s : State) : (g.touch s).last = g.last := rfl
@[simp] theorem Group.touch_trapAt (g : Group) (s : State) : (g.touch s).trapAt = g.trapAt := rfl
@[simp] theorem Group.touch_relv (g : Group) (s : State) : (g.touch s).relv = g.relv := rfl
@[simp] theorem Group.touch_srelv (g : Group) (s : State) : (g.touch s).srelv = g.srelv := rfl
@[simp] theorem Group.touch_acqv (g : Group) (s : State) : (g.touch s).acqv = g.acqv := rfl
@[simp] theorem Group.touch_heard (g : Group) (s : State) : (g.touch s).heard = g.heard := rfl
@[simp] theorem Group.touch_obsv (g : Group) (s : State) : (g.touch s).obsv = g.obsv := rfl
@[simp] theorem Group.touch_sobs (g : Group) (s : State) : (g.touch s).sobs = g.sobs := rfl
@[simp] theorem Group.touch_slack (g : Group) (s : State) : (g.touch s).slack = g.slack := rfl
@[simp] theorem Group.touch_mid (g : Group) (s : State) : (g.touch s).mid = g.mid := rfl
@[simp] theorem Group.touch_late (g : Group) (s : State) : (g.touch s).late = g.late := rfl
@[simp] theorem Group.setSreg_slot (g : Group) (k : BitVec 8) (v : W64) : (g.setSreg k v).slot = g.slot := by unfold Group.setSreg; split <;> rfl
@[simp] theorem Group.setSreg_gid (g : Group) (k : BitVec 8) (v : W64) : (g.setSreg k v).gid = g.gid := by unfold Group.setSreg; split <;> rfl
@[simp] theorem Group.setSreg_lw (g : Group) (k : BitVec 8) (v : W64) : (g.setSreg k v).lw = g.lw := by unfold Group.setSreg; split <;> rfl
@[simp] theorem Group.setSreg_k (g : Group) (k : BitVec 8) (v : W64) : (g.setSreg k v).k = g.k := by unfold Group.setSreg; split <;> rfl
@[simp] theorem Group.setSreg_part (g : Group) (k : BitVec 8) (v : W64) : (g.setSreg k v).part = g.part := by unfold Group.setSreg; split <;> rfl
@[simp] theorem Group.setSreg_spc (g : Group) (k : BitVec 8) (v : W64) : (g.setSreg k v).spc = g.spc := by unfold Group.setSreg; split <;> rfl
@[simp] theorem Group.setSreg_runq (g : Group) (k : BitVec 8) (v : W64) : (g.setSreg k v).runq = g.runq := by unfold Group.setSreg; split <;> rfl
@[simp] theorem Group.setSreg_regs (g : Group) (k : BitVec 8) (v : W64) : (g.setSreg k v).regs = g.regs := by unfold Group.setSreg; split <;> rfl
@[simp] theorem Group.setSreg_bound (g : Group) (k : BitVec 8) (v : W64) : (g.setSreg k v).bound = g.bound := by unfold Group.setSreg; split <;> rfl
@[simp] theorem Group.setSreg_masks (g : Group) (k : BitVec 8) (v : W64) : (g.setSreg k v).masks = g.masks := by unfold Group.setSreg; split <;> rfl
@[simp] theorem Group.setSreg_ctrs (g : Group) (k : BitVec 8) (v : W64) : (g.setSreg k v).ctrs = g.ctrs := by unfold Group.setSreg; split <;> rfl
@[simp] theorem Group.setSreg_flights (g : Group) (k : BitVec 8) (v : W64) : (g.setSreg k v).flights = g.flights := by unfold Group.setSreg; split <;> rfl
@[simp] theorem Group.setSreg_nextId (g : Group) (k : BitVec 8) (v : W64) : (g.setSreg k v).nextId = g.nextId := by unfold Group.setSreg; split <;> rfl
@[simp] theorem Group.setSreg_exm (g : Group) (k : BitVec 8) (v : W64) : (g.setSreg k v).exm = g.exm := by unfold Group.setSreg; split <;> rfl
@[simp] theorem Group.setSreg_tpart (g : Group) (k : BitVec 8) (v : W64) : (g.setSreg k v).tpart = g.tpart := by unfold Group.setSreg; split <;> rfl
@[simp] theorem Group.setSreg_pins (g : Group) (k : BitVec 8) (v : W64) : (g.setSreg k v).pins = g.pins := by unfold Group.setSreg; split <;> rfl
@[simp] theorem Group.setSreg_recipes (g : Group) (k : BitVec 8) (v : W64) : (g.setSreg k v).recipes = g.recipes := by unfold Group.setSreg; split <;> rfl
@[simp] theorem Group.setSreg_cause (g : Group) (k : BitVec 8) (v : W64) : (g.setSreg k v).cause = g.cause := by unfold Group.setSreg; split <;> rfl
@[simp] theorem Group.setSreg_epc (g : Group) (k : BitVec 8) (v : W64) : (g.setSreg k v).epc = g.epc := by unfold Group.setSreg; split <;> rfl
@[simp] theorem Group.setSreg_elpc (g : Group) (k : BitVec 8) (v : W64) : (g.setSreg k v).elpc = g.elpc := by unfold Group.setSreg; split <;> rfl
@[simp] theorem Group.setSreg_faddr (g : Group) (k : BitVec 8) (v : W64) : (g.setSreg k v).faddr = g.faddr := by unfold Group.setSreg; split <;> rfl
@[simp] theorem Group.setSreg_fspc (g : Group) (k : BitVec 8) (v : W64) : (g.setSreg k v).fspc = g.fspc := by unfold Group.setSreg; split <;> rfl
@[simp] theorem Group.setSreg_stepn (g : Group) (k : BitVec 8) (v : W64) : (g.setSreg k v).stepn = g.stepn := by unfold Group.setSreg; split <;> rfl
@[simp] theorem Group.setSreg_progto (g : Group) (k : BitVec 8) (v : W64) : (g.setSreg k v).progto = g.progto := by unfold Group.setSreg; split <;> rfl
@[simp] theorem Group.setSreg_watch (g : Group) (k : BitVec 8) (v : W64) : (g.setSreg k v).watch = g.watch := by unfold Group.setSreg; split <;> rfl
@[simp] theorem Group.setSreg_tseq (g : Group) (k : BitVec 8) (v : W64) : (g.setSreg k v).tseq = g.tseq := by unfold Group.setSreg; split <;> rfl
@[simp] theorem Group.setSreg_oclosed (g : Group) (k : BitVec 8) (v : W64) : (g.setSreg k v).oclosed = g.oclosed := by unfold Group.setSreg; split <;> rfl
@[simp] theorem Group.setSreg_bars (g : Group) (k : BitVec 8) (v : W64) : (g.setSreg k v).bars = g.bars := by unfold Group.setSreg; split <;> rfl
@[simp] theorem Group.setSreg_growAsk (g : Group) (k : BitVec 8) (v : W64) : (g.setSreg k v).growAsk = g.growAsk := by unfold Group.setSreg; split <;> rfl
@[simp] theorem Group.setSreg_latch (g : Group) (k : BitVec 8) (v : W64) : (g.setSreg k v).latch = g.latch := by unfold Group.setSreg; split <;> rfl
@[simp] theorem Group.setSreg_tiles (g : Group) (k : BitVec 8) (v : W64) : (g.setSreg k v).tiles = g.tiles := by unfold Group.setSreg; split <;> rfl
@[simp] theorem Group.setSreg_mq (g : Group) (k : BitVec 8) (v : W64) : (g.setSreg k v).mq = g.mq := by unfold Group.setSreg; split <;> rfl
@[simp] theorem Group.setSreg_trial (g : Group) (k : BitVec 8) (v : W64) : (g.setSreg k v).trial = g.trial := by unfold Group.setSreg; split <;> rfl
@[simp] theorem Group.setSreg_races (g : Group) (k : BitVec 8) (v : W64) : (g.setSreg k v).races = g.races := by unfold Group.setSreg; split <;> rfl
@[simp] theorem Group.setSreg_passed (g : Group) (k : BitVec 8) (v : W64) : (g.setSreg k v).passed = g.passed := by unfold Group.setSreg; split <;> rfl
@[simp] theorem Group.setSreg_aside (g : Group) (k : BitVec 8) (v : W64) : (g.setSreg k v).aside = g.aside := by unfold Group.setSreg; split <;> rfl
@[simp] theorem Group.setSreg_skip (g : Group) (k : BitVec 8) (v : W64) : (g.setSreg k v).skip = g.skip := by unfold Group.setSreg; split <;> rfl
@[simp] theorem Group.setSreg_double (g : Group) (k : BitVec 8) (v : W64) : (g.setSreg k v).double = g.double := by unfold Group.setSreg; split <;> rfl
@[simp] theorem Group.setSreg_quota (g : Group) (k : BitVec 8) (v : W64) : (g.setSreg k v).quota = g.quota := by unfold Group.setSreg; split <;> rfl
@[simp] theorem Group.setSreg_toHost (g : Group) (k : BitVec 8) (v : W64) : (g.setSreg k v).toHost = g.toHost := by unfold Group.setSreg; split <;> rfl
@[simp] theorem Group.setSreg_parked (g : Group) (k : BitVec 8) (v : W64) : (g.setSreg k v).parked = g.parked := by unfold Group.setSreg; split <;> rfl
@[simp] theorem Group.setSreg_stepHeld (g : Group) (k : BitVec 8) (v : W64) : (g.setSreg k v).stepHeld = g.stepHeld := by unfold Group.setSreg; split <;> rfl
@[simp] theorem Group.setSreg_deferred (g : Group) (k : BitVec 8) (v : W64) : (g.setSreg k v).deferred = g.deferred := by unfold Group.setSreg; split <;> rfl
@[simp] theorem Group.setSreg_spend (g : Group) (k : BitVec 8) (v : W64) : (g.setSreg k v).spend = g.spend := by unfold Group.setSreg; split <;> rfl
@[simp] theorem Group.setSreg_puts (g : Group) (k : BitVec 8) (v : W64) : (g.setSreg k v).puts = g.puts := by unfold Group.setSreg; split <;> rfl
@[simp] theorem Group.setSreg_last (g : Group) (k : BitVec 8) (v : W64) : (g.setSreg k v).last = g.last := by unfold Group.setSreg; split <;> rfl
@[simp] theorem Group.setSreg_trapAt (g : Group) (k : BitVec 8) (v : W64) : (g.setSreg k v).trapAt = g.trapAt := by unfold Group.setSreg; split <;> rfl
@[simp] theorem Group.setSreg_relv (g : Group) (k : BitVec 8) (v : W64) : (g.setSreg k v).relv = g.relv := by unfold Group.setSreg; split <;> rfl
@[simp] theorem Group.setSreg_srelv (g : Group) (k : BitVec 8) (v : W64) : (g.setSreg k v).srelv = g.srelv := by unfold Group.setSreg; split <;> rfl
@[simp] theorem Group.setSreg_acqv (g : Group) (k : BitVec 8) (v : W64) : (g.setSreg k v).acqv = g.acqv := by unfold Group.setSreg; split <;> rfl
@[simp] theorem Group.setSreg_heard (g : Group) (k : BitVec 8) (v : W64) : (g.setSreg k v).heard = g.heard := by unfold Group.setSreg; split <;> rfl
@[simp] theorem Group.setSreg_obsv (g : Group) (k : BitVec 8) (v : W64) : (g.setSreg k v).obsv = g.obsv := by unfold Group.setSreg; split <;> rfl
@[simp] theorem Group.setSreg_sobs (g : Group) (k : BitVec 8) (v : W64) : (g.setSreg k v).sobs = g.sobs := by unfold Group.setSreg; split <;> rfl
@[simp] theorem Group.setSreg_slack (g : Group) (k : BitVec 8) (v : W64) : (g.setSreg k v).slack = g.slack := by unfold Group.setSreg; split <;> rfl
@[simp] theorem Group.setSreg_mid (g : Group) (k : BitVec 8) (v : W64) : (g.setSreg k v).mid = g.mid := by unfold Group.setSreg; split <;> rfl
@[simp] theorem Group.setSreg_late (g : Group) (k : BitVec 8) (v : W64) : (g.setSreg k v).late = g.late := by unfold Group.setSreg; split <;> rfl
@[simp] theorem Group.writeSreg_slot (g : Group) (free : Nat) (k : BitVec 8) (v : W64) : (g.writeSreg free k v).slot = g.slot := by unfold Group.writeSreg Group.raceSreg; split <;> simp
@[simp] theorem Group.writeSreg_gid (g : Group) (free : Nat) (k : BitVec 8) (v : W64) : (g.writeSreg free k v).gid = g.gid := by unfold Group.writeSreg Group.raceSreg; split <;> simp
@[simp] theorem Group.writeSreg_lw (g : Group) (free : Nat) (k : BitVec 8) (v : W64) : (g.writeSreg free k v).lw = g.lw := by unfold Group.writeSreg Group.raceSreg; split <;> simp
@[simp] theorem Group.writeSreg_k (g : Group) (free : Nat) (k : BitVec 8) (v : W64) : (g.writeSreg free k v).k = g.k := by unfold Group.writeSreg Group.raceSreg; split <;> simp
@[simp] theorem Group.writeSreg_part (g : Group) (free : Nat) (k : BitVec 8) (v : W64) : (g.writeSreg free k v).part = g.part := by unfold Group.writeSreg Group.raceSreg; split <;> simp
@[simp] theorem Group.writeSreg_spc (g : Group) (free : Nat) (k : BitVec 8) (v : W64) : (g.writeSreg free k v).spc = g.spc := by unfold Group.writeSreg Group.raceSreg; split <;> simp
@[simp] theorem Group.writeSreg_runq (g : Group) (free : Nat) (k : BitVec 8) (v : W64) : (g.writeSreg free k v).runq = g.runq := by unfold Group.writeSreg Group.raceSreg; split <;> simp
@[simp] theorem Group.writeSreg_regs (g : Group) (free : Nat) (k : BitVec 8) (v : W64) : (g.writeSreg free k v).regs = g.regs := by unfold Group.writeSreg Group.raceSreg; split <;> simp
@[simp] theorem Group.writeSreg_bound (g : Group) (free : Nat) (k : BitVec 8) (v : W64) : (g.writeSreg free k v).bound = g.bound := by unfold Group.writeSreg Group.raceSreg; split <;> simp
@[simp] theorem Group.writeSreg_masks (g : Group) (free : Nat) (k : BitVec 8) (v : W64) : (g.writeSreg free k v).masks = g.masks := by unfold Group.writeSreg Group.raceSreg; split <;> simp
@[simp] theorem Group.writeSreg_ctrs (g : Group) (free : Nat) (k : BitVec 8) (v : W64) : (g.writeSreg free k v).ctrs = g.ctrs := by unfold Group.writeSreg Group.raceSreg; split <;> simp
@[simp] theorem Group.writeSreg_nextId (g : Group) (free : Nat) (k : BitVec 8) (v : W64) : (g.writeSreg free k v).nextId = g.nextId := by unfold Group.writeSreg Group.raceSreg; split <;> simp
@[simp] theorem Group.writeSreg_exm (g : Group) (free : Nat) (k : BitVec 8) (v : W64) : (g.writeSreg free k v).exm = g.exm := by unfold Group.writeSreg Group.raceSreg; split <;> simp
@[simp] theorem Group.writeSreg_tpart (g : Group) (free : Nat) (k : BitVec 8) (v : W64) : (g.writeSreg free k v).tpart = g.tpart := by unfold Group.writeSreg Group.raceSreg; split <;> simp
@[simp] theorem Group.writeSreg_pins (g : Group) (free : Nat) (k : BitVec 8) (v : W64) : (g.writeSreg free k v).pins = g.pins := by unfold Group.writeSreg Group.raceSreg; split <;> simp
@[simp] theorem Group.writeSreg_recipes (g : Group) (free : Nat) (k : BitVec 8) (v : W64) : (g.writeSreg free k v).recipes = g.recipes := by unfold Group.writeSreg Group.raceSreg; split <;> simp
@[simp] theorem Group.writeSreg_cause (g : Group) (free : Nat) (k : BitVec 8) (v : W64) : (g.writeSreg free k v).cause = g.cause := by unfold Group.writeSreg Group.raceSreg; split <;> simp
@[simp] theorem Group.writeSreg_epc (g : Group) (free : Nat) (k : BitVec 8) (v : W64) : (g.writeSreg free k v).epc = g.epc := by unfold Group.writeSreg Group.raceSreg; split <;> simp
@[simp] theorem Group.writeSreg_elpc (g : Group) (free : Nat) (k : BitVec 8) (v : W64) : (g.writeSreg free k v).elpc = g.elpc := by unfold Group.writeSreg Group.raceSreg; split <;> simp
@[simp] theorem Group.writeSreg_faddr (g : Group) (free : Nat) (k : BitVec 8) (v : W64) : (g.writeSreg free k v).faddr = g.faddr := by unfold Group.writeSreg Group.raceSreg; split <;> simp
@[simp] theorem Group.writeSreg_fspc (g : Group) (free : Nat) (k : BitVec 8) (v : W64) : (g.writeSreg free k v).fspc = g.fspc := by unfold Group.writeSreg Group.raceSreg; split <;> simp
@[simp] theorem Group.writeSreg_stepn (g : Group) (free : Nat) (k : BitVec 8) (v : W64) : (g.writeSreg free k v).stepn = g.stepn := by unfold Group.writeSreg Group.raceSreg; split <;> simp
@[simp] theorem Group.writeSreg_progto (g : Group) (free : Nat) (k : BitVec 8) (v : W64) : (g.writeSreg free k v).progto = g.progto := by unfold Group.writeSreg Group.raceSreg; split <;> simp
@[simp] theorem Group.writeSreg_watch (g : Group) (free : Nat) (k : BitVec 8) (v : W64) : (g.writeSreg free k v).watch = g.watch := by unfold Group.writeSreg Group.raceSreg; split <;> simp
@[simp] theorem Group.writeSreg_tseq (g : Group) (free : Nat) (k : BitVec 8) (v : W64) : (g.writeSreg free k v).tseq = g.tseq := by unfold Group.writeSreg Group.raceSreg; split <;> simp
@[simp] theorem Group.writeSreg_oclosed (g : Group) (free : Nat) (k : BitVec 8) (v : W64) : (g.writeSreg free k v).oclosed = g.oclosed := by unfold Group.writeSreg Group.raceSreg; split <;> simp
@[simp] theorem Group.writeSreg_bars (g : Group) (free : Nat) (k : BitVec 8) (v : W64) : (g.writeSreg free k v).bars = g.bars := by unfold Group.writeSreg Group.raceSreg; split <;> simp
@[simp] theorem Group.writeSreg_growAsk (g : Group) (free : Nat) (k : BitVec 8) (v : W64) : (g.writeSreg free k v).growAsk = g.growAsk := by unfold Group.writeSreg Group.raceSreg; split <;> simp
@[simp] theorem Group.writeSreg_latch (g : Group) (free : Nat) (k : BitVec 8) (v : W64) : (g.writeSreg free k v).latch = g.latch := by unfold Group.writeSreg Group.raceSreg; split <;> simp
@[simp] theorem Group.writeSreg_tiles (g : Group) (free : Nat) (k : BitVec 8) (v : W64) : (g.writeSreg free k v).tiles = g.tiles := by unfold Group.writeSreg Group.raceSreg; split <;> simp
@[simp] theorem Group.writeSreg_mq (g : Group) (free : Nat) (k : BitVec 8) (v : W64) : (g.writeSreg free k v).mq = g.mq := by unfold Group.writeSreg Group.raceSreg; split <;> simp
@[simp] theorem Group.writeSreg_trial (g : Group) (free : Nat) (k : BitVec 8) (v : W64) : (g.writeSreg free k v).trial = g.trial := by unfold Group.writeSreg Group.raceSreg; split <;> simp
@[simp] theorem Group.writeSreg_races (g : Group) (free : Nat) (k : BitVec 8) (v : W64) : (g.writeSreg free k v).races = g.races := by unfold Group.writeSreg Group.raceSreg; split <;> simp
@[simp] theorem Group.writeSreg_passed (g : Group) (free : Nat) (k : BitVec 8) (v : W64) : (g.writeSreg free k v).passed = g.passed := by unfold Group.writeSreg Group.raceSreg; split <;> simp
@[simp] theorem Group.writeSreg_aside (g : Group) (free : Nat) (k : BitVec 8) (v : W64) : (g.writeSreg free k v).aside = g.aside := by unfold Group.writeSreg Group.raceSreg; split <;> simp
@[simp] theorem Group.writeSreg_skip (g : Group) (free : Nat) (k : BitVec 8) (v : W64) : (g.writeSreg free k v).skip = g.skip := by unfold Group.writeSreg Group.raceSreg; split <;> simp
@[simp] theorem Group.writeSreg_double (g : Group) (free : Nat) (k : BitVec 8) (v : W64) : (g.writeSreg free k v).double = g.double := by unfold Group.writeSreg Group.raceSreg; split <;> simp
@[simp] theorem Group.writeSreg_quota (g : Group) (free : Nat) (k : BitVec 8) (v : W64) : (g.writeSreg free k v).quota = g.quota := by unfold Group.writeSreg Group.raceSreg; split <;> simp
@[simp] theorem Group.writeSreg_toHost (g : Group) (free : Nat) (k : BitVec 8) (v : W64) : (g.writeSreg free k v).toHost = g.toHost := by unfold Group.writeSreg Group.raceSreg; split <;> simp
@[simp] theorem Group.writeSreg_parked (g : Group) (free : Nat) (k : BitVec 8) (v : W64) : (g.writeSreg free k v).parked = g.parked := by unfold Group.writeSreg Group.raceSreg; split <;> simp
@[simp] theorem Group.writeSreg_stepHeld (g : Group) (free : Nat) (k : BitVec 8) (v : W64) : (g.writeSreg free k v).stepHeld = g.stepHeld := by unfold Group.writeSreg Group.raceSreg; split <;> simp
@[simp] theorem Group.writeSreg_deferred (g : Group) (free : Nat) (k : BitVec 8) (v : W64) : (g.writeSreg free k v).deferred = g.deferred := by unfold Group.writeSreg Group.raceSreg; split <;> simp
@[simp] theorem Group.writeSreg_spend (g : Group) (free : Nat) (k : BitVec 8) (v : W64) : (g.writeSreg free k v).spend = g.spend := by unfold Group.writeSreg Group.raceSreg; split <;> simp
@[simp] theorem Group.writeSreg_puts (g : Group) (free : Nat) (k : BitVec 8) (v : W64) : (g.writeSreg free k v).puts = g.puts := by unfold Group.writeSreg Group.raceSreg; split <;> simp
@[simp] theorem Group.writeSreg_last (g : Group) (free : Nat) (k : BitVec 8) (v : W64) : (g.writeSreg free k v).last = g.last := by unfold Group.writeSreg Group.raceSreg; split <;> simp
@[simp] theorem Group.writeSreg_trapAt (g : Group) (free : Nat) (k : BitVec 8) (v : W64) : (g.writeSreg free k v).trapAt = g.trapAt := by unfold Group.writeSreg Group.raceSreg; split <;> simp
@[simp] theorem Group.writeSreg_relv (g : Group) (free : Nat) (k : BitVec 8) (v : W64) : (g.writeSreg free k v).relv = g.relv := by unfold Group.writeSreg Group.raceSreg; split <;> simp
@[simp] theorem Group.writeSreg_srelv (g : Group) (free : Nat) (k : BitVec 8) (v : W64) : (g.writeSreg free k v).srelv = g.srelv := by unfold Group.writeSreg Group.raceSreg; split <;> simp
@[simp] theorem Group.writeSreg_acqv (g : Group) (free : Nat) (k : BitVec 8) (v : W64) : (g.writeSreg free k v).acqv = g.acqv := by unfold Group.writeSreg Group.raceSreg; split <;> simp
@[simp] theorem Group.writeSreg_heard (g : Group) (free : Nat) (k : BitVec 8) (v : W64) : (g.writeSreg free k v).heard = g.heard := by unfold Group.writeSreg Group.raceSreg; split <;> simp
@[simp] theorem Group.writeSreg_obsv (g : Group) (free : Nat) (k : BitVec 8) (v : W64) : (g.writeSreg free k v).obsv = g.obsv := by unfold Group.writeSreg Group.raceSreg; split <;> simp
@[simp] theorem Group.writeSreg_sobs (g : Group) (free : Nat) (k : BitVec 8) (v : W64) : (g.writeSreg free k v).sobs = g.sobs := by unfold Group.writeSreg Group.raceSreg; split <;> simp
@[simp] theorem Group.writeSreg_slack (g : Group) (free : Nat) (k : BitVec 8) (v : W64) : (g.writeSreg free k v).slack = g.slack := by unfold Group.writeSreg Group.raceSreg; split <;> simp
@[simp] theorem Group.writeSreg_mid (g : Group) (free : Nat) (k : BitVec 8) (v : W64) : (g.writeSreg free k v).mid = g.mid := by unfold Group.writeSreg Group.raceSreg; split <;> simp
@[simp] theorem Group.writeSreg_late (g : Group) (free : Nat) (k : BitVec 8) (v : W64) : (g.writeSreg free k v).late = g.late := by unfold Group.writeSreg Group.raceSreg; split <;> simp

@[simp] theorem State.draw_free (s : State) : s.draw.free = s.free + 1 := rfl
@[simp] theorem Group.goto_spc (g : Group) (pc : W32) : (g.goto pc).spc = pc := rfl
@[simp] theorem Group.advance_spc (g : Group) : g.advance.spc = g.spc + 1 := rfl
@[simp] theorem Group.touch_watch (g : Group) (s : State) : (g.touch s).watch = (if g.inh then 0 else (s.us : Int)) := rfl
/-- s0 discards a write (06 R107). -/
@[simp] theorem Group.setSreg_zero (g : Group) (v : W64) : g.setSreg 0 v = g := rfl
theorem Group.setSreg_of_ne (g : Group) {k : BitVec 8} (v : W64) (h : k ≠ 0) : g.setSreg k v = { g with sregs := g.sregs.set k.toNat v k.isLt } := if_neg h
theorem Group.setSreg_self (g : Group) {k : BitVec 8} (v : W64) (h : k ≠ 0) : (g.setSreg k v).sregs[k.toNat]'(k.isLt) = v := by
  rw [g.setSreg_of_ne v h]; exact Vector.getElem_set_self k.isLt
theorem Group.setSreg_other (g : Group) {k : BitVec 8} (v : W64) (i : Fin 256) (h : i.val ≠ k.toNat) : (g.setSreg k v).sregs[i] = g.sregs[i] := by
  unfold Group.setSreg
  split
  · rfl
  · exact Vector.getElem_set_ne k.isLt i.isLt (Ne.symm h)

@[simp] theorem Group.writeSreg_zero (g : Group) (free : Nat) (v : W64) : g.writeSreg free 0 v = g := rfl
/-- Without a lane word on its way that writes the register, a scalar word's write is the plain one (07 R131). -/
theorem Group.writeSreg_settled (g : Group) (free : Nat) {k : BitVec 8} (v : W64) (h : k = 0 ∨ ∀ f ∈ g.flights, ∀ x, Eff.sreg k x ∉ f.effs) :
    g.writeSreg free k v = g.setSreg k v := by
  unfold Group.writeSreg
  by_cases hk : k = 0
  · subst hk; rfl
  · rw [if_neg hk]
    have hf := h.resolve_left hk
    have : g.raceSreg free k = g := by
      unfold Group.raceSreg
      rw [List.map_congr_left (g := id)]
      · simp
      · intro f hm
        rw [List.filter_eq_self.mpr]
        · rfl
        · intro e he
          cases e with
          | sreg k' x =>
            have : k' ≠ k := fun hk' => hf f hm x (hk' ▸ he)
            simp [this]
          | reg _ _ _ => rfl
          | mask _ _ _ => rfl
          | ws _ => rfl
    rw [this]

/-- The group of a slot, when it is found, sits in that slot. -/
theorem State.group?_slot {s : State} {slot : Nat} {g : Group} (h : s.group? slot = some g) : g.slot = slot := by
  have := List.find?_some h
  simpa using this

theorem find?_map_replace (gs : List Group) (slot : Nat) {g g' : Group} (h : gs.find? (fun x => x.slot == slot) = some g) (hs : g'.slot = slot) :
    (gs.map fun x => if x.slot == slot then g' else x).find? (fun x => x.slot == slot) = some g' := by
  induction gs with
  | nil => simp at h
  | cons x xs ih =>
    simp only [List.find?_cons, List.map_cons] at h ⊢
    cases hx : (x.slot == slot) with
    | true => simp [hs]
    | false =>
      rw [hx] at h
      simp only [Bool.false_eq_true, if_false, hx]
      exact ih h

theorem find?_map_replace_ne (gs : List Group) {slot : Nat} {g' : Group} (h : slot ≠ g'.slot) :
    (gs.map fun x => if x.slot == g'.slot then g' else x).find? (fun x => x.slot == slot) = gs.find? (fun x => x.slot == slot) := by
  induction gs with
  | nil => rfl
  | cons x xs ih =>
    simp only [List.find?_cons, List.map_cons]
    cases hx : (x.slot == g'.slot) with
    | false => simp only [Bool.false_eq_true, if_false]; rw [ih]
    | true =>
      have h2 : (g'.slot == slot) = false := by simpa using Ne.symm h
      rw [show x.slot = g'.slot by simpa using hx]
      simp only [if_true, h2]
      exact ih

/-- The group of a slot after it is replaced. -/
theorem State.group?_setGroup {s : State} {g g' : Group} (h : s.group? g'.slot = some g) : (s.setGroup g').group? g'.slot = some g' :=
  find?_map_replace s.groups g'.slot h rfl

/-- The other slots keep their groups. -/
theorem State.group?_setGroup_ne {s : State} {g' : Group} {slot : Nat} (h : slot ≠ g'.slot) : (s.setGroup g').group? slot = s.group? slot :=
  find?_map_replace_ne s.groups h

end Sys2Proof.Machine
end

