-- ==== Sys2Proof/Laws/Ops.lean ====
section
/-!
SUPPORT. What the shared operations of the words can do: each goes on from a state whose `cur` names a group, and each has one equation for the case
in which the word has its effect.
-/
namespace Sys2Proof.Machine

-- ### The group at hand

theorem onGroup_eq {s : State} {g : Group} {f : Group → Out} (h : s.group? s.cur = some g) : onGroup s f = f g := by
  unfold onGroup; rw [h]

theorem withGroup_eq {s : State} {slot : Nat} {g : Group} {f : Group → State} (h : s.group? slot = some g) : withGroup s slot f = .next (f g) := by
  unfold withGroup; rw [h]

/-- A scalar word that is not held back acts. -/
theorem scalarWord_eq {s : State} {g : Group} {d : BitVec 8} {f : Group → Out} (h : s.group? s.cur = some g) (hs : g.scalarStalls d = false) :
    scalarWord s d f = f g := by
  unfold scalarWord; rw [onGroup_eq h, hs]; rfl

/-- A waiting word whose condition holds acts. -/
theorem scalarWait_eq {s : State} {g : Group} {covers : BitVec 12} {ready : Group → Bool} {f : Group → Out} (h : s.group? s.cur = some g)
    (hs : g.scalarStalls 0 = false) (hr : ready g = true) (hd : g.deferredIn covers = none) : scalarWait s covers ready f = f g := by
  unfold scalarWait; rw [scalarWord_eq h hs]; simp [hr, hd]

/-- A waiting word whose condition does not hold changes nothing. -/
theorem scalarWait_waits {s : State} {g : Group} {covers : BitVec 12} {ready : Group → Bool} {f : Group → Out} (h : s.group? s.cur = some g)
    (hs : g.scalarStalls 0 = false) (hr : ready g = false) : scalarWait s covers ready f = .next s := by
  unfold scalarWait; rw [scalarWord_eq h hs]; simp [hr]

theorem scalarAlu_eq {s : State} {g : Group} {d : BitVec 8} {f : Group → W64} (h : s.group? s.cur = some g) (hs : g.scalarStalls d = false) :
    scalarAlu s d f = .next (s.draw.setGroup ((g.writeSreg s.free d (f g)).advance)) := scalarWord_eq h hs

/-- A scalar word of a group without queued runs and without a result on its way is not held back. -/
theorem scalarStalls_idle {g : Group} (d : BitVec 8) (hp : g.spend = none) (hr : g.runq = []) : g.scalarStalls d = false := by
  simp [Group.scalarStalls, hp, hr]

-- ### Lane words

theorem ageFlights_idle {g : Group} (dist : BitVec 4) (h : g.flights = []) : g.ageFlights dist = g := by
  cases g; simp only at h; subst h; rfl

theorem rekindle_plain {s : State} {g : Group} (k : Nat) (h : g.recipes = []) : s.rekindle g k = .ok (s, g) := by
  unfold State.rekindle Group.recipe?
  rw [h]; simp

theorem rekindleAll_plain {s : State} {g : Group} (ks : List Nat) (h : g.recipes = []) : s.rekindleAll g ks = .ok (s, g) := by
  induction ks with
  | nil => rfl
  | cons k ks ih => unfold State.rekindleAll; rw [rekindle_plain k h]; exact ih

/-- Without recipes a word has nothing to rekindle. -/
theorem prepare_plain {s : State} {g : Group} (reads writes : List RName) (on : W32) (h : g.recipes = []) : s.prepare g reads writes on = .ok (s, g) :=
  rekindleAll_plain _ h

theorem map_zipIdx_self {α : Type} (xs : List α) (f : α × Nat → α) (h : ∀ p ∈ xs.zipIdx, f p = p.1) : xs.zipIdx.map f = xs := by
  rw [List.map_congr_left h]
  exact List.zipIdx_map_fst 0 xs

/-- Without recipes and EMBER registers a write drops nothing. -/
theorem dropRecipes_plain {g : Group} (writes : List RName) (h : g.recipes = []) (he : ∀ r ∈ g.regs, r.st ≠ .ember) : g.dropRecipes writes = g := by
  unfold Group.dropRecipes
  simp only [h, List.filter_nil]
  rw [map_zipIdx_self]
  · cases g; simp only at h; subst h; rfl
  · intro p hp
    rw [if_neg]
    rintro ⟨h1, -⟩
    have : p.1 ∈ g.regs := by
      have := List.mem_map_of_mem (f := Prod.fst) hp
      rwa [List.zipIdx_map_fst] at this
    exact he _ this h1

theorem Group.plain.deferredIn {g : Group} (h : g.plain) (waits : BitVec 12) : g.deferredIn waits = none := by
  unfold Group.deferredIn; rw [h.deferred]; rfl

theorem acquiring_idle {g : Group} (h : g.flights = []) : g.acquiring = false := by
  unfold Group.acquiring; rw [h]; rfl

theorem holdsRelease_idle {g : Group} (c : WordClass) (h : g.flights = []) : g.holdsRelease c = false := by
  unfold Group.holdsRelease; rw [h]; cases c <;> simp

/-- Without a word on its way the results of a word stand as they are (07 R137). -/
theorem settle_idle {g : Group} (free : Nat) (effs : List Eff) (h : g.flights = []) : g.settle free effs = effs := by
  unfold Group.settle; rw [h]; rfl

/-- A word that has written nothing leaves no store to wait for. -/
theorem tookStores_none (g : Group) (h : LaneCtl) (n : Nat) : g.tookStores h (stampsFrom n n) = g := by
  unfold Group.tookStores stampsFrom; simp
/-- A word of which no lane has been performed has no stores yet. -/
theorem midStores_none {g : Group} (h : g.mid = none) : g.midStores = [] := by
  unfold Group.midStores; rw [h]; rfl

/-- The issue of a lane word of a plain group: the body runs in the active lanes, and the word flies with its effects. -/
theorem laneIssue_plain {s s' : State} {g g' : Group} {h : LaneCtl} {whole : Bool} {cls : WordClass} {lat : Nat} {writes reads : List RName}
    {body : State → Group → W32 → LaneRes} {effs : List Eff} {ready : Bool} {on : W32}
    (hc : s.group? s.cur = some g) (hr : s.laneReady g h = true) (hp : g.plain) (ho : on = if whole then g.exm else g.active s.free h.pred)
    (hn : whole = true ∨ on ≠ 0) (ha : ∀ r ∈ writes ++ reads, g.inAllot r = true) (hb : body s g on = .done s' g' effs ready) :
    laneIssue s h whole cls lat writes reads body
      = .next (s'.draw.setGroup ((g'.issued s.fclk h cls lat ready effs).tookStores h (stampsFrom s.order.stamp s'.order.stamp))) := by
  unfold laneIssue
  rw [onGroup_eq hc]
  simp only [hr, acquiring_idle hp.flights, holdsRelease_idle cls hp.flights, Bool.and_false, Bool.or_false, Bool.not_true, Bool.false_eq_true, if_false, hp.deferredIn, ageFlights_idle h.dist hp.flights, hp.mid, Option.isSome_none, midStores_none hp.mid, List.nil_append]
  rw [← ho, if_neg (by rcases hn with hn | hn <;> simp [hn] <;> exact fun h => absurd h hn), prepare_plain _ _ _ hp.recipes]
  simp only
  rw [List.find?_eq_none.mpr (by intro r hr'; simp [ha r hr']), dropRecipes_plain writes hp.recipes hp.embers]
  simp only [hb, settle_idle _ _ hp.flights]

/-- The same for a word that writes no memory. -/
theorem laneIssue_quiet {s s' : State} {g g' : Group} {h : LaneCtl} {whole : Bool} {cls : WordClass} {lat : Nat} {writes reads : List RName}
    {body : State → Group → W32 → LaneRes} {effs : List Eff} {ready : Bool} {on : W32}
    (hc : s.group? s.cur = some g) (hr : s.laneReady g h = true) (hp : g.plain) (ho : on = if whole then g.exm else g.active s.free h.pred)
    (hn : whole = true ∨ on ≠ 0) (ha : ∀ r ∈ writes ++ reads, g.inAllot r = true) (hb : body s g on = .done s' g' effs ready) (hs : s'.order.stamp = s.order.stamp) :
    laneIssue s h whole cls lat writes reads body = .next (s'.draw.setGroup (g'.issued s.fclk h cls lat ready effs)) := by
  rw [laneIssue_plain hc hr hp ho hn ha hb, hs, tookStores_none]

/-- The check of a lane word fails in a plain group: it traps, with what it has read recorded. -/
theorem laneIssue_trap {s s' : State} {g g' : Group} {h : LaneCtl} {whole : Bool} {cls : WordClass} {lat : Nat} {writes reads : List RName}
    {body : State → Group → W32 → LaneRes} {f : Flt} {on : W32}
    (hc : s.group? s.cur = some g) (hr : s.laneReady g h = true) (hp : g.plain) (ho : on = if whole then g.exm else g.active s.free h.pred)
    (hn : whole = true ∨ on ≠ 0) (ha : ∀ r ∈ writes ++ reads, g.inAllot r = true) (hb : body s g on = .trap s' g' f) :
    laneIssue s h whole cls lat writes reads body = .next (s'.trapAt { g with acqv := g'.acqv, obsv := g'.obsv } true f false) := by
  unfold laneIssue
  rw [onGroup_eq hc]
  simp only [hr, acquiring_idle hp.flights, holdsRelease_idle cls hp.flights, Bool.and_false, Bool.or_false, Bool.not_true, Bool.false_eq_true, if_false, hp.deferredIn, ageFlights_idle h.dist hp.flights, hp.mid, Option.isSome_none, midStores_none hp.mid, List.nil_append]
  rw [← ho, if_neg (by rcases hn with hn | hn <;> simp [hn] <;> exact fun h => absurd h hn), prepare_plain _ _ _ hp.recipes]
  simp only
  rw [List.find?_eq_none.mpr (by intro r hr'; simp [ha r hr']), dropRecipes_plain writes hp.recipes hp.embers]
  simp only [hb, ← hp.mid]
  rfl

/-- A word that is not eligible waits. -/
theorem laneIssue_waits {s : State} {g : Group} {h : LaneCtl} {whole : Bool} {cls : WordClass} {lat : Nat} {writes reads : List RName}
    {body : State → Group → W32 → LaneRes} (hc : s.group? s.cur = some g) (hr : s.laneReady g h = false) :
    laneIssue s h whole cls lat writes reads body = .next s := by
  unfold laneIssue; rw [onGroup_eq hc]; simp [hr]

/-- A word without an active lane changes nothing but its counter (07 R141). -/
theorem laneIssue_empty {s : State} {g : Group} {h : LaneCtl} {cls : WordClass} {lat : Nat} {writes reads : List RName}
    {body : State → Group → W32 → LaneRes} (hc : s.group? s.cur = some g) (hr : s.laneReady g h = true) (hp : g.plain)
    (ho : g.active s.free h.pred = 0) :
    laneIssue s h false cls lat writes reads body = .next (s.draw.setGroup (g.issued s.fclk h cls.idle lat true [])) := by
  unfold laneIssue
  rw [onGroup_eq hc]
  simp [hr, acquiring_idle hp.flights, holdsRelease_idle cls hp.flights, hp.deferredIn, ageFlights_idle h.dist hp.flights, hp.mid, ho]

/-- A memory word behind an acquire that is not complete waits (13 R287). -/
theorem laneIssue_held {s : State} {g : Group} {h : LaneCtl} {whole : Bool} {cls : WordClass} {lat : Nat} {writes reads : List RName}
    {body : State → Group → W32 → LaneRes} (hc : s.group? s.cur = some g) (hm : cls.isMemory = true) (ha : g.acquiring = true) :
    laneIssue s h whole cls lat writes reads body = .next s := by
  unfold laneIssue; rw [onGroup_eq hc]; simp [hm, ha]

/-- A store that releases waits while an MMQ of the group has still to read its B tile (13 R287, 15 R334). -/
theorem laneIssue_heldRelease {s : State} {g : Group} {h : LaneCtl} {whole : Bool} {cls : WordClass} {lat : Nat} {writes reads : List RName}
    {body : State → Group → W32 → LaneRes} (hc : s.group? s.cur = some g) (hm : g.holdsRelease cls = true) :
    laneIssue s h whole cls lat writes reads body = .next s := by
  unfold laneIssue; rw [onGroup_eq hc]; simp [hm]

-- ### Every operation goes on

theorem runs_next (t : State) : Runs (.next t) := ⟨t, rfl⟩
theorem runs_ite {p : Prop} [Decidable p] {a b : Out} (ha : Runs a) (hb : Runs b) : Runs (if p then a else b) := by split <;> assumption
theorem trapLane_runs (s : State) (g : Group) (f : Flt) : Runs (s.trapLane g f) := runs_next _
theorem trapScalar_runs (s : State) (g : Group) (f : Flt) : Runs (s.trapScalar g f) := runs_next _
theorem withGroup_runs (s : State) (slot : Nat) (f : Group → State) : Runs (withGroup s slot f) := runs_next _

theorem onGroup_runs {s : State} {f : Group → Out} (h : s.atGroup) (hf : ∀ g, Runs (f g)) : Runs (onGroup s f) := by
  obtain ⟨g, hg⟩ := Option.isSome_iff_exists.mp h
  rw [onGroup_eq hg]; exact hf g

theorem scalarWord_runs {s : State} {d : BitVec 8} {f : Group → Out} (h : s.atGroup) (hf : ∀ g, Runs (f g)) : Runs (scalarWord s d f) :=
  onGroup_runs h fun g => runs_ite (runs_next s) (hf g)

theorem scalarAlu_runs {s : State} {d : BitVec 8} {f : Group → W64} (h : s.atGroup) : Runs (scalarAlu s d f) :=
  scalarWord_runs h fun _ => runs_next _

theorem scalarWait_runs {s : State} {covers : BitVec 12} {ready : Group → Bool} {f : Group → Out} (h : s.atGroup) (hf : ∀ g, Runs (f g)) :
    Runs (scalarWait s covers ready f) := by
  refine scalarWord_runs h fun g => runs_ite (runs_next s) ?_
  split
  · exact trapScalar_runs _ _ _
  · exact hf g

theorem laneIssue_runs {s : State} {h : LaneCtl} {whole : Bool} {cls : WordClass} {lat : Nat} {writes reads : List RName}
    {body : State → Group → W32 → LaneRes} (hc : s.atGroup) : Runs (laneIssue s h whole cls lat writes reads body) := by
  refine onGroup_runs hc fun g => runs_ite (runs_next s) ?_
  split
  · exact trapLane_runs _ _ _
  · refine runs_ite (runs_next _) ?_
    split
    · exact trapLane_runs _ _ _
    · split
      · exact trapLane_runs _ _ _
      · split
        · exact trapLane_runs _ _ _
        · exact runs_next _
        · exact runs_next _

end Sys2Proof.Machine
end

