-- ==== Sys2Proof/Laws/Order.lean ====
section
/-!
SUPPORT. What a read returns (17 R355, R363): only writes that the memory model allows; a reader that knows every write of the bytes, or that reads the newest,
gets what they hold now.
-/
namespace Sys2Proof.Machine

theorem pickFrom_nil {α : Type} (free salt : Nat) : pickFrom free salt ([] : List α) = none := rfl
theorem pickFrom_one {α : Type} (free salt : Nat) (x : α) : pickFrom free salt [x] = some x := rfl

theorem choices_known {r : Reader} {vs : List Version} (h : ∀ v ∈ vs, r.knows v = true) : r.choices vs = vs.take 1 := by
  cases vs with
  | nil => rfl
  | cons v vs =>
    have hv := h v (List.mem_cons_self ..)
    have hf : vs.filter r.races = [] := List.filter_eq_nil_iff.mpr fun x hx => by simp [Reader.races, h x (List.mem_cons_of_mem _ hx)]
    simp [Reader.choices, Reader.above, hv, hf]

theorem le_foldl_max (xs : List Nat) (b : Nat) : b ≤ xs.foldl max b ∧ ∀ x ∈ xs, x ≤ xs.foldl max b := by
  induction xs generalizing b with
  | nil => simp
  | cons y ys ih =>
    obtain ⟨h1, h2⟩ := ih (max b y)
    simp only [List.foldl_cons]
    refine ⟨by omega, fun x hx => ?_⟩
    rcases List.mem_cons.mp hx with rfl | hx
    · omega
    · exact h2 x hx

/-- When every byte has at most one write to return, known to the reader, an access is cut at the newest of them. -/
theorem cuts_known {r : Reader} {acc : Nat × Nat} {bytes : List (List Version)} (h : ∀ vs ∈ bytes, vs.length ≤ 1 ∧ ∀ v ∈ vs, r.knows v = true) :
    ∃ c, r.cuts acc bytes = [c] ∧ ∀ vs ∈ bytes, ∀ v ∈ vs, v.acc = acc → v.stamp ≤ c := by
  refine ⟨(bytes.filterMap fun vs => (vs.find? fun v => (v.acc == acc && !r.races v) && r.knows v).map Version.stamp).foldl max 0, ?_, ?_⟩
  · unfold Reader.cuts
    simp only [List.append_left_eq_self, List.filter_eq_nil_iff]
    intro t ht
    simp only [decide_eq_true_eq, Nat.not_lt]
    rw [List.mem_eraseDups, List.mem_map] at ht
    obtain ⟨v, hv, rfl⟩ := ht
    rw [List.mem_filter, List.mem_flatMap] at hv
    obtain ⟨⟨vs, hvs, hm⟩, hw⟩ := hv
    refine (le_foldl_max _ 0).2 _ (List.mem_filterMap.mpr ⟨vs, hvs, ?_⟩)
    obtain ⟨hl, hk⟩ := h vs hvs
    match vs, hl, hm with
    | [x], _, hm =>
      have : v = x := by simpa using hm
      subst this
      simp [hw, hk v (List.mem_cons_self ..)]
  · intro vs hvs v hv ha
    refine (le_foldl_max _ 0).2 _ (List.mem_filterMap.mpr ⟨vs, hvs, ?_⟩)
    obtain ⟨hl, hk⟩ := h vs hvs
    match vs, hl, hv with
    | [x], _, hm =>
      have : v = x := by simpa using hm
      subst this
      have hkv := hk v (List.mem_cons_self ..)
      simp [ha, Reader.races, hkv]

theorem within_one {r : Reader} {acc : Nat × Nat} {c : Nat} {v : Version} (h : v.acc = acc → v.stamp ≤ c) (hk : r.knows v = true) :
    r.within acc c [v] = [v] := by
  have hr : r.races v = false := by simp [Reader.races, hk]
  by_cases ha : v.acc = acc
  · have := h ha
    simp [Reader.within, ha, hr, Nat.not_lt.mpr this]
  · simp [Reader.within, ha, hr]

/-- Each byte takes its newest write. -/
theorem pick_current {o : Order} {r : Reader} {free salt : Nat} {acc : Nat × Nat} {ls : List Loc}
    (h : r.newest = true ∨ ∀ l ∈ ls, ∀ v ∈ o.versions l, r.knows v = true) : o.pick r free salt acc ls = ls.map fun l => (o.versions l).head? := by
  unfold Order.pick
  split
  · rfl
  · rename_i hn
    have h := h.resolve_left hn
    have hb : ls.map (fun l => r.choices (o.versions l)) = ls.map fun l => (o.versions l).take 1 :=
      List.map_congr_left fun l hl => choices_known (h l hl)
    simp only [hb]
    obtain ⟨c, hc, hle⟩ := cuts_known (r := r) (acc := acc) (bytes := ls.map fun l => (o.versions l).take 1) (by
      intro vs hvs
      obtain ⟨l, hl, rfl⟩ := List.mem_map.mp hvs
      exact ⟨by rw [List.length_take]; omega, fun v hv => h l hl v (List.mem_of_mem_take hv)⟩)
    rw [hc, pickFrom_one, Option.getD_some]
    apply List.ext_getElem (by simp)
    intro i h1 h2
    simp only [List.getElem_map, List.getElem_zipIdx]
    simp only [List.length_map] at h2
    have hm := List.getElem_mem h2
    cases hv : o.versions ls[i] with
    | nil => simp [Reader.within, pickFrom_nil]
    | cons v vs =>
      have hmem : v ∈ o.versions ls[i] := by rw [hv]; exact List.mem_cons_self ..
      have : r.within acc c ((v :: vs).take 1) = [v] := within_one (fun ha => hle _ (List.mem_map.mpr ⟨_, hm, rfl⟩) v (by rw [hv]; simp) ha) (h _ hm v hmem)
      rw [this, pickFrom_one]; rfl

/-- A list cut into eights and put together again. -/
theorem flatMap_eights {α β : Type} (f : α → β) (n : Nat) (xs : List α) (h : xs.length ≤ 8 * n) :
    (List.range n).flatMap (fun i => ((xs.drop (8 * i)).take 8).map f) = xs.map f := by
  induction n generalizing xs with
  | zero => have : xs = [] := List.length_eq_zero_iff.mp (by omega); simp [this]
  | succ n ih =>
    rw [List.range_succ_eq_map, List.flatMap_cons, List.flatMap_map]
    have := ih (xs.drop 8) (by simp; omega)
    simp only [List.drop_drop, Nat.mul_zero, List.drop_zero] at this ⊢
    rw [show (fun i => List.map f (List.take 8 (List.drop (8 * Nat.succ i) xs))) = fun i => List.map f (List.take 8 (List.drop (8 + 8 * i) xs)) from
      funext fun i => by rw [show 8 * Nat.succ i = 8 + 8 * i by omega]]
    rw [this, ← List.map_append, List.take_append_drop]

theorem pickAll_current {s : State} {r : Reader} {salt : Nat} {ls : List Loc}
    (h : r.newest = true ∨ ∀ l ∈ ls, ∀ v ∈ s.order.versions l, r.knows v = true) : s.pickAll r salt ls = ls.map fun l => (s.order.versions l).head? := by
  unfold State.pickAll
  rw [← flatMap_eights _ ((ls.length + 7) / 8) ls (by omega)]
  congr 1
  funext i
  exact pick_current (h.imp id fun h l hl => h l (List.mem_of_mem_drop (List.mem_of_mem_take hl)))

/-- The newest write of a location is what it holds. -/
theorem versionByte_head (s : State) (l : Loc) : s.versionByte l (s.order.versions l).head? = s.byteNow l := by
  unfold State.versionByte
  split
  · rfl
  · rename_i h; simp [h]

/-- A read outside an ordered task by a reader that is up to date, with no error in the way, gives what the locations hold. -/
theorem readLocs_current {s : State} {r : Reader} {salt : Nat} {ls : List Loc} (h : r.newest = true ∨ ∀ l ∈ ls, ∀ v ∈ s.order.versions l, r.knows v = true)
    (he : ∀ l ∈ ls, l.spad = none → errOf s l.at_ 1 = 0) : (s.readLocs none r salt ls).1 = ls.map s.byteNow := by
  unfold State.readLocs
  rw [pickAll_current h]
  apply List.ext_getElem (by simp)
  intro i h1 h2
  simp only [List.length_map] at h2
  simp only [List.getElem_map, List.getElem_zipIdx, List.getElem_zip, State.byteOf, versionByte_head, Option.bind_none]
  have := he _ (List.getElem_mem h2)
  cases hs : ls[i].spad with
  | none => simp [this hs]
  | some x => simp

/-- What the module and the host read of memory. -/
theorem loadBytes_eq {s : State} {salt p n : Nat} (he : ∀ k, k < n → errOf s (p + k) 1 = 0) : loadBytes s salt p n = memRead s.mem p n := by
  unfold loadBytes
  rw [readLocs_current (.inl rfl)]
  · simp [globLocs, State.byteNow, memRead, List.map_map, Function.comp]
  · intro l hl _
    obtain ⟨k, hk, rfl⟩ := List.mem_map.mp hl
    exact he k (List.mem_range.mp hk)

-- ### What a read may return

/-- Where a choice stands among the writes of a byte: no write before it is known, or it races. -/
theorem mem_above {r : Reader} {vs : List Version} {v : Version} (h : v ∈ r.above vs) :
    ∃ k : Nat, vs[k]? = some v ∧ ∀ j, j < k → ∀ v', vs[j]? = some v' → r.knows v' = false := by
  induction vs with
  | nil => simp [Reader.above] at h
  | cons x xs ih =>
    unfold Reader.above at h
    split at h
    · rw [List.mem_singleton] at h
      exact ⟨0, by simp [h], by simp⟩
    · rename_i hx
      rcases List.mem_cons.mp h with rfl | h
      · exact ⟨0, by simp, by simp⟩
      · obtain ⟨k, hk, hj⟩ := ih h
        refine ⟨k + 1, by simpa using hk, fun j hlt v' hv' => ?_⟩
        cases j with
        | zero => simp at hv'; subst hv'; simpa using hx
        | succ j => exact hj j (by omega) v' (by simpa using hv')

theorem mem_choices {r : Reader} {vs : List Version} {v : Version} (h : v ∈ r.choices vs) :
    ∃ k : Nat, vs[k]? = some v ∧ (r.races v = true ∨ ∀ j, j < k → ∀ v', vs[j]? = some v' → r.knows v' = false) := by
  unfold Reader.choices at h
  rcases List.mem_append.mp h with h | h
  · obtain ⟨k, hk, hj⟩ := mem_above h
    exact ⟨k, hk, .inr hj⟩
  · rw [List.mem_filter] at h
    obtain ⟨k, hk⟩ := List.mem_iff_getElem?.mp (List.mem_of_mem_drop h.1)
    exact ⟨k, hk, .inl h.2⟩

theorem pickFrom_mem {α : Type} {free salt : Nat} {xs : List α} {x : α} (h : pickFrom free salt xs = some x) : x ∈ xs := by
  unfold pickFrom at h
  split at h
  · cases h
  · simpa using h.symm
  · exact List.mem_of_getElem? h

/-- A pick of a byte: nothing, or a write that the reader may return. -/
def Picked (o : Order) (r : Reader) (l : Loc) (x : Option Version) : Prop :=
  ∀ v, x = some v → ∃ k : Nat, (o.versions l)[k]? = some v ∧ (r.races v = true ∨ ∀ j, j < k → ∀ v', (o.versions l)[j]? = some v' → r.knows v' = false)

/-- Two lists whose members are related one by one. -/
def Matches {α β : Type} (P : α → β → Prop) (xs : List α) (ys : List β) : Prop :=
  ys.length = xs.length ∧ ∀ (i : Nat) x y, xs[i]? = some x → ys[i]? = some y → P x y

theorem Matches.append {α β : Type} {P : α → β → Prop} {xs xs' : List α} {ys ys' : List β} (h : Matches P xs ys) (h' : Matches P xs' ys') :
    Matches P (xs ++ xs') (ys ++ ys') := by
  refine ⟨by simp [h.1, h'.1], fun i x y hx hy => ?_⟩
  rw [List.getElem?_append] at hx hy
  rw [h.1] at hy
  split at hx <;> rename_i hi
  · rw [if_pos hi] at hy; exact h.2 i x y hx hy
  · rw [if_neg hi] at hy; exact h'.2 _ x y hx hy

theorem pick_picked {o : Order} {r : Reader} {free salt : Nat} {acc : Nat × Nat} {ls : List Loc} :
    Matches (Picked o r) ls (o.pick r free salt acc ls) := by
  unfold Order.pick
  split
  · refine ⟨by simp, fun i l x hl hx v hv => ?_⟩
    rw [List.getElem?_map, hl] at hx
    simp only [Option.map_some, Option.some.injEq] at hx
    exact ⟨0, by rw [← List.head?_eq_getElem?, hx]; exact hv, .inr (by simp)⟩
  · refine ⟨by simp, fun i l x hl hx v hv => ?_⟩
    obtain ⟨hi, rfl⟩ := List.getElem?_eq_some_iff.mp hl
    simp only [List.getElem?_map, List.getElem?_zipIdx, List.getElem?_eq_getElem hi, Option.map_some, Option.some.injEq] at hx
    have hm := pickFrom_mem (hx.trans hv)
    simp only [Reader.within] at hm
    exact mem_choices (List.mem_filter.mp (List.mem_filter.mp hm).1).1

theorem matches_eights {α β : Type} {P : α → β → Prop} (f : Nat → List β) (n : Nat) (xs : List α) (h : xs.length ≤ 8 * n)
    (hf : ∀ i, Matches P ((xs.drop (8 * i)).take 8) (f i)) : Matches P xs ((List.range n).flatMap f) := by
  induction n generalizing xs f with
  | zero =>
    have : xs = [] := List.length_eq_zero_iff.mp (by omega)
    subst this
    exact ⟨rfl, by simp⟩
  | succ n ih =>
    rw [List.range_succ_eq_map, List.flatMap_cons, List.flatMap_map]
    have h0 := hf 0
    simp only [Nat.mul_zero, List.drop_zero] at h0
    have := ih (fun i => f (i + 1)) (xs.drop 8) (by simp; omega) (fun i => by
      have := hf (i + 1)
      rwa [List.drop_drop, show 8 + 8 * i = 8 * (i + 1) by omega])
    have := h0.append this
    rwa [List.take_append_drop] at this

/-- What a read returns (17 R355, R363; 19 R385). -/
theorem readLocs_reads (s : State) (t : Option Task) (r : Reader) (salt : Nat) (ls : List Loc) : Reads s t r ls (s.readLocs t r salt ls).1 := by
  obtain ⟨hl, hg⟩ : Matches (Picked s.order r) ls (s.pickAll r salt ls) := matches_eights _ _ _ (by omega) fun i => pick_picked
  have hlen : (s.readLocs t r salt ls).1.length = ls.length := by simp [State.readLocs, ← hl]
  have hget : ∀ (i : Nat) l, ls[i]? = some l → ∃ x, (s.pickAll r salt ls)[i]? = some x ∧ Picked s.order r l x
      ∧ (s.readLocs t r salt ls).1[i]? = some (s.byteOf t (salt + i) l x) := by
    intro i l hi
    obtain ⟨h1, rfl⟩ := List.getElem?_eq_some_iff.mp hi
    have h2 : i < (s.pickAll r salt ls).length := by omega
    refine ⟨_, List.getElem?_eq_getElem h2, hg i _ _ hi (List.getElem?_eq_getElem h2), ?_⟩
    simp [State.readLocs, List.getElem?_eq_getElem h1, List.getElem?_eq_getElem h2, List.getElem?_zip_eq_some] <;> exact ⟨_, _, ⟨rfl, rfl⟩, rfl⟩
  have hover : ∀ l b, Overlaid t l b → (t.bind fun t => t.buf.lookup l.at_) = some b := by
    rintro l b ⟨-, t', rfl, hb⟩; exact hb
  have hnot : ∀ l x k, (¬∃ b, Overlaid t l b) → Clean s l → s.byteOf t k l x = s.versionByte l x := by
    intro l x k hn hc
    unfold State.byteOf
    cases hs : l.spad with
    | some _ => simp
    | none =>
      have : (t.bind fun t => t.buf.lookup l.at_) = none := by
        cases ht : (t.bind fun t => t.buf.lookup l.at_) with
        | none => rfl
        | some b =>
          obtain ⟨t', h1, h2⟩ := Option.bind_eq_some_iff.mp ht
          exact absurd ⟨b, hs, t', h1, h2⟩ hn
      simp [this, hc hs]
  refine ⟨hlen, ?_, ?_, ?_⟩
  · intro i l b hi ho
    obtain ⟨x, -, -, hx⟩ := hget i l hi
    rw [hx]
    simp [State.byteOf, ho.1, hover l b ho]
  · intro i l hi hn hc
    obtain ⟨x, -, hpx, hx⟩ := hget i l hi
    rw [hx, hnot l x _ hn hc]
    cases x with
    | none => exact .inl rfl
    | some v =>
      unfold State.versionByte
      simp only
      split
      · exact .inl rfl
      · obtain ⟨k, hk, hr⟩ := hpx v rfl
        exact .inr ⟨k, v, hk, rfl, hr⟩
  · intro hu i l hi hn hc
    obtain ⟨x, hxi, -, hx⟩ := hget i l hi
    rw [hx, hnot l x _ hn hc]
    rw [pickAll_current hu, List.getElem?_map, hi] at hxi
    simp only [Option.map_some, Option.some.injEq] at hxi
    rw [← hxi, versionByte_head]

end Sys2Proof.Machine
end

