-- ==== Sys2Proof/Laws/Traps.lean ====
section
/-!
SUPPORT. What taking a trap does to a group with no word on its way (22 R418-R424): the saved registers, what stays, and which of the handler and the
host the trap goes to.
-/
namespace Sys2Proof.Machine

/-- A group put in a slot that is occupied is found there. -/
theorem group?_set {s : State} {k : Nat} {g g' : Group} (h : s.group? k = some g) (e : g'.slot = k) : (s.setGroup g').group? k = some g' := by
  have hg : g.slot = k := by simpa using List.find?_some h
  unfold State.group? State.setGroup at *
  simp only [List.find?_map]
  have h1 : (s.groups.find? ((fun x => x.slot == k) ∘ fun x => if (x.slot == g'.slot) = true then g' else x)) = some g := by
    rw [← h]
    congr 1
    funext x
    simp only [Function.comp]
    split
    · rename_i hh; simp at hh; simp [hh, e]
    · rfl
  rw [h1]
  simp [hg, e]

/-- Only the last of two groups put in one slot stays. -/
theorem setGroup_setGroup (s : State) {g g' : Group} (h : g.slot = g'.slot) : (s.setGroup g).setGroup g' = s.setGroup g' := by
  unfold State.setGroup
  simp only [List.map_map]
  congr 2
  funext x
  simp only [Function.comp]
  by_cases hx : x.slot = g'.slot
  · simp [h, hx]
  · simp [h, hx]

/-- Without a word on its way no counter counts. -/
theorem countsOf_nil : countsOf [] = Vector.replicate 12 0 := by decide

/-- No word has accesses to perform. -/
theorem performAll_nil (s : State) {g : Group} (h : g.late = []) : s.performAll g = (s, g) := by unfold State.performAll; rw [h]; rfl

/-- Nothing is left to finish. -/
theorem finish_still {s : State} {g x : Group} (hc : s.group? g.slot = some x) (h : g.still) :
    s.finish g = (s.setGroup g, { g with ctrs := Vector.replicate 12 0, parked := false, passed := 0 }) := by
  have hg : (s.setGroup g).group? g.slot = some g := State.group?_setGroup hc
  have he : ∀ n, (s.setGroup g).emptyQueue g.slot n = s.setGroup g := by
    intro n
    cases n with
    | zero => rfl
    | succ n => unfold State.emptyQueue; rw [hg]; simp [h.mq]
  have hm : s.matrixAll g.endTrial = (s.setGroup g, g) := by
    have : g.endTrial = g := by unfold Group.endTrial; rw [h.trial]
    rw [this]
    unfold State.matrixAll
    simp only [he, hg, Option.getD_some]
  unfold State.finish
  simp only [performAll_nil s h.late, hm, h.spend]
  have hp : g.pending = [] := by unfold Group.pending; rw [h.flights]; rfl
  rw [hp, show g.applyEffs [] = g from rfl, h.flights, List.filter_nil, countsOf_nil, ← h.flights, h.spend]

theorem causeWord_code (inh lane : Bool) (f : Flt) : (causeWord inh lane f).toNat % 256 = f.code % 256 := by
  unfold causeWord
  rw [BitVec.toNat_ofNat]
  omega

theorem causeWord_inh_code (inh lane : Bool) (f : Flt) : (causeWord inh lane f ||| BitVec.ofNat 64 (2 ^ 31)).toNat % 256 = f.code % 256 := by
  have h := causeWord_code inh lane f
  rw [BitVec.toNat_or, show (256 : Nat) = 2 ^ 8 from rfl, Nat.or_mod_two_pow]
  rw [show (BitVec.ofNat 64 (2 ^ 31)).toNat % 2 ^ 8 = 0 from rfl, Nat.or_zero]
  exact h

/-- Bit 24 of CAUSE tells the stream (22 R419). -/
theorem causeWord_lane (inh lane : Bool) (f : Flt) : (causeWord inh lane f).getLsbD 24 = lane := by
  unfold causeWord
  rw [BitVec.getLsbD_ofNat]
  simp only [Nat.testBit, Nat.shiftRight_eq_div_pow]
  have hd : f.detail % 256 < 256 := Nat.mod_lt _ (by decide)
  have hc : f.code % 256 < 256 := Nat.mod_lt _ (by decide)
  cases inh <;> cases lane <;> simp <;> omega

/-- The trap of a group with no word on its way: what is saved, and what stays. -/
theorem trapAt_still {s : State} {g x : Group} {lane : Bool} {f : Flt} {next : Bool} (hc : s.group? g.slot = some x) (h : g.still) :
    ∃ g', (s.trapAt g lane f next).group? g.slot = some g' ∧ (s.trapAt g lane f next).mem = s.mem
      ∧ g'.epc = (if next then g.spc + 1 else g.spc) ∧ g'.elpc = g.lpc ∧ g'.faddr = BitVec.ofNat 64 f.addr ∧ g'.fspc = BitVec.ofNat 64 f.fspc
      ∧ g'.cause.toNat % 256 = f.code % 256 ∧ g'.cause.getLsbD 24 = lane
      ∧ g'.sregs = g.sregs ∧ g'.regs = g.regs ∧ g'.masks = g.masks ∧ g'.pins = g.pins ∧ g'.recipes = g.recipes ∧ g'.stepn = g.stepn
      ∧ g'.progto = g.progto ∧ g'.bars = g.bars ∧ g'.growAsk = g.growAsk := by
  unfold State.trapAt
  simp only [finish_still hc h]
  have hc' : (s.setGroup g).group? g.slot = some g := State.group?_setGroup hc
  split
  · refine ⟨_, group?_set hc' rfl, rfl, rfl, rfl, rfl, rfl, causeWord_inh_code _ _ _, ?_, rfl, rfl, rfl, rfl, rfl, rfl, rfl, rfl, rfl⟩
    show (causeWord _ lane f ||| BitVec.ofNat 64 (2 ^ 31)).getLsbD 24 = lane
    rw [BitVec.getLsbD_or, causeWord_lane]
    simp
  · exact ⟨_, group?_set hc' rfl, rfl, rfl, rfl, rfl, rfl, causeWord_code _ _ _, causeWord_lane _ _ _, rfl, rfl, rfl, rfl, rfl, rfl, rfl, rfl, rfl⟩

/-- A trap that goes to the handler object (22 R422). -/
theorem trapAt_handler {s : State} {g x : Group} {lane : Bool} {f : Flt} {next : Bool} {hk : KObj} (hc : s.group? g.slot = some x) (h : g.still)
    (ht : toHandler (s.gctx g) g.inh f.code = true) (hh : (s.gctx g).hk = some hk) :
    s.trapAt g lane f next = s.setGroup
      { g with ctrs := Vector.replicate 12 0, parked := false, passed := 0, epc := (if next then g.spc + 1 else g.spc), elpc := g.lpc, faddr := BitVec.ofNat 64 f.addr,
               fspc := BitVec.ofNat 64 f.fspc, aside := some { runq := g.runq, exm := g.exm, tpart := g.tpart }, runq := [], exm := 0xFFFFFFFF, tpart := 5,
               cause := causeWord g.inh lane f ||| BitVec.ofNat 64 (2 ^ 31), spc := BitVec.ofNat 32 hk.entry, trapAt := some s.fclk, watch := s.us - g.watch } := by
  unfold State.trapAt
  simp only [finish_still hc h]
  have h1 : toHandler ((s.setGroup g).gctx { g with ctrs := Vector.replicate 12 0, parked := false, passed := 0 })
      (Group.inh { g with ctrs := Vector.replicate 12 0, parked := false, passed := 0 }) f.code = true := ht
  have h2 : ((s.setGroup g).gctx { g with ctrs := Vector.replicate 12 0, parked := false, passed := 0 }).hk = some hk := hh
  rw [if_pos h1, h2]
  exact setGroup_setGroup s rfl

end Sys2Proof.Machine
end

