-- ==== Sys2Proof/Tests/Slice0.lean ====
section
/-!
SUPPORT. The model's own tests: words that ill-formed instructions do not have, words written out from the spec's encodings, the spec's worked examples, and
a state that meets the hypotheses of each statement.
-/
namespace Sys2Proof.Tests
open Sys2Proof Sys2Proof.Machine Sys2Proof.Claims
set_option Elab.async false

-- ### Well-formedness

/-- A control field without waits, and one with a wait, a SETC and a PRED. -/
def c0 : LaneCtl := { sw := false, dist := 0, wait := 0, setc := 15, pred := 0 }
def c9 (p : BitVec 4) : LaneCtl := { sw := true, dist := 5, wait := 0x801, setc := 3, pred := p }
def v (k : BitVec 8) : VReg := ⟨false, k⟩
def mop (ord : BitVec 3) (scope type : BitVec 4) : MemOp := { ord := ord, scope := scope, type := type, voff := false, disp := 0, a := 1, b := 0 }
def half (op : BitVec 6) (d a b : BitVec 8) (f : BitVec 5) : Half := { op := op, d := d, a := a, b := b, bs := false, f := f }

/-- Scalar words outside the limits of 06 R109-R112: a reserved SCMP, SLD and SBC code, a counter above c11, granules 0 and 33, unassigned special registers. -/
theorem test_ill_formed_scalar : [Instr.scmp 6 1 2 3, .sld 7 1 2 0, .sbc 6 1 0, .waitc 12 0, .grow 0, .grow 33, .shrink 0, .shrink 33, .setbnd 33,
    .sget 1 0x16, .sset 0x20 1].all (fun i => !i.wf) = true := by decide
/-- SETC 12-14 names no counter (06 R113), and a word of the whole group takes no PRED (R114). -/
theorem test_ill_formed_control : [Instr.vmovi { c0 with setc := 12 } 1 0, .vmovi { c0 with setc := 14 } 1 0, .wsw { c0 with pred := 1 } 0 (v 1),
    .fence { c0 with pred := 1 } 1 4, .mdrain { c0 with pred := 1 } 0 1, .mzero { c0 with pred := 1 } 0, .mwait { c0 with pred := 1 },
    .dualWord { c0 with pred := 1 } (half 1 1 2 3 0) (half 1 4 5 8 0)].all (fun i => !i.wf) = true := by decide
/-- Unassigned F and TY values (10 R202-R221, 11 R229-R236). -/
theorem test_ill_formed_f : [Instr.iadd c0 (v 1) (v 2) (.v (v 3)) 3, .imul c0 (v 1) (v 2) (.v (v 3)) 1, .imulh c0 (v 1) (v 2) (.v (v 3)) 2,
    .iwadd c0 (v 1) (v 2) (.v (v 3)) 2, .idp4 c0 (v 1) (v 2) (.v (v 3)) (v 4) 8, .ishl c0 (v 1) (v 2) (.v (v 3)) 2, .ibfi c0 (v 1) (v 2) (.v (v 3)) (v 4) 1,
    .icmp c0 1 (v 2) (.v (v 3)) 6, .fadd c0 (v 1) (v 2) (.v (v 3)) 4, .fmin c0 (v 1) (v 2) (.v (v 3)) 1, .fcmp c0 1 (v 2) (.v (v 3)) 8,
    .hadd2 c0 (v 1) (v 2) (.v (v 3)) 4, .bmul2 c0 (v 1) (v 2) (.v (v 3)) 4, .cvtef c0 (v 1) (v 2) 4, .pack c0 (v 1) (v 2) (.v (v 3)) 10, .unpack c0 (v 1) (v 2) 12,
    .cbenc c0 (v 1) (v 2) (v 8) 8, .vmov c0 (v 1) (v 2) 1, .laneid c0 (v 1) 2, .vote c0 1 (v 2) 5, .shfl c0 (v 1) (v 2) (.s 3) 4,
    .scan c0 (v 1) (v 2) 6 0 false, .scan c0 (v 1) (v 2) 0 3 false, .scan c0 (v 1) (v 2) 3 2 false, .red c0 (v 1) (v 2) 4 2].all (fun i => !i.wf) = true := by decide
/-- Operand forms that a row does not take: an immediate of PACK, a codebook off a multiple of 8, a vector index of VTOS, FIRST with an index. -/
theorem test_ill_formed_operands : [Instr.pack c0 (v 1) (v 2) (.imm 0) 0, .cbdec c0 (v 1) (v 2) (v 4) 0, .cbenc c0 (v 1) (v 2) (v 9) 0,
    .vtos c0 1 (v 2) (.v (v 3)) false false, .vtos c0 1 (v 2) (.s 3) true false, .vtos c0 1 (v 2) (.imm 1) true false].all (fun i => !i.wf) = true := by decide
/-- Memory modifiers outside 13 R280-R289: TYPE, ORD and SCOPE codes, b without VOFF, registers off their alignment. -/
theorem test_ill_formed_memory : [Instr.ld c0 1 (mop 0 4 7), .ld c0 1 (mop 2 4 4), .ld c0 1 (mop 0 9 4), .ld c0 1 (mop 0 4 5), .ld c0 2 (mop 0 4 6),
    .ld c0 1 { mop 0 4 4 with b := 1 }, .st c0 1 (mop 0 4 1), .st c0 1 (mop 1 4 4), .lds c0 1 (mop 0 6 4), .sts c0 1 (mop 0 6 4), .ldt c0 8 (mop 0 4 0),
    .ldt c0 4 { mop 0 4 0 with voff := true }, .ldt c0 8 { mop 0 4 1 with voff := true }, .ldk c0 3 (mop 1 4 4), .ldk c0 3 (mop 0 3 4),
    .atom c0 1 2 (mop 0 1 0), .atom c0 1 2 (mop 5 4 0), .atom c0 1 2 (mop 0 4 14), .atom c0 1 2 (mop 0 4 1), .atoms c0 1 7 (mop 0 3 12), .atoms c0 1 2 (mop 0 7 0),
    .fence c0 0 4, .fence c0 5 4, .fence c0 1 9, .pref c0 (mop 1 0 0), .pref c0 (mop 0 1 0), .pref c0 (mop 0 0 2)].all (fun i => !i.wf) = true := by decide
/-- Tiles off a multiple of 8 (15 R319), and dual words outside 06 R121-R123: two empty halves, a field of an empty half, an F value of neither half, one
destination twice, two registers of one bank. -/
theorem test_ill_formed_matrix_and_dual : [Instr.mmq c0 false 4 1 2 3, .mdrain c0 4 1, .mzero c0 12, .dualWord c0 (half 0 0 0 0 0) (half 0 0 0 0 0),
    .dualWord c0 (half 0 1 0 0 0) (half 1 4 5 8 0), .dualWord c0 (half 1 1 2 3 4) (half 1 4 5 8 0), .dualWord c0 (half 6 1 2 3 0) (half 1 4 5 8 0),
    .dualWord c0 (half 1 1 2 3 0) (half 0x11 4 5 8 0), .dualWord c0 (half 1 1 2 3 0) (half 1 1 5 8 0), .dualWord c0 (half 1 1 2 3 0) (half 1 4 5 6 0)].all
    (fun i => !i.wf) = true := by decide
/-- Steps of units and ports that the module does not have (01 R19). -/
theorem test_ill_formed_steps : [Instr.wordCompletion 19968 0, .growGrant 416, .doorbell 65536 0 0, .stokerRound 5, .matrixPass 104, .sensorSample true 416 0,
    .sensorSample false 192 0, .vaultRefresh 192, .nclkWindow 10 0, .glideInterval 8 0, .putDelivery 4096 0 0 [], .hostAccess 2 0 0 none, .registerWrite 2 0 [],
    .preempt 2 0 0, .attest 2, .linkTraining 2 0].all (fun i => !i.wf) = true := by decide

-- ### Words

/-- Words with reserved bits, codes and opcodes raise ILLEGAL (06 R124): M of SADD, an unassigned opcode and SUB, b of SCLZ, BAR 4, bit 72, SETC 13, BSRC 3,
REUSE outside MMQ, PRED of WSW and a ws field with bits [7:4] (11), c of CAS not a multiple of 2 and its SCOPE .device (13), the dual words of 06. -/
theorem test_words_refused : decodeScalar 0x02000001 = none ∧ decodeScalar 0x2E000000 = none ∧ decodeScalar 0xFE1A0000 = none ∧ decodeScalar 0x28000002 = none
    ∧ decodeScalar 0xFE080800 = none ∧ decodeLane (0x0000084041C1424005100000 + 2 ^ 72) = none ∧ decodeLane 0x0000340041C1424005100000 = none
    ∧ decodeLane 0x0000080041C1424007100000 = none ∧ decodeLane (0x0000080041C1424005100000 + 2 ^ 73) = none ∧ decodeLane 0x00001441C0C2400004000000 = none
    ∧ decodeLane 0x00001441C4C2400000000000 = none ∧ decodeLane 0x0000006182810081C19E4000 = none ∧ decodeLane 0x000000618281008181BE4000 = none
    ∧ decodeLane 0x00004440818100000030A000 = none ∧ decodeLane 0x44003C0404080C0041014180 = none ∧ decodeLane 0x44003C0404080C0040414200 = none := by decide
/-- The scalar words that the spec writes out (06, 08). -/
theorem test_scalar_words_of_the_spec :
    decodeScalar 0x70280000 = some (.lrun 5 0)
    ∧ decodeScalar 0xFE040000 = some (.lsync)
    ∧ decodeScalar 0xFE060400 = some (.waitc 2 0)
    ∧ decodeScalar 0xFE180000 = some (.exit)
    ∧ decodeScalar 0x4C040200 = some (.sld 6 2 1 0)
    ∧ decodeScalar 0x6800BFFD = some (.sloop 5 0x1FFD)
    ∧ decodeScalar 0x0C0E0604 = some (.sdiv 7 3 2 false)
    ∧ decodeScalar 0x0E100604 = some (.srem 8 3 2 false)
    ∧ decodeScalar 0x06080208 = some (.saddi 4 1 8)
    ∧ decodeScalar 0x56060248 = some (.sst 3 3 1 72) := by decide
/-- The lane words that the spec writes out (06, 10, 11, 12, 23). -/
theorem test_lane_words_of_the_spec_1 :
    decodeLane 0x0000840040C0C00002000001 = some (.iadd { c0 with wait := 2, setc := 1 } (v 3) (v 3) (.imm 1) 0)
    ∧ decodeLane 0x44003C0404080C0041014200 = some (.dualWord { c0 with dist := 1 } (half 1 1 2 3 0) (half 1 4 5 8 0))
    ∧ decodeLane 0x44003C0404080C0041004200 = some (.dualWord { c0 with dist := 1 } (half 1 1 2 3 0) (half 1 4 1 8 0))
    ∧ decodeLane 0x44003C0404080C0041014220 = some (.dualWord { c0 with dist := 1 } (half 1 1 2 3 0) { half 1 4 5 8 0 with bs := true })
    ∧ decodeLane 0x0000080041C1424005100000 = some (.iadd { c0 with setc := 2, pred := 1 } (v 7) (v 5) (.s 9) 1)
    ∧ decodeLane 0x000044408181000000006000 = some (.scan { c0 with wait := 1, setc := 1 } (v 6) (v 4) 0 1 true)
    ∧ decodeLane 0x00001441C0C2400000000000 = some (.wsw { c0 with setc := 5 } 3 (v 9))
    ∧ decodeLane 0x00000C500301000000880028 = some (.kdef { c0 with setc := 3 } 12 (some 4) none none 2 40)
    ∧ decodeLane 0x00008C500301000000880015 = some (.kdef { c0 with wait := 2, setc := 3 } 12 (some 4) none none 2 21)
    ∧ decodeLane 0x00003C5040C18000003A4000 = some (.ldk c0 3 { mop 0 7 4 with voff := true, a := 6 }) := by decide
/-- The lane words that the spec writes out (13, 18, 23, 24, 25). -/
theorem test_lane_words_of_the_spec_2 :
    decodeLane 0x0000006182810081819E4000 = some (.atoms { c0 with setc := 0 } 10 6 { mop 3 3 12 with voff := true, a := 4, b := 2 })
    ∧ decodeLane 0x0000086040004000813A0080 = some (.st { c0 with setc := 2 } 2 { mop 2 7 4 with disp := 0x80 })
    ∧ decodeLane 0x0000006140C0400080200080 = some (.atom { c0 with setc := 0 } 3 2 { mop 0 4 0 with disp := 0x80 })
    ∧ decodeLane 0x000000600040400000BA0080 = some (.ld { c0 with setc := 0 } 1 { mop 1 7 4 with disp := 0x80 })
    ∧ decodeLane 0x000088604000400384220080 = some (.st { c0 with wait := 2, setc := 2, pred := 1 } 14 { mop 0 4 4 with disp := 0x80 })
    ∧ decodeLane 0x000000600100D880003B4010 = some (.ld { c0 with setc := 0 } 4 { mop 0 7 6 with voff := true, disp := 16, a := 3, b := 98 })
    ∧ decodeLane 0x00000C700008068640000000 = some (.mmq { c0 with setc := 3 } false 0 32 26 25)
    ∧ decodeLane 0x000284405808400002040000 = some (.shfl { c0 with wait := 10, setc := 1 } (v 96) ⟨true, 33⟩ (.imm 0) 0)
    ∧ decodeLane 0x00000410D040585040040000 = some (.ffma { c0 with setc := 1 } (v 65) ⟨true, 1⟩ (.v (v 97)) (v 65) 0) := by decide

/-- Scalar arithmetic words, by the SR, SI and SL forms of 06 R106 and the opcodes of R109. -/
theorem test_scalar_arithmetic_words_1 :
    decodeScalar 0x34A7902 = some (.sadd 0xA5 0x3C 0x81)
    ∧ decodeScalar 0x54A7902 = some (.ssub 0xA5 0x3C 0x81)
    ∧ decodeScalar 0x94A7902 = some (.smul 0xA5 0x3C 0x81)
    ∧ decodeScalar 0x114A7902 = some (.sand 0xA5 0x3C 0x81)
    ∧ decodeScalar 0x134A7902 = some (.sor 0xA5 0x3C 0x81)
    ∧ decodeScalar 0x154A7902 = some (.sxor 0xA5 0x3C 0x81)
    ∧ decodeScalar 0x174A7902 = some (.sshl 0xA5 0x3C 0x81)
    ∧ decodeScalar 0x194A7902 = some (.sshr 0xA5 0x3C 0x81)
    ∧ decodeScalar 0x1B4A7902 = some (.ssra 0xA5 0x3C 0x81)
    ∧ decodeScalar 0x254A7902 = some (.sbfe 0xA5 0x3C 0x81)
    ∧ decodeScalar 0x274A7902 = some (.sbfi 0xA5 0x3C 0x81)
    ∧ decodeScalar 0x2D4A7902 = some (.ssel 0xA5 0x3C 0x81)
    ∧ decodeScalar 0xB4A7903 = some (.smulh 0xA5 0x3C 0x81 true)
    ∧ decodeScalar 0xD4A7903 = some (.sdiv 0xA5 0x3C 0x81 true)
    ∧ decodeScalar 0xF4A7903 = some (.srem 0xA5 0x3C 0x81 true)
    ∧ decodeScalar 0x1D4A7903 = some (.smin 0xA5 0x3C 0x81 true) := by decide

/-- Scalar arithmetic words, by the SR, SI and SL forms of 06 R106 and the opcodes of R109. -/
theorem test_scalar_arithmetic_words_2 :
    decodeScalar 0x1F4A7903 = some (.smax 0xA5 0x3C 0x81 true)
    ∧ decodeScalar 0x234A7903 = some (.slea 0xA5 0x3C 0x81 true)
    ∧ decodeScalar 0x74A7900 = some (.saddi 0xA5 0x3C 0x100)
    ∧ decodeScalar 0x214BABCD = some (.slui 0xA5 0x1ABCD)
    ∧ decodeScalar 0x294A7800 = some (.sclz 0xA5 0x3C)
    ∧ decodeScalar 0x2B4A7800 = some (.spopc 0xA5 0x3C)
    ∧ decodeScalar 0x314A7902 = some (.scmp 0 0xA5 0x3C 0x81)
    ∧ decodeScalar 0x334A7902 = some (.scmp 1 0xA5 0x3C 0x81)
    ∧ decodeScalar 0x354A7902 = some (.scmp 2 0xA5 0x3C 0x81)
    ∧ decodeScalar 0x374A7902 = some (.scmp 3 0xA5 0x3C 0x81)
    ∧ decodeScalar 0x394A7902 = some (.scmp 4 0xA5 0x3C 0x81)
    ∧ decodeScalar 0x3B4A7902 = some (.scmp 5 0xA5 0x3C 0x81) := by decide

/-- SLD, SST and SLDC (06 R106, R109): the extreme displacements. -/
theorem test_scalar_memory_words_1 :
    decodeScalar 0x414A78FF = some (.sld 0 0xA5 0x3C 255)
    ∧ decodeScalar 0x434A78FF = some (.sld 1 0xA5 0x3C 255)
    ∧ decodeScalar 0x454A78FF = some (.sld 2 0xA5 0x3C 255)
    ∧ decodeScalar 0x474A78FF = some (.sld 3 0xA5 0x3C 255)
    ∧ decodeScalar 0x494A78FF = some (.sld 4 0xA5 0x3C 255)
    ∧ decodeScalar 0x4B4A78FF = some (.sld 5 0xA5 0x3C 255)
    ∧ decodeScalar 0x4D4A78FF = some (.sld 6 0xA5 0x3C 255)
    ∧ decodeScalar 0x514A79FF = some (.sst 0 0xA5 0x3C 0x1FF)
    ∧ decodeScalar 0x534A79FF = some (.sst 1 0xA5 0x3C 0x1FF)
    ∧ decodeScalar 0x554A79FF = some (.sst 2 0xA5 0x3C 0x1FF)
    ∧ decodeScalar 0x574A79FF = some (.sst 3 0xA5 0x3C 0x1FF)
    ∧ decodeScalar 0x594BABCD = some (.sldc 0xA5 0x1ABCD) := by decide

/-- The SB and LR forms (06 R106, R110) and the SX words of control (R111). -/
theorem test_scalar_control_words_1 :
    decodeScalar 0x60001000 = some (.sbr 0x1000)
    ∧ decodeScalar 0x62B38FFF = some (.sbc 5 0x9C 0x0FFF)
    ∧ decodeScalar 0x6500C007 = some (.brl true false 6 7)
    ∧ decodeScalar 0x64803FFD = some (.brl false true 1 0x1FFD)
    ∧ decodeScalar 0x66138009 = some (.scall 0x9C 9)
    ∧ decodeScalar 0x68139FFD = some (.sloop 0x9C 0x1FFD)
    ∧ decodeScalar 0x71FFABCD = some (.lrun 63 0x7ABCD)
    ∧ decodeScalar 0xFE020138 = some (.sret 0x9C)
    ∧ decodeScalar 0xFE040000 = some (.lsync)
    ∧ decodeScalar 0xFE061790 = some (.waitc 11 0xC8)
    ∧ decodeScalar 0xFE080600 = some (.barw 3)
    ∧ decodeScalar 0xFE0A0400 = some (.barg 2)
    ∧ decodeScalar 0xFE0C2468 = some (.step 0x1234)
    ∧ decodeScalar 0xFE0F579A = some (.phint 0xABCD) := by decide

/-- The SX words of the system (06 R111). -/
theorem test_scalar_system_words_1 :
    decodeScalar 0xFE11382A = some (.sget 0x9C 0x15)
    ∧ decodeScalar 0xFE122738 = some (.sset 0x13 0x9C)
    ∧ decodeScalar 0xFE142468 = some (.trap 0x1234)
    ∧ decodeScalar 0xFE160000 = some (.rett)
    ∧ decodeScalar 0xFE180000 = some (.exit)
    ∧ decodeScalar 0xFE204000 = some (.grow 32)
    ∧ decodeScalar 0xFE220200 = some (.shrink 1)
    ∧ decodeScalar 0xFE240000 = some (.setbnd 0)
    ∧ decodeScalar 0xFE300F38 = some (.pin 7 0x9C)
    ∧ decodeScalar 0xFE320C00 = some (.unpin 6)
    ∧ decodeScalar 0xFE354A78 = some (.reclaim 0xA5 0x3C)
    ∧ decodeScalar 0xFE374A78 = some (.oapp 0xA5 0x3C)
    ∧ decodeScalar 0xFE380078 = some (.odecl 0x3C)
    ∧ decodeScalar 0xFE414A78 = some (.fork 0xA5 0x3C)
    ∧ decodeScalar 0xFE420078 = some (.rvz 0x3C)
    ∧ decodeScalar 0xFE440A78 = some (.wpwait 5 0x3C)
    ∧ decodeScalar 0xFE514A78 = some (.tspawn 0xA5 0x3C)
    ∧ decodeScalar 0xFE520000 = some (.tdone)
    ∧ decodeScalar 0xFE613800 = some (.put 0x9C)
    ∧ decodeScalar 0xFE634A78 = some (.wcwait 0xA5 0x3C) := by decide

/-- Lane words by the control field (06 R113), the full body (R114), the modifiers (R116-R118) and the opcodes of R119: SW 1, DIST 5, WAIT 0x801, SETC 3. -/
theorem test_lane_words_1 :
    decodeLane 0x96004C00694F2040242A0000 = some (.iadd (c9 9) ⟨true, 165⟩ ⟨false, 60⟩ (.v ⟨true, 129⟩) 2)
    ∧ decodeLane 0x96004C00A94F204025140000 = some (.isub (c9 9) ⟨false, 165⟩ ⟨true, 60⟩ (.s 129) 1)
    ∧ decodeLane 0x96004C01294F00002600BEEF = some (.imul (c9 9) ⟨false, 165⟩ ⟨false, 60⟩ (.imm 0xBEEF) 0)
    ∧ decodeLane 0x96004C01694F2040241A0000 = some (.imulh (c9 9) ⟨true, 165⟩ ⟨false, 60⟩ (.v ⟨true, 129⟩) 1)
    ∧ decodeLane 0x96004C01E94F204025940000 = some (.iwadd (c9 9) ⟨false, 165⟩ ⟨true, 60⟩ (.s 129) 9)
    ∧ decodeLane 0x96004C02694F00002610BEEF = some (.imin (c9 9) ⟨false, 165⟩ ⟨false, 60⟩ (.imm 0xBEEF) 1)
    ∧ decodeLane 0x96004C02A94F2040241A0000 = some (.imax (c9 9) ⟨true, 165⟩ ⟨false, 60⟩ (.v ⟨true, 129⟩) 1)
    ∧ decodeLane 0x96004C03294F204025040000 = some (.iand (c9 9) ⟨false, 165⟩ ⟨true, 60⟩ (.s 129) 0)
    ∧ decodeLane 0x96004C03694F00002600BEEF = some (.ior (c9 9) ⟨false, 165⟩ ⟨false, 60⟩ (.imm 0xBEEF) 0)
    ∧ decodeLane 0x96004C03A94F2040240A0000 = some (.ixor (c9 9) ⟨true, 165⟩ ⟨false, 60⟩ (.v ⟨true, 129⟩) 0)
    ∧ decodeLane 0x96004C04294F204025140000 = some (.ishl (c9 9) ⟨false, 165⟩ ⟨true, 60⟩ (.s 129) 1)
    ∧ decodeLane 0x96004C04694F00002610BEEF = some (.ishr (c9 9) ⟨false, 165⟩ ⟨false, 60⟩ (.imm 0xBEEF) 1)
    ∧ decodeLane 0x96004C04A94F2040241A0000 = some (.isra (c9 9) ⟨true, 165⟩ ⟨false, 60⟩ (.v ⟨true, 129⟩) 1)
    ∧ decodeLane 0x96004C04E94F204025140000 = some (.ibfe (c9 9) ⟨false, 165⟩ ⟨true, 60⟩ (.s 129) 1)
    ∧ decodeLane 0x96004C10294F00002630BEEF = some (.fadd (c9 9) ⟨false, 165⟩ ⟨false, 60⟩ (.imm 0xBEEF) 3) := by decide

/-- Lane words by the control field (06 R113), the full body (R114), the modifiers (R116-R118) and the opcodes of R119: SW 1, DIST 5, WAIT 0x801, SETC 3. -/
theorem test_lane_words_2 :
    decodeLane 0x96004C10694F2040242A0000 = some (.fsub (c9 9) ⟨true, 165⟩ ⟨false, 60⟩ (.v ⟨true, 129⟩) 2)
    ∧ decodeLane 0x96004C10A94F204025140000 = some (.fmul (c9 9) ⟨false, 165⟩ ⟨true, 60⟩ (.s 129) 1)
    ∧ decodeLane 0x96004C11294F00002600BEEF = some (.fmin (c9 9) ⟨false, 165⟩ ⟨false, 60⟩ (.imm 0xBEEF) 0)
    ∧ decodeLane 0x96004C11694F2040240A0000 = some (.fmax (c9 9) ⟨true, 165⟩ ⟨false, 60⟩ (.v ⟨true, 129⟩) 0)
    ∧ decodeLane 0x96004C12294F204025340000 = some (.fscale (c9 9) ⟨false, 165⟩ ⟨true, 60⟩ (.s 129) 3)
    ∧ decodeLane 0x96004C20294F00002610BEEF = some (.hadd2 (c9 9) ⟨false, 165⟩ ⟨false, 60⟩ (.imm 0xBEEF) 1)
    ∧ decodeLane 0x96004C20694F2040242A0000 = some (.hmul2 (c9 9) ⟨true, 165⟩ ⟨false, 60⟩ (.v ⟨true, 129⟩) 2)
    ∧ decodeLane 0x96004C20E94F204025340000 = some (.badd2 (c9 9) ⟨false, 165⟩ ⟨true, 60⟩ (.s 129) 3)
    ∧ decodeLane 0x96004C21294F00002600BEEF = some (.bmul2 (c9 9) ⟨false, 165⟩ ⟨false, 60⟩ (.imm 0xBEEF) 0)
    ∧ decodeLane 0x96004C28A94F2040249A0000 = some (.pack (c9 9) ⟨true, 165⟩ ⟨false, 60⟩ (.v ⟨true, 129⟩) 9)
    ∧ decodeLane 0x96004C40694F204025340000 = some (.shfl (c9 9) ⟨false, 165⟩ ⟨true, 60⟩ (.s 129) 3)
    ∧ decodeLane 0x96004C00E94F2045E4250000 = some (.iadd3 (c9 9) ⟨false, 165⟩ ⟨true, 60⟩ (.v ⟨false, 129⟩) ⟨true, 23⟩ 2)
    ∧ decodeLane 0x96004C01A94F2045E4150000 = some (.imad (c9 9) ⟨false, 165⟩ ⟨true, 60⟩ (.v ⟨false, 129⟩) ⟨true, 23⟩ 1)
    ∧ decodeLane 0x96004C02294F2045E4750000 = some (.idp4 (c9 9) ⟨false, 165⟩ ⟨true, 60⟩ (.v ⟨false, 129⟩) ⟨true, 23⟩ 7)
    ∧ decodeLane 0x96004C05294F2045E4050000 = some (.ibfi (c9 9) ⟨false, 165⟩ ⟨true, 60⟩ (.v ⟨false, 129⟩) ⟨true, 23⟩ 0) := by decide

/-- Lane words by the control field (06 R113), the full body (R114), the modifiers (R116-R118) and the opcodes of R119: SW 1, DIST 5, WAIT 0x801, SETC 3. -/
theorem test_lane_words_3 :
    decodeLane 0x96004C10E94F2045E4350000 = some (.ffma (c9 9) ⟨false, 165⟩ ⟨true, 60⟩ (.v ⟨false, 129⟩) ⟨true, 23⟩ 3)
    ∧ decodeLane 0x96004C20A94F2045E4250000 = some (.hfma2 (c9 9) ⟨false, 165⟩ ⟨true, 60⟩ (.v ⟨false, 129⟩) ⟨true, 23⟩ 2)
    ∧ decodeLane 0x96004C21694F2045E4150000 = some (.bfma2 (c9 9) ⟨false, 165⟩ ⟨true, 60⟩ (.v ⟨false, 129⟩) ⟨true, 23⟩ 1)
    ∧ decodeLane 0x96004C02E94F0000241C0000 = some (.iabs (c9 9) ⟨true, 165⟩ ⟨true, 60⟩ 1)
    ∧ decodeLane 0x96004C03E94F0000240C0000 = some (.inot (c9 9) ⟨true, 165⟩ ⟨true, 60⟩ 0)
    ∧ decodeLane 0x96004C05694F0000240C0000 = some (.ipopc (c9 9) ⟨true, 165⟩ ⟨true, 60⟩ 0)
    ∧ decodeLane 0x96004C05A94F0000240C0000 = some (.iclz (c9 9) ⟨true, 165⟩ ⟨true, 60⟩ 0)
    ∧ decodeLane 0x96004C11E94F0000240C0000 = some (.fclass (c9 9) ⟨true, 165⟩ ⟨true, 60⟩ 0)
    ∧ decodeLane 0x96004C12694F0000243C0000 = some (.frnd (c9 9) ⟨true, 165⟩ ⟨true, 60⟩ 3)
    ∧ decodeLane 0x96004C28294F000024FC0000 = some (.cvt (c9 9) ⟨true, 165⟩ ⟨true, 60⟩ 15)
    ∧ decodeLane 0x96004C28694F0000243C0000 = some (.cvtef (c9 9) ⟨true, 165⟩ ⟨true, 60⟩ 3)
    ∧ decodeLane 0x96004C28E94F000024BC0000 = some (.unpack (c9 9) ⟨true, 165⟩ ⟨true, 60⟩ 11)
    ∧ decodeLane 0x96004C30294F0000240C0000 = some (.vmov (c9 9) ⟨true, 165⟩ ⟨true, 60⟩ 0)
    ∧ decodeLane 0x96004C05C14F204024520000 = some (.icmp (c9 9) 5 ⟨false, 60⟩ (.v ⟨true, 129⟩) 5)
    ∧ decodeLane 0x96004C1181CF000026744049 = some (.fcmp (c9 9) 7 ⟨true, 60⟩ (.imm 0x4049) 7) := by decide

/-- Lane words by the control field (06 R113), the full body (R114), the modifiers (R116-R118) and the opcodes of R119: SW 1, DIST 5, WAIT 0x801, SETC 3. -/
theorem test_lane_words_4 :
    decodeLane 0x96004C06294F2041A5080000 = some (.isel (c9 9) ⟨true, 165⟩ ⟨false, 60⟩ (.s 129) 6 0)
    ∧ decodeLane 0x96004C29294F220024F20000 = some (.cbdec (c9 9) ⟨false, 165⟩ ⟨false, 60⟩ ⟨true, 136⟩ 15)
    ∧ decodeLane 0x96004C29694F220024780000 = some (.cbenc (c9 9) ⟨true, 165⟩ ⟨false, 60⟩ ⟨false, 136⟩ 7)
    ∧ decodeLane 0x96004C3069448D15A5E00000 = some (.vmovi (c9 9) 165 0x12345678)
    ∧ decodeLane 0x96004C30A940000024180000 = some (.laneid (c9 9) ⟨true, 165⟩ 1)
    ∧ decodeLane 0x96004C30C14181C024000000 = some (.mand (c9 9) 5 6 7)
    ∧ decodeLane 0x96004C31004080C024000000 = some (.mor (c9 9) 1 2 3)
    ∧ decodeLane 0x96004C314100C00024000000 = some (.mnot (c9 9) 4 3)
    ∧ decodeLane 0x96004C31A940C00024000000 = some (.mget (c9 9) 165 3)
    ∧ decodeLane 0x96004C31C0CF000024000000 = some (.mset (c9 9) 3 60)
    ∧ decodeLane 0x96004C40294F000024440000 = some (.vote (c9 9) 165 ⟨true, 60⟩ 4)
    ∧ decodeLane 0x96004C40A94F00002428A000 = some (.scan (c9 9) ⟨true, 165⟩ ⟨false, 60⟩ 2 2 true)
    ∧ decodeLane 0x96004C40E94F000024504000 = some (.red (c9 9) ⟨false, 165⟩ ⟨false, 60⟩ 5 1)
    ∧ decodeLane 0x96004C41294F204025140000 = some (.vtos (c9 9) 165 ⟨true, 60⟩ (.s 129) false true)
    ∧ decodeLane 0x96004C41294F000026200000 = some (.vtos (c9 9) 165 ⟨false, 60⟩ (.imm 0) true false) := by decide

/-- Lane words by the control field (06 R113), the full body (R114), the modifiers (R116-R118) and the opcodes of R119: SW 1, DIST 5, WAIT 0x801, SETC 3. -/
theorem test_lane_words_5 :
    decodeLane 0x96004C41694F000024180000 = some (.stov (c9 9) ⟨true, 165⟩ 60 true)
    ∧ decodeLane 0x96004C41A943400024000000 = some (.wsr (c9 9) ⟨false, 165⟩ 13)
    ∧ decodeLane 0x96004C41C34F000000040000 = some (.wsw (c9 0) 13 ⟨true, 60⟩)
    ∧ decodeLane 0x96004C44294F000024040000 = some (.frcp (c9 9) ⟨false, 165⟩ ⟨true, 60⟩)
    ∧ decodeLane 0x96004C44694F000024040000 = some (.frsq (c9 9) ⟨false, 165⟩ ⟨true, 60⟩)
    ∧ decodeLane 0x96004C44A94F000024040000 = some (.fsqrt (c9 9) ⟨false, 165⟩ ⟨true, 60⟩)
    ∧ decodeLane 0x96004C44E94F000024040000 = some (.fexp2 (c9 9) ⟨false, 165⟩ ⟨true, 60⟩)
    ∧ decodeLane 0x96004C45294F000024040000 = some (.flog2 (c9 9) ⟨false, 165⟩ ⟨true, 60⟩)
    ∧ decodeLane 0x96004C45694F000024040000 = some (.fsin (c9 9) ⟨false, 165⟩ ⟨true, 60⟩)
    ∧ decodeLane 0x96004C45A94F000024040000 = some (.fcos (c9 9) ⟨false, 165⟩ ⟨true, 60⟩)
    ∧ decodeLane 0x96004C45E94F000024040000 = some (.ftanh (c9 9) ⟨false, 165⟩ ⟨true, 60⟩)
    ∧ decodeLane 0x96004C50294F0005E6EFABCD = some (.kdef (c9 9) 165 (some 60) none (some 23) 11 0x7ABCD)
    ∧ decodeLane 0x96004C50694F2040243A7FFF = some (.ldk (c9 9) 165 { ord := 0, scope := 7, type := 4, voff := true, disp := 16383, a := 60, b := 129 })
    ∧ decodeLane 0x96004C50A940000024000000 = some (.douse (c9 9) 165)
    ∧ decodeLane 0x96004C60290F000024C31FFF = some (.ld (c9 9) 0xA4 { ord := 1, scope := 8, type := 6, voff := false, disp := 8191, a := 60, b := 0 }) := by decide

/-- Lane words by the control field (06 R113), the full body (R114), the modifiers (R116-R118) and the opcodes of R119: SW 1, DIST 5, WAIT 0x801, SETC 3. -/
theorem test_lane_words_6 :
    decodeLane 0x96004C60400F2045A53AE000 = some (.st (c9 9) 0x16 { ord := 2, scope := 7, type := 5, voff := true, disp := 8192, a := 60, b := 129 })
    ∧ decodeLane 0x96004C60A94F20402628C003 = some (.lds (c9 9) 165 { ord := 4, scope := 5, type := 1, voff := true, disp := 3, a := 60, b := 129 })
    ∧ decodeLane 0x96004C60C00F0005E4190006 = some (.sts (c9 9) 23 { ord := 0, scope := 3, type := 2, voff := false, disp := 6, a := 60, b := 0 })
    ∧ decodeLane 0x96004C61280F20402420C020 = some (.ldt (c9 9) 0xA0 { ord := 0, scope := 4, type := 1, voff := true, disp := 32, a := 60, b := 129 })
    ∧ decodeLane 0x96004C61690F204625C6C010 = some (.atom (c9 9) 0xA4 0x18 { ord := 3, scope := 8, type := 13, voff := true, disp := 16, a := 60, b := 129 })
    ∧ decodeLane 0x96004C61A94F0005E6150004 = some (.atoms (c9 9) 165 23 { ord := 4, scope := 2, type := 10, voff := false, disp := 4, a := 60, b := 0 })
    ∧ decodeLane 0x96004C61C000000002400000 = some (.fence (c9 0) 4 8)
    ∧ decodeLane 0x96004C62000F20402400FFFE = some (.pref (c9 9) { ord := 0, scope := 0, type := 1, voff := true, disp := 16382, a := 60, b := 129 })
    ∧ decodeLane 0x96004E702A0F2045E4000000 = some (.mmq (c9 9) true 0xA8 60 129 23)
    ∧ decodeLane 0x96004C706A0F000000000000 = some (.mdrain (c9 0) 0xA8 60)
    ∧ decodeLane 0x96004C70AA00000000000000 = some (.mzero (c9 0) 0xA8)
    ∧ decodeLane 0x96004C70C000000000000000 = some (.mwait (c9 0))
    ∧ decodeLane 0xD6004C0C0409122041014202 = some (.dualWord (c9 0) ⟨3, 1, 2, 0x44, true, 2⟩ ⟨1, 4, 5, 8, false, 2⟩) := by decide

-- ### The spec's worked examples

/-- A vector of the lanes' values, lane 0 first; the rest 0. -/
def vec (xs : List Nat) : LaneVec := Vector.ofFn fun l => BitVec.ofNat 32 (xs.getD l.val 0)
/-- The first lanes of a vector. -/
def head (n : Nat) (x : LaneVec) : List Nat := (x.toList.take n).map BitVec.toNat
/-- The state that an outcome leaves; reset for a stop. -/
def after (o : Out) : State := match o with
  | .next t => t
  | .fault _ | .refused _ => State.reset
/-- A scalar word placed in a group whose scalar registers hold values. -/
def scalarAt (w : Nat) (rs : List (Nat × Nat)) : State :=
  let s := State.reset.placeWord true w
  { s with groups := s.groups.map fun g => { g with sregs := rs.foldl (fun v x => v.setIfInBounds x.1 (BitVec.ofNat 64 x.2)) g.sregs } }
/-- A lane word placed in a group whose registers, masks and scalar registers hold values. -/
def laneAt (w : Nat) (vs : List (Nat × LaneVec)) (ms ss : List (Nat × Nat)) : State :=
  let s := State.reset.placeWord false w
  { s with groups := s.groups.map fun g => { g with regs := vs.foldl (fun r x => r.set x.1 { st := .value, val := x.2 }) g.regs,
                                                    masks := ms.foldl (fun v x => v.setIfInBounds x.1 (BitVec.ofNat 32 x.2)) g.masks,
                                                    sregs := ss.foldl (fun v x => v.setIfInBounds x.1 (BitVec.ofNat 64 x.2)) g.sregs } }
def sregOf (s : State) (k : Nat) : Nat := ((s.group? 0).map fun g => (g.sregs.toList.getD k 0).toNat).getD 0
def spcOf (s : State) : Nat := ((s.group? 0).map fun g => g.spc.toNat).getD 0
def laneOf (s : State) (p l : Nat) : Nat := ((s.group? 0).map fun g => ((g.stored p).getD l 0).toNat).getD 0
def causeOf (s : State) : Nat := ((s.group? 0).map fun g => g.cause.toNat % 256).getD 0
/-- Some FCLK on. -/
def later (s : State) : State := { s with fclk := s.fclk + 9 }
/-- The result on its way written (08 R148). -/
def settle (s : State) : State := after (exec (.scalarResultReady 0) s)

/-- 08, a scalar-only kernel: SADD, SADDI, SDIV and SREM of its fifth pass and its end. -/
theorem test_scalar_kernel_arithmetic : sregOf (after (step (scalarAt 0x0206060C [(3, 2 ^ 64 - 18), (6, 2)]))) 3 = 2 ^ 64 - 16
    ∧ sregOf (after (step (scalarAt 0x06080808 [(4, 0x1008)]))) 4 = 0x1010
    ∧ sregOf (settle (after (step (scalarAt 0x0C0E0604 [(3, 2 ^ 64 - 16), (2, 5)])))) 7 = 2 ^ 64 - 3
    ∧ sregOf (settle (after (step (scalarAt 0x0E100604 [(3, 2 ^ 64 - 16), (2, 5)])))) 8 = 2 ^ 64 - 1 := by decide +kernel
/-- 08 R151: -2^63 by -1, and by zero. -/
theorem test_division_corners : sregOf (settle (after (step (scalarAt 0x0C0E0604 [(3, 2 ^ 63), (2, 2 ^ 64 - 1)])))) 7 = 2 ^ 63
    ∧ sregOf (settle (after (step (scalarAt 0x0E100604 [(3, 2 ^ 63), (2, 2 ^ 64 - 1), (8, 9)])))) 8 = 0
    ∧ sregOf (settle (after (step (scalarAt 0x0C0E0604 [(3, 7)])))) 7 = 2 ^ 64 - 1
    ∧ sregOf (settle (after (step (scalarAt 0x0E100604 [(3, 7)])))) 8 = 7 := by decide +kernel
/-- 08, SLOOP of its last pass: not taken, and the counter is 0; with 2 left it is taken, and -3 from word 0 wraps modulo 2^32 (R159). -/
theorem test_loop : sregOf (after (step (scalarAt 0x6800BFFD [(5, 1)]))) 5 = 0 ∧ spcOf (after (step (scalarAt 0x6800BFFD [(5, 1)]))) = 1
    ∧ spcOf (after (step (scalarAt 0x6800BFFD [(5, 2)]))) = 2 ^ 32 - 3 := by decide +kernel
/-- 08, SST of a result to ARGS + 0x48, and the SLD of it. -/
theorem test_store_and_load : memNat (after (step (scalarAt 0x56060248 [(1, 0x40000), (3, 2 ^ 64 - 16)]))).mem 0x40048 8 = 2 ^ 64 - 16
    ∧ sregOf (settle (after (step (let s := scalarAt 0x4C040200 [(1, 0x40000)]; { s with mem := memWrite s.mem 0x40000 [5] })))) 2 = 5 := by decide +kernel
/-- 22 R419: `trap 5`, and an unassigned opcode, without a handler object. -/
theorem test_traps : causeOf (after (step (scalarAt 0xFE14000A []))) = 13 ∧ causeOf (after (step (scalarAt 0x2E000000 []))) = 1 := by decide +kernel
/-- 10, a predicated saturating add: lanes 0-3 of v7 once the word has completed. -/
theorem test_predicated_saturating_add :
    let t := after (exec (.wordCompletion 0 0) (later (after (step (laneAt 0x0000080041C1424005100000 [(5, vec [5, 0x7FFFFFF8, 1, 0xFFFFFFF0]), (7, vec [0, 0, 0x12345678])]
      [(1, 0xB)] [(9, 0x100000010)])))))
    (List.range 5).map (laneOf t 7) = [0x15, 0x7FFFFFFF, 0x12345678, 0, 0] := by decide +kernel
/-- 10 R202, R206: IABS of the least number, ISUB.usat below zero, shifts by 32 with and without .clamp. -/
theorem test_lane_integer_corners : aluAbs 0 0x80000000 = 0x80000000 ∧ aluAbs 1 0x80000000 = 0x7FFFFFFF ∧ aluSub 2 3 5 = 0 ∧ aluShl 1 1 32 = 0
    ∧ aluShr 1 0x80000000 32 = 0 ∧ aluSra 1 0x80000000 32 = 0xFFFFFFFF ∧ aluShl 0 1 32 = 1 := by decide
/-- 10 R210, R215: infinity less itself, a negative number that rounds to zero, the conversions of the text. -/
theorem test_lane_float_corners : aluFsub 0 0x7F800000 0x7F800000 = 0x7FC00000 ∧ aluFrnd 0 0xBE99999A = 0x80000000 ∧ aluCvt 4 0xC0600000 = 0
    ∧ aluCvt 0 0x53800000 = 0x7FFFFFFF ∧ aluCvt 10 0x447A0000 = 0x7E := by decide +kernel
/-- 11, one group, four-lane tiles: lanes 2 and 5 inactive. -/
theorem test_scan_and_red : let x := vec [3, 1, 9, 4, 2, 7, 5, 6]
    head 8 (aluScan 0 1 false 4 0xFFFFFFDB x) = [3, 4, 0, 8, 2, 0, 7, 13] ∧ head 8 (aluScan 0 1 true 4 0xFFFFFFDB x) = [0, 3, 0, 4, 0, 0, 2, 7]
    ∧ (head 8 (aluRed 0 1 2 0xFFFFFFDB x)).take 2 = [8, 8] ∧ (head 8 (aluRed 0 1 2 0xFFFFFFDB x)).drop 6 = [13, 13]
    ∧ (head 8 (aluRed 1 1 2 0xFFFFFFDB x)).take 2 = [1, 1] ∧ (head 8 (aluRed 1 1 2 0xFFFFFFDB x)).drop 6 = [2, 2]
    ∧ (aluRed 0 1 5 0xFFFFFFDB x).getD 0 0 = 21 := by decide +kernel
theorem test_votes_and_shuffle : let x := vec [3, 1, 9, 4, 2, 7, 5, 6]
    (List.range 5).map (fun f => aluVote f 4 0xFFFFFFDB x) = [0xDB, 3, 3, 0xFC, 0x303] ∧ aluVote 4 32 0xFFFFFFDB x = 6
    ∧ ([0, 1, 3, 4, 6, 7].map fun l => x.getD (shflSource 3 4 l 1) 0) = [1, 3, 9, 7, 6, 5] := by decide +kernel
/-- 11, shared registers across groups: what a WSR reads in FCLK 21 and 22 after two WSW in FCLK 20. -/
theorem test_shared_registers :
    let w : Wg := { gid := 0, lw := 0, core := 0, lcore := 0, spad := [], ws := Vector.replicate 16 0, wsPend := [(20, 8, 3, 0x11), (20, 9, 3, 0x22)],
                    stop := none, stopAt := 0, hold := false, quota := false, atStep := false, moves := false, migr := false,
                    placed := State.reset.moment, task := none }
    w.wsAt 21 3 = 0 ∧ w.wsAt 22 3 = 0x22 := by decide +kernel
/-- 09: FRCP of 3.0 as worked out, and FEXP2 of 128.5 (R197). -/
theorem test_special_functions : sfuRcp 0x40400000 = 0x3EAAAAA9 ∧ sfuExp2 0x43008000 = 0x7F800000 := by decide +kernel
/-- 12, an ember worked through: KDEF of the slice over an array of fives keeps the record of the text and leaves 16 in every lane. -/
theorem test_ember :
    let s := laneAt 0x00000C500301000000880028 [(4, Vector.ofFn fun l => BitVec.ofNat 32 (4 * l.val))] [] [(6, 0x0000004000500000)]
    let words := leBytes 12 0x00003C5040C18000003A4000 ++ leBytes 12 0x00003C0100C0C00002000003 ++ leBytes 12 0x00003C0040C0C00002000001
    let fives := (List.replicate 32 (leBytes 4 5)).flatten
    let t := after (step { s with mem := memWrite (memWrite (memWrite s.mem 0x201E0 words) 0x4800 (leBytes 8 0x1F)) 0x500000 fives })
    t.groups.map (fun g => g.recipes.map recipeNat) = [[0x0C00050441000014000000000000000500000000000000000000004000500000]]
    ∧ (List.range 32).all (fun l => laneOf (after (exec (.wordCompletion 0 0) (later t))) 12 l == 16) = true := by decide +kernel
/-- 09: entry 32 of the RCP image, at byte 256. -/
theorem test_rcp_image : ((sfuImages.headD []).drop 256).take 8 = leBytes 8 0x54E4252E3D9812AC := by decide +kernel
-- ### States that meet the hypotheses of the statements

/-- The group in slot 0. -/
def grp (s : State) : Group := (s.group? 0).getD (newGroup State.reset probeGrid 0 0 0 none)
def withG (s : State) (f : Group → Group) : State := { s with groups := s.groups.map f }
def withWg (s : State) (f : Wg → Wg) : State := { s with wgs := s.wgs.map f }
def withGrid (s : State) (f : Grid → Grid) : State := { s with grids := s.grids.map f }
def withCtx (s : State) (f : Ctx → Ctx) : State := { s with svc := { s.svc with ctxs := s.svc.ctxs.map fun c => (c.1, f c.2) } }
def isNext : Out → Bool
  | .next _ => true
  | .fault _ | .refused _ => false
theorem nextOf {o : Out} (h : isNext o = true) : ∃ t, o = .next t := by
  cases o with
  | next t => exact ⟨t, rfl⟩
  | fault _ => cases h
  | refused _ => cases h
def isOk {ε α : Type} : Except ε α → Bool
  | .ok _ => true
  | .error _ => false
theorem okOf {ε α : Type} {e : Except ε α} (h : isOk e = true) : ∃ x, e = .ok x := by
  cases e with
  | ok x => exact ⟨x, rfl⟩
  | error _ => cases h
/-- Whether a check answers that value. -/
def okIs {ε α : Type} [BEq α] (e : Except ε α) (x : α) : Bool :=
  match e with
  | .ok y => y == x
  | .error _ => false
theorem okIsOf {ε α : Type} [BEq α] [LawfulBEq α] {e : Except ε α} {x : α} (h : okIs e x = true) : e = .ok x := by
  cases e with
  | ok y => exact congrArg _ (eq_of_beq h)
  | error _ => cases h
theorem errOfE {ε α : Type} {e : Except ε α} (h : isOk e = false) : ∃ x, e = .error x := by
  cases e with
  | ok _ => cases h
  | error x => exact ⟨x, rfl⟩
theorem someOf {α : Type} {o : Option α} (h : o.isSome = true) : ∃ x, o = some x := Option.isSome_iff_exists.mp h

/-- Whether the group in slot 0 is the word's, with no result on its way and no queued run that reads `d` and no word on its way. -/
def readyFor (s : State) (d : BitVec 8) : Bool :=
  (s.group? 0).isSome && s.cur == 0 && (grp s).spend.isNone && (d == 0 || (grp s).runq.all fun r => !r.reads.contains d) && (grp s).flights.isEmpty
theorem hereOf {s : State} (h : (s.group? 0).isSome = true) : s.group? 0 = some (grp s) := by
  obtain ⟨g, hg⟩ := someOf h
  simp [grp, hg]
theorem atScalar {s : State} {d : BitVec 8} (h : readyFor s d = true) : AtScalar s (grp s) d := by
  simp only [readyFor, Bool.and_eq_true, Bool.or_eq_true, beq_iff_eq, Option.isNone_iff_eq_none, List.all_eq_true, Bool.not_eq_true', List.isEmpty_iff] at h
  refine ⟨h.1.1.1.2 ▸ hereOf h.1.1.1.1, h.1.1.2, h.1.2.imp id fun h r hr => ?_, .inr fun f hf => ?_⟩
  · simpa using h r hr
  · rw [h.2] at hf; cases hf
def quietB (g : Group) : Bool := g.runq.isEmpty && g.ctrs == Vector.replicate 12 0 && g.deferred.isEmpty
theorem quietOf {g : Group} (h : quietB g = true) : Quiet g := by
  simp only [quietB, Bool.and_eq_true, List.isEmpty_iff, beq_iff_eq] at h
  exact ⟨h.1.1, h.1.2, h.2⟩
def doneB (g : Group) : Bool := g.runq.isEmpty && g.flights.all (!·.cls.isMemory) && g.deferred.isEmpty
theorem doneOf {g : Group} (h : doneB g = true) : MemoryDone g := by
  simp only [doneB, Bool.and_eq_true, List.isEmpty_iff, List.all_eq_true, Bool.not_eq_true'] at h
  exact ⟨h.1.1, h.1.2, h.2⟩

/-- A group at a scalar word, s1 = 0x40000, s2 = 5, s3 = 7. -/
def s0 : State := scalarAt 0x02000000 [(1, 0x40000), (2, 5), (3, 7)]
/-- A run of one word that reads no scalar register. -/
def run1 : Run := { next := 0, buf := [some 0], prev := none, reads := [], view := View.fresh, heard := [], obs := [] }

/-- Encodings: ScalarRoundTrip, LaneRoundTrip and DecodedWordsEncode. -/
theorem test_meets_round_trips : (Instr.saddi 9 0 16).wf = true ∧ encodeScalar (.saddi 9 0 16) = some 0x06120010
    ∧ (Instr.wsw { c0 with setc := 5 } 3 (v 9)).wf = true ∧ encodeLane (.wsw { c0 with setc := 5 } 3 (v 9)) = some 0x00001441C0C2400000000000
    ∧ decodeScalar 0x06120010 = some (.saddi 9 0 16) ∧ decodeLane 0x00001441C0C2400000000000 = some (.wsw { c0 with setc := 5 } 3 (v 9)) := by decide
/-- StepRunsDecodedInstruction: a scalar word, a lane word, a unit's step, time. -/
theorem test_meets_StepRunsDecodedInstruction :
    (let s := scalarAt 0x06120010 []
     let u := { s with agenda := [] }.seated (.scalar (grp s).slot)
     s.agenda = [.scalar (grp s).slot] ∧ (grp s).slot = 0 ∧ (u.group? 0).isSome = true ∧ grp u = grp s ∧ u.frozen (grp s) = false ∧ (grp s).spend = none ∧ (grp s).mid = none ∧ (grp s).entryWaits u.fclk = false
      ∧ fetchScalar u (grp s) (grp s).spc.toNat = .word 0x06120010
      ∧ decodeScalar 0x06120010 = some (.saddi 9 0 16) ∧ breaks { u with cur := (grp s).slot } (grp s) false (grp s).spc.toNat = false)
    ∧ (let s := laneAt 0x0000080041C1424005100000 [] [] []
     let u := { s with agenda := [] }.seated (.lane (grp s).slot)
     s.agenda = [.lane (grp s).slot] ∧ (grp s).slot = 0 ∧ (u.group? 0).isSome = true ∧ grp u = grp s ∧ u.laneFrozen (grp s) = false ∧ ((grp s).parked && !(grp s).drained) = false
      ∧ (grp s).runq = [{ run1 with buf := [some 0x0000080041C1424005100000] }] ∧ u.spadBusy (grp s) = false
      ∧ (grp s).late = [] ∧ (decodeLane 0x0000080041C1424005100000).isSome = true ∧ breaks { u with cur := (grp s).slot } (grp s) true 0 = false)
    ∧ encode (.growGrant 415) = .none ∧ (s0.seat.phase = 0 ∧ (Turn.scalar 7 = .scalar 7 ∨ Turn.scalar 7 = .lane 7)) := by decide +kernel
def stillB (g : Group) : Bool := g.mq.isEmpty && g.trial.isNone && g.flights.isEmpty && g.spend.isNone && g.late.isEmpty
theorem stillOf {g : Group} (h : stillB g = true) : g.still := by
  simp only [stillB, Bool.and_eq_true, List.isEmpty_iff, Option.isNone_iff_eq_none] at h
  exact ⟨h.1.1.1.1, h.1.1.1.2, h.1.1.2, h.1.2, h.2⟩
/-- UndecodedScalarWordTraps: a word that names nothing, and the end of the section. -/
theorem test_meets_UndecodedScalarWordTraps :
    (let s := scalarAt 0 []
     let u := { s with agenda := [] }.seated (.scalar (grp s).slot)
     s.agenda = [.scalar (grp s).slot] ∧ (grp s).slot = 0 ∧ (u.group? 0).isSome = true ∧ grp u = grp s ∧ u.frozen (grp s) = false ∧ (grp s).mid = none ∧ stillB (grp s) = true
      ∧ fetchScalar u (grp s) (grp s).spc.toNat = .word 0 ∧ decodeScalar 0 = none)
    ∧ (let s := withG (scalarAt 0 []) fun g => { g with spc := 0x400 }
     let u := { s with agenda := [] }.seated (.scalar (grp s).slot)
     s.agenda = [.scalar (grp s).slot] ∧ (grp s).slot = 0 ∧ (u.group? 0).isSome = true ∧ grp u = grp s ∧ u.frozen (grp s) = false ∧ (grp s).mid = none ∧ stillB (grp s) = true
      ∧ fetchScalar u (grp s) (grp s).spc.toNat = .beyond) := by decide +kernel
/-- StepKeepsMemoryCanonical and WordsKeepGlobalConfiguration (a repair map that a fence changes, and no matrix word queued). -/
theorem test_meets_steps : s0.memOk ∧ memWf s0.svc.repairMap = true ∧ (∀ g ∈ s0.groups, g.mq = []) ∧ (∃ t, step s0 = .next t) ∧ (∃ t, scalarTurn 0 s0 = .next t)
    ∧ ∃ t, laneTurn 0 (laneAt 0x0000080041C1424005100000 [] [] []) = .next t :=
  ⟨by unfold State.memOk; decide +kernel, by decide +kernel, by decide +kernel, nextOf (by decide +kernel), nextOf (by decide +kernel), nextOf (by decide +kernel)⟩
/-- The scalar words: a word that writes s0, one that writes s255, and one whose destination a queued run does not read. ScalarArithmetic, ScalarFieldsAndCompares,
ScalarDivide, RegisterReadsAndWrites, BranchesMoveSpc. -/
theorem test_meets_scalar_words : AtScalar s0 (grp s0) 0 ∧ AtScalar s0 (grp s0) 255
    ∧ AtScalar (withG s0 fun g => { g with runq := [{ run1 with reads := [5] }] }) (grp (withG s0 fun g => { g with runq := [{ run1 with reads := [5] }] })) 6 :=
  ⟨atScalar (by decide +kernel), atScalar (by decide +kernel), atScalar (by decide +kernel)⟩
/-- ScalarDivide: a result on its way, and no lane word that writes its register. -/
theorem test_meets_ScalarDivide : let s := after (step (scalarAt 0x0C0E0604 []))
    (s.group? 0).isSome = true ∧ (grp s).spend = some { idx := 0, d := 7, v := 2 ^ 64 - 1, div := true, skip := none } ∧ (grp s).flights = [] := by decide +kernel
/-- RegisterReadsAndWrites: a register that no word on its way writes, and one that a word writes; a gang of four workgroups and a grid of three dimensions; SSET with an
empty and with a queued run. -/
theorem test_meets_RegisterReadsAndWrites :
    (let f : Flight := { id := 0, ctr := 0, cls := .inOrder, lat := 0, age := 0, ready := true, effs := [.sreg 255 9] }
     let g := { grp s0 with flights := [f] }
     g.pending = [.sreg 255 9] ∧ (grp s0).pending = [] ∧ g.spend = none ∧ g.runq = [] ∧ ((withG s0 fun _ => g).group? s0.cur).isSome = true) ∧ (grp s0).runq = []
    ∧ (let s := withG s0 fun g => { g with runq := [run1] }
       readyFor s 0 = true ∧ (grp s).runq ≠ [])
    ∧ (let s := withGrid s0 fun d => { d with desc := { d.desc with gang := 4, gridx := 65535, gridy := 7, gridz := 2 } }
       ((s.grid? (grp s).gid).map fun d => (d.desc.gang, d.desc.gridx, d.desc.gridy)) = some (4, 65535, 7) ∧ (s.wg? (grp s).gid (grp s).lw).isSome = true)
    ∧ ((0x14 : BitVec 8) ≠ 0x09 ∧ (0x14 : BitVec 8) ≠ 0x0A ∧ (0x14 : BitVec 8) ≠ 0x0F ∧ (0x14 : BitVec 8) ≠ 0x10 ∧ (0x14 : BitVec 8) ≠ 0x13) := by decide +kernel
/-- ScalarLoads: the checks of an aligned load of eight bytes, a byte load at the last mapped address, a misaligned address, the last constant of the data section, reads by a
stream that is up to date. -/
theorem test_meets_ScalarLoads : okIs (checkPhys s0 (grp s0) needRead (2 ^ ((6 : BitVec 3).toNat / 2)) (rd s0 (grp s0) 1 + (0 : BitVec 9).signExtend 64).toNat) 0x40000
    ∧ errOf s0 0x40000 (2 ^ ((6 : BitVec 3).toNat / 2)) = 0
    ∧ (let s := scalarAt 0 [(1, 2 ^ 30)]
       okIs (checkPhys s (grp s) needRead (2 ^ ((0 : BitVec 3).toNat / 2)) (rd s (grp s) 1 + (0x1FF : BitVec 9).signExtend 64).toNat) (2 ^ 30 - 1) ∧ errOf s (2 ^ 30 - 1) 1 = 0)
    ∧ (∀ k, k < 8 → errOf s0 (0x40000 + k) 1 = 0)
    ∧ (let s := scalarAt 0 [(1, 2 ^ 57 - 1)]
       readyFor s 2 = true ∧ stillB (grp s) = true ∧ (rd s (grp s) 1 + (0 : BitVec 9).signExtend 64).toNat < 2 ^ 57
        ∧ (rd s (grp s) 1 + (0 : BitVec 9).signExtend 64).toNat % 2 ^ ((6 : BitVec 3).toNat / 2) ≠ 0)
    ∧ s0.taskOf (grp s0) = none ∧ (s0.codeObj (grp s0)).doff ≠ 0 ∧ 8 * (0xFFF : BitVec 17).toNat + 8 ≤ (s0.codeObj (grp s0)).dlen
    ∧ isOk (readVirt s0 (s0.ctxOfGrid (grp s0).gid) none (s0.scalarReader (grp s0)) 0
        ((s0.codeObj (grp s0)).addr + (s0.codeObj (grp s0)).doff + 8 * (0xFFF : BitVec 17).toNat) 8) = true := by decide +kernel
/-- Nothing written: a reader is up to date, and what it reads is a read of the memory model. -/
theorem test_meets_ScalarLoads_reads : UpToDate s0 (s0.scalarReader (grp s0)) (globLocs 0x40000 8)
    ∧ Reads s0 none (s0.scalarReader (grp s0)) (globLocs 0x40000 8) (memRead s0.mem 0x40000 8) := by
  have h : ∀ l, s0.order.versions l = [] := fun _ => rfl
  have n : ∀ (i : Nat) l, (globLocs 0x40000 8)[i]? = some l → (memRead s0.mem 0x40000 8)[i]? = some (s0.byteNow l) := by
    intro i l hi
    have hi8 : i < 8 := by
      have := (List.getElem?_eq_some_iff.mp hi).1
      simpa [globLocs] using this
    have : l = { spad := none, at_ := 0x40000 + i } := by
      simpa [globLocs, List.getElem?_range, hi8] using hi.symm
    subst this
    simp [memRead, hi8, State.byteNow]
  refine ⟨.inr fun l _ v hv => by simp [h] at hv, ⟨by decide +kernel, ?_, fun i l hi _ _ => .inl (n i l hi), fun _ i l hi _ _ => n i l hi⟩⟩
  rintro i l b _ ⟨-, t, ht, -⟩
  cases ht
/-- ScalarStoresAndDoorbells: a store of eight bytes to memory, and one to the last doorbell. -/
theorem test_meets_ScalarStoresAndDoorbells : s0.memOk ∧ s0.taskOf (grp s0) = none ∧ linkUp s0 0x40000 = true
    ∧ okIs (checkPhys s0 (grp s0) needWrite (2 ^ (3 : BitVec 2).toNat) (rd s0 (grp s0) 1 + (0 : BitVec 9).signExtend 64).toNat) 0x40000
    ∧ bellOf s0 0x40000 (2 ^ (3 : BitVec 2).toNat) = none
    ∧ (let s := scalarAt 0 [(1, 0x17FFF8)]
       let s := { s with svc := { s.svc with dbbase := 0x100000 } }
       readyFor s 0 = true ∧ s.taskOf (grp s) = none ∧ okIs (checkPhys s (grp s) needWrite 8 (rd s (grp s) 1 + (0 : BitVec 9).signExtend 64).toNat) 0x17FFF8
        ∧ isHost 0x17FFF8 = false ∧ s.svc.dbbase ≠ 0 ∧ 0x17FFF8 = s.svc.dbbase + 8 * 65535) := by
  unfold State.memOk
  decide +kernel
/-- BranchesMoveSpc: an SBC condition, lanes that agree (m0, with and without NEG) and lanes that disagree (m1). -/
theorem test_meets_BranchesMoveSpc :
    (5 : BitVec 3).toNat < 6 ∧ (∀ l : Fin 32, (grp s0).exm[l] = true → ((grp s0).mask s0.free 0)[l] = !false) ∧ (∀ l : Fin 32, (grp s0).exm[l] = true → ((grp s0).mask s0.free 0)[l] = true)
    ∧ (grp s0).exm ≠ 0
    ∧ (let s := withG s0 fun g => { g with masks := g.masks.set 1 1 }
       readyFor s 0 = true ∧ stillB (grp s) = true ∧ (grp s).exm[(0 : Fin 32)] = true ∧ (grp s).exm[(31 : Fin 32)] = true
        ∧ ((grp s).mask s.free 1)[(0 : Fin 32)] = true ∧ ((grp s).mask s.free 1)[(31 : Fin 32)] = false) := by decide +kernel
/-- A word of the lanes on counter `c` that no wait has covered, with a store and a release. -/
def slackOn (id : Nat) (c : BitVec 4) : Slack :=
  { id := id, ctr := c, waited := false, stores := [3], gain := View.fresh, rels := [{ src := unitThread, scope := 4, view := View.fresh }], obs := [] }
/-- RunsWaitsAndSteps: three and four runs queued, counters at and above n, a gang that is asked to stop, a quiet group with and without a cut of its grid. -/
theorem test_meets_RunsWaitsAndSteps :
    (let s := withG s0 fun g => { g with runq := List.replicate 3 run1 }; readyFor s 0 = true ∧ (grp s).runq.length < 4 ∧ (grp s).runq ≠ [])
    ∧ (let s := withG s0 fun g => { g with runq := List.replicate 4 run1 }; readyFor s 0 = true ∧ 4 ≤ (grp s).runq.length)
    ∧ (let s := withG s0 fun g => { g with ctrs := g.ctrs.set 11 255 }
       readyFor s 0 = true ∧ (grp s).deferred = [] ∧ (grp s).last = none ∧ counted s (grp s) 11 ≤ (255 : BitVec 8).toNat ∧ counted s (grp s) 11 ≠ 0
        ∧ (254 : BitVec 8).toNat < counted s (grp s) 11)
    ∧ (let s := withG s0 fun g => { g with ctrs := g.ctrs.set 11 1, last := some (0, 11) }
       readyFor s 0 = true ∧ (grp s).deferred = [] ∧ (grp s).last = some (s.fclk, BitVec.ofNat 4 (11 : Fin 12)) ∧ (grp s).ctrs[(11 : Fin 12)] ≠ 0
        ∧ counted s (grp s) 11 ≤ (0 : BitVec 8).toNat)
    ∧ (let s := withG s0 fun g => { g with slack := [slackOn 4 11, slackOn 5 11], ctrs := g.ctrs.set 11 1, last := some (0, 11), nextId := 6 }
       readyFor s 0 = true ∧ (grp s).deferred = [] ∧ counted s (grp s) 11 = 0 ∧ proves s (grp s) 11 (slackOn 4 11) = true ∧ proves s (grp s) 11 (slackOn 5 11) = false)
    ∧ s0.gangStop (grp s0).gid (gangIdx (s0.desc (grp s0).gid) (grp s0).lw) = none
    ∧ (let s := withWg s0 fun w => { w with stop := some .host }
       readyFor s 0 = true ∧ s.gangStop (grp s).gid (gangIdx (s.desc (grp s).gid) (grp s).lw) ≠ none)
    ∧ quietB (grp s0) = true ∧ s0.stepStops (grp s0) = false
    ∧ (let s := { s0 with grids := s0.grids.map fun d => { d with cut := [0] } }
       readyFor s 0 = true ∧ quietB (grp s) = true ∧ s.stepStops (grp s) = true) := by decide +kernel
/-- Two groups of one workgroup, in slots 0 and 1. -/
def pair (s : State) (f : Group → Group) : State := { s with groups := s.groups ++ s.groups.map fun g => f { g with slot := 1, k := 1 } }
/-- BarriersHoldAndRelease: barrier 3 of 4; one and both groups of a workgroup at workgroup barrier 3 (bit 3) and gang barrier 3 (bit 7). -/
theorem test_meets_BarriersHoldAndRelease : doneB (grp s0) = true ∧ (3 : BitVec 2).toNat < (s0.desc (grp s0).gid).nbar ∧ (grp s0).bars.getLsbD 3 = false
    ∧ (grp s0).bars.getLsbD (3 + 4) = false
    ∧ (let s := pair (withG s0 fun g => { g with bars := 0x88 }) fun g => { g with bars := 0 }
       (s.group? 0).isSome = true ∧ (s.groups.map Group.slot).Nodup ∧ (∃ x ∈ s.wgGroups (grp s).gid (grp s).lw, x.bars.getLsbD 3 = false)
        ∧ ∃ x ∈ s.gangGroups (grp s).gid (gangIdx (s.desc (grp s).gid) (grp s).lw), x.bars.getLsbD 7 = false)
    ∧ (let s := pair (withG s0 fun g => { g with bars := 0x88 }) id
       (s.group? 0).isSome = true ∧ (s.groups.map Group.slot).Nodup ∧ (∀ x ∈ s.wgGroups (grp s).gid (grp s).lw, x.bars.getLsbD 3 = true)
        ∧ ∀ x ∈ s.gangGroups (grp s).gid (gangIdx (s.desc (grp s).gid) (grp s).lw), x.bars.getLsbD 7 = true) := by decide +kernel
/-- A group in a handler. -/
def inHandler (s : State) (rs : List Run) : State :=
  withG s fun g => { g with cause := BitVec.ofNat 64 (2 ^ 31 + 13), elpc := 1, aside := some { runq := rs, exm := 5, tpart := 2 } }
/-- TrapEntersHandler: a context with a handler object; no handler object, a masked trap, and a trap in a handler. -/
theorem test_meets_TrapEntersHandler :
    (let s := withCtx s0 fun c => { c with hobj := 0x50000, hk := some { probeKernel with addr := 0x50000, entry := 3 } }
    readyFor s 0 = true ∧ stillB (grp s) = true ∧ (grp s).inh = false ∧ (s.gctx (grp s)).hobj ≠ 0
      ∧ (s.gctx (grp s)).hk = some { probeKernel with addr := 0x50000, entry := 3 } ∧ (s.gctx (grp s)).hmask.getLsbD 13 = false)
    ∧ stillB (grp s0) = true ∧ (s0.wg? (grp s0).gid (grp s0).lw).isSome = true
    ∧ (∀ w ∈ s0.wgs, w.stop = none) ∧ (s0.gctx (grp s0)).hobj = 0
    ∧ ((withCtx s0 fun c => { c with hobj := 0x50000, hmask := 0x2000 }).gctx (grp s0)).hmask.getLsbD 13 = true
    ∧ (grp (inHandler s0 [])).inh = true ∧ readyFor (inHandler s0 []) 0 = true := by decide +kernel
/-- HandlerReturn: no run set aside; ELPC in the oldest run set aside, and past it; and outside a handler. -/
theorem test_meets_HandlerReturn : readyFor (inHandler s0 []) 0 = true ∧ quietB (grp (inHandler s0 [])) = true ∧ (grp (inHandler s0 [])).inh = true
    ∧ (grp (inHandler s0 [])).aside.isSome = true
    ∧ (let g := grp (inHandler s0 [{ run1 with buf := [some 0, some 0] }]); 0 ≤ g.elpc.toNat ∧ g.elpc.toNat < 0 + 2 ∧ g.aside.isSome = true ∧ quietB g = true)
    ∧ (let g := grp (inHandler s0 [run1]); 0 + 1 ≤ g.elpc.toNat ∧ g.aside.isSome = true ∧ quietB g = true)
    ∧ (grp s0).inh = false ∧ stillB (grp s0) = true := by decide +kernel
/-- A group of `n` registers with its boundary at `b`, alone on a core of `rpg` units of 64 granules. -/
def allotted (n b rpg : Nat) (ask : Option (Nat × Nat)) : State :=
  let s := withG s0 fun g => { g with regs := g.regs.take n, bound := b, growAsk := ask }
  { s with grids := s.grids.map fun d => { d with desc := { d.desc with part := rpg * 256 + 8 } } }
/-- AllotmentChanges: growth to 256 registers with the granules free, with too few, past 256; the grant; a SHRINK to the boundary and a SETBND to the top. -/
theorem test_meets_AllotmentChanges :
    (let s := allotted 128 64 1 none
     readyFor s 0 = true ∧ quietB (grp s) = true ∧ (grp s).growAsk = none ∧ (grp s).regs.length / 8 + (16 : BitVec 6).toNat ≤ 32 ∧ s.firstAsk (grp s).core = none
      ∧ (16 : BitVec 6).toNat ≤ s.freeGranules (grp s).core)
    ∧ (let s := allotted 128 64 0 none
     readyFor s 0 = true ∧ quietB (grp s) = true ∧ (grp s).growAsk = none ∧ (grp s).regs.length / 8 + (1 : BitVec 6).toNat ≤ 32 ∧ s.freeGranules (grp s).core < (1 : BitVec 6).toNat)
    ∧ (let s := allotted 256 64 1 none
     readyFor s 0 = true ∧ quietB (grp s) = true ∧ stillB (grp s) = true ∧ (grp s).growAsk = none ∧ 32 < (grp s).regs.length / 8 + (1 : BitVec 6).toNat)
    ∧ (let s := allotted 128 64 1 (some (16, 0))
     (s.firstAsk 0).map (fun g => g.growAsk) = some (some (16, 0)) ∧ 16 ≤ s.freeGranules 0)
    ∧ (let s := allotted 128 64 1 none
     (∀ x ∈ s.groups, x.growAsk = none) ∧ (8 : BitVec 6).toNat + (grp s).bound / 8 ≤ (grp s).regs.length / 8 ∧ (grp s).tiles = []
      ∧ (16 : BitVec 6).toNat ≤ (grp s).regs.length / 8 ∧ (grp s).recipes = []) := by decide +kernel
/-- WatchdogTraps: the interval reached, one microsecond short of it, no interval, in a handler, and with a request to stop. -/
theorem test_meets_WatchdogTraps :
    (let s := withG { s0 with us := 7 } fun g => { g with progto := 7 }
     (s.group? 0).isSome = true ∧ stillB (grp s) = true ∧ (grp s).mid = none ∧ (grp s).inh = false ∧ (grp s).toHost = false
      ∧ ¬Halted s (grp s).gid (gangIdx (s.desc (grp s).gid) (grp s).lw) ∧ (grp s).progto ≠ 0 ∧ (grp s).watch + ((grp s).progto.toNat : Int) ≤ (s.us : Int))
    ∧ (let s := withG { s0 with us := 6 } fun g => { g with progto := 7 }; (s.us : Int) < (grp s).watch + ((grp s).progto.toNat : Int)) ∧ (grp s0).progto = 0
    ∧ (grp (inHandler s0 [])).inh = true ∧ (grp (withG s0 fun g => { g with toHost := true })).toHost = true
    ∧ (let s := withWg { s0 with fclk := 1 } fun w => { w with stop := some .host }
       Halted s (grp s).gid (gangIdx (s.desc (grp s).gid) (grp s).lw)) := by
  unfold Halted
  decide +kernel
/-- A grid field changed in every grid. -/
def withD (s : State) (f : Grid → Grid) : State := { s with grids := s.grids.map f }
def withMem (s : State) (a : Nat) (bs : List Byte) : State := { s with mem := memWrite s.mem a bs }
/-- A context whose deferred-reclaim list, at 0x60000, holds these STATE bytes for names 0x40000. -/
def withList (s : State) (sts : List Nat) : State :=
  let bs := sts.flatMap fun x => leBytes 8 0x40000 ++ leBytes 8 x
  withMem (withCtx s fun c => { c with defl := 0x60000 }) 0x60000 bs
/-- The group pins the name in s1, by pin register 7. -/
def pinning (s : State) : State := withG s fun g => { g with pins := g.pins.set 7 0x40000 }
/-- Every access of the group is performed. -/
def accessB (g : Group) : Bool := doneB g && g.flights.all fun f => f.cls != .mmq
theorem accessOf {g : Group} (h : accessB g = true) : AccessesDone g := by
  simp only [accessB, Bool.and_eq_true, List.all_eq_true, bne_iff_ne] at h
  exact { doneOf h.1 with tiles := h.2 }
def flying (cls : WordClass) : Flight := { id := 0, ctr := 0, cls := cls, lat := 0, age := 0, ready := false, effs := [] }
/-- PinsAndReclaim: a queued run, a memory word and an MMQ under way, a free and a held pin register, a name that nothing pins, a WAITING entry 1, a first FREE entry 0 or 2, no list. -/
theorem test_meets_PinsAndReclaim : accessB (grp s0) = true ∧ s0.taskOf (grp s0) = none ∧ (grp s0).pins[7] = 0 ∧ s0.pinned (rd s0 (grp s0) 1) = false
    ∧ (let s := withG s0 fun g => { g with runq := [run1], flights := [flying .mmq, flying (memWord true false 0)] }
       (s.group? 0).isSome = true ∧ (grp s).spend = none ∧ (grp s).runq ≠ [] ∧ ∀ f ∈ (grp s).flights, f.cls.isMemory = true ∨ f.cls = .mmq)
    ∧ (let s := withList (pinning s0) [2, 1]
       readyFor s 9 = true ∧ accessB (grp s) = true ∧ (grp s).pins[7] = rd s (grp s) 1 ∧ rd s (grp s) 1 ≠ 0 ∧ s.pinned (rd s (grp s) 1) = true
        ∧ s.taskOf (grp s) = none ∧ (s.gctx (grp s)).defl ≠ 0 ∧ deflEcc s (s.gctx (grp s)).defl = none ∧ deflName s.mem (s.gctx (grp s)).defl 1 = (rd s (grp s) 1).toNat
        ∧ deflState s.mem (s.gctx (grp s)).defl 1 = 1)
    ∧ (let s := withList (pinning s0) [2, 2]
       s.memOk ∧ (s.gctx (grp s)).defl + 4096 ≤ 2 ^ 57 ∧ (∀ j, j < 256 → deflState s.mem (s.gctx (grp s)).defl j ≠ 1)
        ∧ deflState s.mem (s.gctx (grp s)).defl 2 = 0 ∧ (∀ j, j < 2 → deflState s.mem (s.gctx (grp s)).defl j ≠ 0) ∧ deflEcc s (s.gctx (grp s)).defl = none)
    ∧ (let s := pinning s0
       readyFor s 9 = true ∧ stillB (grp s) = true ∧ s.pinned (rd s (grp s) 1) = true ∧ (s.gctx (grp s)).defl = 0) := by
  unfold State.memOk
  decide +kernel
/-- An ordered task of timestamp `ts` whose group has its number in s1, with `n` spawns; `ks` are the set's other tasks. -/
def tasked (w ts n : Nat) (ks : List TaskKey) : State :=
  let t : Task := { ts := BitVec.ofNat 48 ts, seq := 0, arg := 0, spawns := List.replicate n (0, 0), buf := [], reads := [], direct := false, dies := [] }
  withD (withWg (scalarAt w [(1, 5)]) fun x => { x with task := some t }) fun d => { d with isTask := true, tasks := ks }
/-- The group as number 1 of its workgroup, and its grid's record of stream 15 of group 0. -/
def second (c : BitVec 16) : State :=
  withD (withG (scalarAt 0x02000000 [(1, 0xF00000002)]) fun g => { g with k := 1, pins := g.pins.set 7 0x40000 }) fun d => { d with closed := [(0, c)], desc := { d.desc with wgsize := 2 } }
/-- OrderedAppend: stream 15, closed and not closed by the lower group, and by the group itself; the word of a grant, and a group that is to be saved. -/
theorem test_meets_OrderedAppend :
    (let s := second 0x8000
     readyFor s 9 = true ∧ s.taskOf (grp s) = none ∧ streamOf (rd s (grp s) 1) = 15 ∧ (grp s).oclosed.getLsbD 15 = false
      ∧ (s.grid? (grp s).gid).map (fun d => d.lowerClosed (s.lg (grp s)) 15) = some true)
    ∧ (let s := second 0x7FFF
     readyFor s 9 = true ∧ s.taskOf (grp s) = none ∧ (grp s).oclosed.getLsbD 15 = false ∧ (s.grid? (grp s).gid).map (fun d => d.lowerClosed (s.lg (grp s)) 15) = some false)
    ∧ (let s := withG (second 0) fun g => { g with oclosed := 0x8000 }
     (s.group? s.cur).isSome = true ∧ stillB (grp s) = true ∧ (grp s).oclosed.getLsbD (streamOf (rd s (grp s) 1)).toNat = true)
    ∧ (let s := withG (tasked 0x02000000 5 0 []) fun g => { g with runq := [{ run1 with reads := [9] }] }
     (s.group? s.cur).isSome = true ∧ stillB (grp s) = true ∧ s.taskOf (grp s) ≠ none)
    ∧ (let s := withMem (second 0x8000) 0x10100 (leBytes 4 0xFE361202)
     fetchScalar s (grp s) (grp s).spc.toNat = .word 0xFE361202 ∧ decodeScalar 0xFE361202 = some (.oapp 9 1)
      ∧ s.frozen (grp s) = false ∧ (grp s).mid = none ∧ (grp s).entryWaits s.fclk = false ∧ breaks s (grp s) false (grp s).spc.toNat = false)
    ∧ (let s := withWg { second 0x8000 with fclk := 1 } fun w => { w with stop := some .host }
     s.frozen (grp s) = true) := by decide +kernel
/-- ExitEndsGroup: the only group of its gang, and one of two. -/
theorem test_meets_ExitEndsGroup : (quietB (grp s0) = true ∧ (grp s0).mq = [] ∧ s0.taskOf (grp s0) = none ∧ s0.jobs = [] ∧ (s0.grid? (grp s0).gid).isSome = true
    ∧ (grp s0).pins = Vector.replicate 8 0 ∧ (s0.gangGroups (grp s0).gid (gangIdx (s0.desc (grp s0).gid) (grp s0).lw)).length = 1
    ∧ (let s := pair s0 id; (s.group? 0).isSome = true ∧ (s.gangGroups (grp s).gid (gangIdx (s.desc (grp s).gid) (grp s).lw)).length = 2))
    ∧ s0.gangGroups (grp s0).gid (gangIdx (s0.desc (grp s0).gid) (grp s0).lw) = [grp s0] := ⟨by decide +kernel, rfl⟩

/-- The card of a COPY of 257 bytes by channel 7, from 0x2000 to 0x3000 of the scratchpad. -/
def cardBytes : List Byte :=
  leBytes 8 (7 * 2 ^ 16 + 5 * 2 ^ 8) ++ leBytes 8 0x2000 ++ leBytes 4 257 ++ leBytes 4 0 ++ leBytes 8 0 ++ leBytes 8 0x3000 ++ leBytes 4 257 ++ leBytes 4 0 ++ leBytes 8 0 ++ leBytes 8 0
/-- Its job at offset 0x1000 of the scratchpad, with DONE bytes done. -/
def job (st : JobSt) (done : Nat) : Job :=
  { id := 5, core := 0, gid := 0, lw := 0, k := 0, lg := 0, edges := [], ticket := 1, at_ := 0x1000, card := cardOf cardBytes, st := st, done := done, fcause := 0, fadr := 0, reported := false }
/-- A group with that card, its address in s1, and jobs. -/
def engine (js : List Job) : State :=
  { withWg (scalarAt 0x02000000 [(1, 0x1000), (2, 1)]) (fun w => { w with spad := memWrite [] 0x1000 cardBytes }) with jobs := js }
/-- EngineJobs: FORK with 15 jobs outstanding; RVZ with its jobs ended and with one that runs; WPWAIT at the pointer of its channel. -/
theorem test_meets_EngineJobs_words :
    (let s := engine (List.replicate 15 { job .running 0 with at_ := 0x2000 })
     readyFor s 9 = true ∧ accessB (grp s) = true ∧ s.taskOf (grp s) = none ∧ (s.wg? (grp s).gid (grp s).lw).isSome = true
      ∧ isOk (forkCheck s (grp s) (rd s (grp s) 1).toNat) = true ∧ (s.jobs.countP fun j => j.mine (grp s) && j.outstanding) < 16
      ∧ (s.jobs.countP fun j => j.core == (grp s).core && j.outstanding) < 64)
    ∧ (let s := engine [job .done 257, { job .faulted 0 with reported := true }, { job .running 0 with ticket := 2 }]
     readyFor s 0 = true ∧ ∀ j ∈ s.jobs, j.mine (grp s) = true → j.ticket.toNat ≤ (rd s (grp s) 2).toNat % 2 ^ 48 → j.st = .done ∨ (j.st = .faulted ∧ j.reported = true))
    ∧ (let s := engine [job .running 0]
     readyFor s 0 = true ∧ ∃ j ∈ s.jobs, j.mine (grp s) = true ∧ j.ticket.toNat ≤ (rd s (grp s) 2).toNat % 2 ^ 48 ∧ j.st ≠ .done ∧ j.st ≠ .faulted)
    ∧ (let s := (engine []).setWp 0 7 0x1000
     readyFor s 0 = true ∧ s.taskOf (grp s) = none ∧ (rd s (grp s) 1).toNat % 2 ^ 57 ≤ (s.wp ((grp s).slot / 48) 7).toNat) := by decide +kernel
/-- EngineJobs: a job that may start, one whose edge is still in the set, one whose channel runs another, one before and one at its last granule, one whose source no page maps, one whose gang is to be saved. -/
theorem test_meets_EngineJobs_steps :
    (let s := engine [job .posted 0]; s.job? 5 = some (job .posted 0) ∧ s.jobCanStart (job .posted 0) = true ∧ (job .posted 0).card.kind = 0)
    ∧ (let j := { job .posted 0 with edges := [6] }
     let s := engine [{ job .running 0 with id := 6, card := { cardOf cardBytes with kind := 1 } }, j]
     s.job? 5 = some j ∧ ∃ x ∈ s.jobs, x.id ∈ j.edges)
    ∧ (let s := engine [{ job .running 0 with id := 6 }, job .posted 0]
     s.job? 5 = some (job .posted 0) ∧ ∃ x ∈ s.jobs, (job .posted 0).card.kind = 0 ∧ x.card.kind = 0 ∧ x.core = (job .posted 0).core
      ∧ x.card.chan = (job .posted 0).card.chan ∧ x.id ≠ (job .posted 0).id ∧ x.st = .running)
    ∧ (let s := engine [job .running 0]
     s.job? 5 = some (job .running 0) ∧ (job .running 0).done + (job .running 0).card.granule < (job .running 0).card.stream
      ∧ isOk (granuleWrites s (job .running 0) (job .running 0).card.granule) = true)
    ∧ (let s := engine [job .running 256]
     let j := job .running 256
     s.job? 5 = some j ∧ (s.wg? j.gid j.lw).isSome = true ∧ (∀ w ∈ s.wgs, memWf w.spad = true) ∧ j.done < j.card.stream ∧ j.card.stream ≤ j.done + j.card.granule
      ∧ isOk (granuleWrites s j (j.card.stream - j.done)) = true)
    ∧ (let j := { job .running 256 with card := { cardOf cardBytes with flags := 0, ra := 2 ^ 40 } }
     let s := engine [j]
     s.job? 5 = some j ∧ j.done < j.card.stream ∧ isOk (granuleWrites s j (min j.card.granule (j.card.stream - j.done))) = false)
    ∧ (let j := job .posted 0
     let s := withWg (engine [j]) fun w => { w with stop := some .host }
     s.job? 5 = some j ∧ s.gangStop j.gid (gangIdx (s.desc j.gid) j.lw) ≠ none ∧ ∀ w ∈ s.wgs, memWf w.spad = true) := by decide +kernel

/-- EngineJobs: granules of a GATHER and a SCATTER of words, of a REDUCE of 256 bytes, and of a COPY; regions that end with the address space and with the scratchpad. -/
theorem test_meets_EngineJobs_granules :
    ([(0, 257, 257), (1, 256, 256), (2, 256, 256), (3, 256, 256)].map fun x => (let j := { job .running 0 with
        card := { cardOf cardBytes with kind := x.1, flags := 7, opx := if x.1 = 3 then 0 else 2, ra := 0x2000, ralen := x.2.1, rb := 0x4000, rblen := 256, w := 0x3000, wlen := x.2.2 } }
      let s := engine [j]
      let d := s.desc j.gid
      (cardRegion d j.lw j.card 0).isSome && (cardRegion d j.lw j.card 1).isSome && (cardRegion d j.lw j.card 2).isSome && isOk (granuleWrites s j 256))) = [true, true, true, true]
    ∧ (2 ^ 57 - 8 + 8 ≤ 2 ^ 57 ∧ 0xFFF8 < 2 ^ 21 ∧ 0xFFF8 + 8 ≤ (s0.desc 0).spwg * 4096) := by decide +kernel

/-- OrderedTasks: a spawn at the task's own timestamp, the sixteenth; the head at TDONE, and a task behind another; no task. -/
theorem test_meets_OrderedTasks_words :
    (let s := tasked 0x02000000 5 15 []
     readyFor s 0 = true ∧ (s.wg? (grp s).gid (grp s).lw).isSome = true ∧ (grp s).k = 0
      ∧ (s.taskOf (grp s)).map (fun t => decide (t.ts.toNat ≤ (rd s (grp s) 1).toNat % 2 ^ 48 ∧ t.spawns.length < 16)) = some true)
    ∧ (let s := tasked 0x02000000 5 0 [{ ts := 5, seq := 1, arg := 0 }]
     readyFor s 0 = true ∧ (grp s).k = 0 ∧ quietB (grp s) = true ∧ (grp s).mq = [] ∧ s.jobs = [] ∧ (s.wgGroups (grp s).gid (grp s).lw).length = 1
      ∧ (s.taskOf (grp s)).map (s.isHead (grp s).gid) = some true ∧ s.groups.length = 1)
    ∧ (let s := tasked 0x02000000 5 0 [{ ts := 4, seq := 1, arg := 0 }]
     readyFor s 0 = true ∧ (grp s).k = 0 ∧ quietB (grp s) = true ∧ (grp s).mq = [] ∧ s.jobs = [] ∧ (s.taskOf (grp s)).map (s.isHead (grp s).gid) = some false)
    ∧ s0.taskOf (grp s0) = none ∧ stillB (grp s0) = true := by decide +kernel
/-- OrderedTasks: a commit of the head at TDONE, its buffered stores, and a head that a request to stop holds. -/
theorem test_meets_OrderedTasks_commit :
    (let s := tasked 0xFE520000 5 0 []
     readyFor { s with cur := (grp s).slot } 0 = true ∧ (grp s).slot = 0 ∧ (grp s).k = 0 ∧ quietB (grp s) = true ∧ (grp s).mq = [] ∧ s.jobs = []
      ∧ (s.wgGroups (grp s).gid (grp s).lw).length = 1 ∧ (s.taskOf (grp s)).map (s.isHead (grp s).gid) = some true ∧ s.frozen (grp s) = false
      ∧ (grp s).mid = none ∧ (grp s).entryWaits s.fclk = false ∧ breaks s (grp s) false (grp s).spc.toNat = false
      ∧ fetchScalar s (grp s) (grp s).spc.toNat = .word 0xFE520000 ∧ decodeScalar 0xFE520000 = some .tdone ∧ s.groups.length = 1)
    ∧ (let s := withWg (tasked 0x02000000 5 2 []) fun w => { w with task := w.task.map fun t => { t with buf := [(0x50000, 7), (0x50001, 8), (2 ^ 57 - 1, 9)] } }
     (s.taskOf (grp s)).map (fun t => decide ((t.buf.map Prod.fst).Pairwise (· < ·) ∧ (∀ c ∈ t.buf, c.1 < 2 ^ 57) ∧ (∀ w ∈ s.wgs, w.task = some t)
        ∧ ∀ r ∈ bufRuns t.buf, bellOf s r.1 r.2.length = none)) = some true
      ∧ memWf s.mem = true ∧ (grp s).pins = Vector.replicate 8 0 ∧ s.saved = [] ∧ s.resuming = [] ∧ (s.grid? (grp s).gid).isSome = true)
    ∧ (let s := withWg { tasked 0xFE520000 5 0 [] with fclk := 1 } fun w => { w with stop := some .host }
     (s.groups.find? (fun g => g.gid == 0 && g.k == 0 && ((s.taskOf g).map (s.isHead 0)).getD false)).isSome = true ∧ s.groups.length = 1
      ∧ s.frozen (grp s) = true) := by decide +kernel

/-- A context with its window table at 0x70000, whose window 255 has these flags, a base of 0x50000 and a length of 0x100. -/
def windowed (flags : Nat) : State :=
  let entry := leBytes 8 0x50000 ++ leBytes 8 0x100 ++ leBytes 3 0 ++ leBytes 1 flags
  let desc := leBytes 8 0x40100 ++ leBytes 4 4 ++ leBytes 4 255 ++ leBytes 8 0x20
  withMem (withMem (withCtx (scalarAt 0x02000000 [(1, 0x40000), (2, 255), (3, 2)]) fun c => { c with wint := 0x70000 }) (0x70000 + 32 * 255) entry) 0x40000 desc
def counts (s : State) (wc we : BitVec 48) : State := s.setWin { ctx := 0, win := 255, wcnt := wc, werr := we }
/-- PutsAndWindows: the 64th PUT through an import window; WCWAIT at and below its count. -/
theorem test_meets_PutsAndWindows_words :
    (let s := withG (windowed 5) fun g => { g with puts := 63 }
     let v := (s.allAwaited (grp s)).1.performed (grp s)
     readyFor s 0 = true ∧ accessB (grp s) = true ∧ s.taskOf (grp s) = none ∧ okIs (checkPhys v (grp s) needRead 32 (rd s (grp s) 1).toNat) 0x40000
      ∧ isOk (readRange v (s.ctxOfGrid (grp s).gid) none (v.scalarReader (grp s)) 0 (rd s (grp s) 1).toNat 32) = true
      ∧ (readRange v (s.ctxOfGrid (grp s).gid) none (v.scalarReader (grp s)) 0 (rd s (grp s) 1).toNat 32).toOption.map (fun x => (x.err, (putDesc x.bytes).map fun d =>
          (d.src, d.len, d.win, winImport s (s.gctx (grp s)) d.win))) = some (0, some (0x40100, 4, 255, true))
      ∧ (((readRange v (s.ctxOfGrid (grp s).gid) none (v.scalarReader (grp s)) 0 (rd s (grp s) 1).toNat 32).toOption.bind fun x =>
        (readRange v (s.ctxOfGrid (grp s).gid) none ((v.scalarSaw (grp s) x.seen).1.scalarReader (grp s)) 0x40 0x40100 4).toOption).map fun y => y.err) = some 0 ∧ (grp s).puts < 64)
    ∧ (let s := { withG (windowed 5) (fun g => { g with puts := 63 }) with eccBad := [0x40101] }
     let v := (s.allAwaited (grp s)).1.performed (grp s)
     (((readRange v (s.ctxOfGrid (grp s).gid) none (v.scalarReader (grp s)) 0 (rd s (grp s) 1).toNat 32).toOption.bind fun x =>
        (readRange v (s.ctxOfGrid (grp s).gid) none ((v.scalarSaw (grp s) x.seen).1.scalarReader (grp s)) 0x40 0x40100 4).toOption).map fun y => y.err) = some 1)
    ∧ (let s := counts (windowed 5) 2 0
     readyFor s 0 = true ∧ winValid s (s.gctx (grp s)) ((rd s (grp s) 2).toNat % 256) = true
      ∧ (rd s (grp s) 3).toNat % 2 ^ 48 ≤ (s.svc.win (s.ctxOfGrid (grp s).gid) ((rd s (grp s) 2).toNat % 256)).wcnt.toNat
      ∧ (s.svc.win (s.ctxOfGrid (grp s).gid) ((rd s (grp s) 2).toNat % 256)).werr = 0)
    ∧ (let s := counts (windowed 5) 1 0
     readyFor s 0 = true ∧ winValid s (s.gctx (grp s)) ((rd s (grp s) 2).toNat % 256) = true
      ∧ (s.svc.win (s.ctxOfGrid (grp s).gid) ((rd s (grp s) 2).toNat % 256)).wcnt.toNat + (s.svc.win (s.ctxOfGrid (grp s).gid) ((rd s (grp s) 2).toNat % 256)).werr.toNat
        < (rd s (grp s) 3).toNat % 2 ^ 48) := by decide +kernel
/-- PutsAndWindows: WCWAIT over one PUT that is done and one that is refused. -/
theorem test_meets_PutsAndWindows_refused : (let s := counts (windowed 5) 1 1
     let x := s.svc.win (s.ctxOfGrid (grp s).gid) ((rd s (grp s) 2).toNat % 256)
     readyFor s 0 = true ∧ stillB (grp s) = true ∧ s.taskOf (grp s) = none ∧ winValid s (s.gctx (grp s)) ((rd s (grp s) 2).toNat % 256) = true
      ∧ (rd s (grp s) 3).toNat % 2 ^ 48 ≤ x.wcnt.toNat + x.werr.toNat ∧ x.werr ≠ 0) := by decide +kernel
/-- PutsAndWindows: a PUT to the end of an export window, one past it, one to a window that is no export window; an outstanding PUT of the group before and after 1 ms. -/
theorem test_meets_PutsAndWindows_steps :
    (let s := { windowed 3 with svc := { (windowed 3).svc with fwok := true } }
     s.svc.fwok = true ∧ winExport s (s.svc.ctx 0) 255 = true ∧ 0xFC + 4 ≤ memNat s.mem (winEntry (s.svc.ctx 0) 255 + 8) 8
      ∧ isOk (s.translateRange 0 needWrite (memNat s.mem (winEntry (s.svc.ctx 0) 255) 8 + 0xFC) 4) = true
      ∧ memNat s.mem (winEntry (s.svc.ctx 0) 255 + 8) 8 < 0xFD + 4)
    ∧ winExport (windowed 5) ((windowed 5).svc.ctx 0) 255 = false
    ∧ (let r : PutRec := { id := 7, ctx := 0, win := 255, slot := 0, gid := 0, lg := 0, peer := 1, pwin := 2, off := 0, data := [1], sent := 5 }
       let s := { s0 with us := 1005, svc := { s0.svc with puts := [r] } }
       (s.svc.puts.find? (fun x => x.id == 7)) = some r ∧ (s.group? r.slot).isSome = true ∧ (grp s).gid = r.gid ∧ s.lg (grp s) = r.lg ∧ r.sent + 1000 ≤ s.us
        ∧ ∀ x ∈ s.svc.puts, x.id = 7 → { s with us := 1004 }.us < x.sent + 1000) := by decide +kernel
-- ### Lane words

/-- Whether the group in slot 0 meets `AtLane`. -/
def laneB (s : State) (h : LaneCtl) (whole : Bool) (regs : List RName) : Bool :=
  (s.group? 0).isSome && s.cur == 0 && (List.finRange 12).all (fun k => !h.wait.getLsbD k.val || (grp s).ctrs[k] == 0)
    && (List.finRange 12).all (fun k => h.setc.toNat != k.val || (grp s).ctrs[k] != 255) && (grp s).last.isNone && !(grp s).parked
    && (grp s).flights.isEmpty && (grp s).recipes.isEmpty && (grp s).regs.all (fun r => r.st != .ember) && (grp s).deferred.isEmpty && (grp s).mid.isNone
    && (whole || onLanes s (grp s) h whole != 0) && regs.all (grp s).inAllot
theorem laneOk {s : State} {h : LaneCtl} {whole : Bool} {regs : List RName} (hb : laneB s h whole regs = true) : AtLane s (grp s) h whole regs := by
  simp only [laneB, Bool.and_eq_true, Bool.or_eq_true, Bool.not_eq_true', beq_iff_eq, bne_iff_ne, ne_eq, List.all_eq_true, List.isEmpty_iff, List.mem_finRange,
    true_implies, Option.isNone_iff_eq_none] at hb
  obtain ⟨⟨⟨⟨⟨⟨⟨⟨⟨⟨⟨⟨h1, h2⟩, h3⟩, h4⟩, h0⟩, h5⟩, h6⟩, h7⟩, h8⟩, h9⟩, h12⟩, h10⟩, h11⟩ := hb
  exact ⟨h2 ▸ hereOf h1, ⟨fun k hk => (h3 k).resolve_left (by simp [hk]), fun k hk => (h4 k).resolve_left (by simp [hk]), fun t c ht => (by rw [h0] at ht; cases ht), h5⟩, ⟨h6, h7, h8, h9, h12⟩, h10, h11⟩

/-- A group at a lane word, s1 = 0x40000, s2 = 0xF000, whose EXM is `exm`. -/
def laneWith (exm : Nat) : State := withG (laneAt 0 [] [] [(1, 0x40000), (2, 0xF000)]) fun g => { g with exm := BitVec.ofNat 32 exm }
def l0 : State := laneWith 0xFFFFFFFF
/-- AtLane: every register up to v127 and a127, all lanes; a word that waits for c0 and c11 and counts in c3 with one lane of mask m1; a word of the whole group
with no lane. LaneIntegerArithmetic, LaneIntegerLogic, LaneComparesAndMasks, LaneFloatAndSpecialFunctions, LanePackedAndConversions, CrossLaneWords,
FencesAndPrefetches, DualWord. -/
theorem test_meets_lane_words : AtLane l0 (grp l0) c0 false [vname 0, vname 127, aname 127]
    ∧ (let s := withG l0 fun g => { g with masks := g.masks.set 1 0x80000000, ctrs := (Vector.replicate 12 7).set 0 0 |>.set 11 0 |>.set 3 254 }
       AtLane s (grp s) (c9 1) false [vname 127])
    ∧ AtLane (laneWith 0) (grp (laneWith 0)) c0 true [] ∧ (l0.wg? (grp l0).gid (grp l0).lw).isSome = true ∧ (grp l0).exm ≠ 0 ∧ l0.taskOf (grp l0) = none :=
  ⟨laneOk (by decide +kernel), laneOk (by decide +kernel), laneOk (by decide +kernel), by decide +kernel⟩
/-- CrossLaneWords: the lowest of lanes 4 and 31, and a tile of 32. -/
theorem test_meets_CrossLaneWords : (0x80000010 : W32)[(4 : Fin 32)] = true ∧ (∀ j : Fin 32, j < 4 → (0x80000010 : W32)[j] = false) ∧ 5 ∈ [1, 2, 3, 4, 5] ∧ 31 < 32 := by decide
/-- A word on its way on a counter. -/
def flight (id : Nat) (c : BitVec 4) (e : List Eff) : Flight := { id := id, ctr := c, cls := .inOrder, lat := 0, age := 0, ready := true, effs := e }
/-- A FENCE of an ORD on c10. -/
def fenceOn (o : BitVec 3) : Flight := { flight 6 10 [] with cls := memWord false true o }
/-- Source: 13 R292. A FENCE.acq waits for a load and not for a store; a FENCE.rel waits for the store; and no memory word issues behind a FENCE.acq. -/
theorem test_fence_orders :
    (let go (o : BitVec 3) (load : Bool) : Nat :=
      let s := withG l0 fun g => { g with flights := [{ flight 5 11 [] with cls := memWord load false 0 }, fenceOn o] }
      (match exec (.wordCompletion 0 6) s with
       | .next u => (grp u).flights.length
       | .fault _ | .refused _ => 9)
     go 1 true = 2 ∧ go 1 false = 1 ∧ go 2 false = 2)
    ∧ (let s := withG l0 fun g => { g with flights := [fenceOn 1] }
       (grp s).acquiring = true ∧ (match exec (.pref c0 (mop 0 0 0)) s with
       | .next u => u.free + (grp u).nextId
       | .fault _ | .refused _ => 9) = s.free + (grp s).nextId) := by decide +kernel
/-- WordCompletion: an in-order word on c11 with an earlier one on c10, the later of two on c11, and a FENCE.acq behind a load, a FENCE.rel behind an MMQ, a word in the FCLK of its issue and a WSW one FCLK after it. -/
theorem test_meets_WordCompletion :
    (let f := flight 6 11 [.reg 255 1 (Vector.replicate 32 9)]
     let s := withG l0 fun g => { g with flights := [flight 5 10 [], f] }
     (s.group? 0).isSome = true ∧ (grp s).flights.find? (fun x => x.id == 6) = some f ∧ f.ready = true ∧ (grp s).last = none
      ∧ (∀ x ∈ (grp s).flights, x.cls = .inOrder → x.ctr = f.ctr → f.id ≤ x.id)
      ∧ (∀ x ∈ (grp s).flights, x.id < f.id → f.cls.after x.cls = false) ∧ ((grp s).regs[255]?).isSome = true)
    ∧ (let s := withG { l0 with fclk := 22 } fun g => { g with flights := [flight 6 11 [.ws 20]] }
     (s.group? 0).isSome = true ∧ (grp s).flights.find? (fun x => x.id == 6) = some (flight 6 11 [.ws 20]) ∧ 20 + 2 ≤ s.fclk)
    ∧ (let s := withG { l0 with fclk := 21 } fun g => { g with flights := [flight 6 11 [.ws 20]], nextId := 7, last := some (21, 11) }
     (grp s).flights.find? (fun x => x.id == 6) = some (flight 6 11 [.ws 20]) ∧ (flight 6 11 [.ws 20]).id + 1 = (grp s).nextId ∧ (grp s).last = some (s.fclk, 11)
      ∧ Eff.ws 20 ∈ (flight 6 11 [.ws 20]).effs ∧ s.fclk < 20 + 2)
    ∧ (let s := withG l0 fun g => { g with flights := [flight 5 11 [], flight 6 11 []] }
     (grp s).flights.find? (fun x => x.id == 6) = some (flight 6 11 []) ∧ flight 5 11 [] ∈ (grp s).flights ∧ (flight 5 11 []).id < (flight 6 11 []).id)
    ∧ (let s := withG l0 fun g => { g with flights := [{ flight 5 11 [] with cls := memWord true false 0 }, fenceOn 1] }
     (grp s).flights.find? (fun x => x.id == 6) = some (fenceOn 1) ∧ (fenceOn 1).cls = memWord false true 1)
    ∧ (let s := withG l0 fun g => { g with flights := [{ flight 5 11 [] with cls := .mmq }, fenceOn 2] }
     (grp s).flights.find? (fun x => x.id == 6) = some (fenceOn 2) ∧ (fenceOn 2).cls = memWord false true 2) := by decide +kernel
/-- An addition of a register above v127. -/
def addHigh : Instr := .iadd c0 (v 1) (v 2) (.v (v 255)) 0
/-- LaneWordChecks: a counter of WAIT that is not zero, a full counter, a distance that is one FCLK short; no lane; an error left on a counter of WAIT; the first register past the boundary, also of a
word of the whole group; a distance just met. -/
theorem test_meets_LaneWordChecks :
    (let s := withG l0 fun g => { g with ctrs := g.ctrs.set 11 1 |>.set 3 255, last := some (0, 15) }
     (s.group? s.cur).isSome = true ∧ illegalNow s (grp s) (.mwait (c9 0)) = false ∧ (grp s).trial = none ∧ laneCtl (.mwait (c9 0)) = some (c9 0)
      ∧ (c9 0).wait.getLsbD 11 = true ∧ (grp s).ctrs[11] ≠ 0 ∧ (c9 0).setc.toNat = 3 ∧ (grp s).ctrs[3] = 255
      ∧ s.fclk < 0 + gap (s.clusterAt ((grp s).slot / 192)).ratio (c9 0).dist.toNat)
    ∧ (let s := laneWith 0
     (s.group? s.cur).isSome = true ∧ laneCtl addHigh = some c0 ∧ wholeWord addHigh = false ∧ illegalNow s (grp s) addHigh = false ∧ (grp s).trial = none ∧ (grp s).mq.length < 8
      ∧ onLanes s (grp s) c0 false = 0 ∧ laneB s c0 true [] = true)
    ∧ (let d : Deferred := { ctr := 11, addr := 5, detail := 2 }
     let s := withG l0 fun g => { g with deferred := [d] }
     let i : Instr := .iadd (c9 0) (v 1) (v 2) (.v (v 3)) 0
     laneCtl i = some (c9 0) ∧ illegalNow s (grp s) i = false ∧ stillB (grp s) = true ∧ (grp s).deferred = [d] ∧ d.ctr.toNat < 12 ∧ (c9 0).wait.getLsbD d.ctr.toNat = true
      ∧ (grp s).ctrs = Vector.replicate 12 0 ∧ (grp s).last = none ∧ (grp s).parked = false)
    ∧ (illegalNow l0 (grp l0) addHigh = false ∧ stillB (grp l0) = true ∧ laneB l0 c0 false [] = true ∧ onLanes l0 (grp l0) c0 false ≠ 0
      ∧ (fieldRegs l0 (grp l0) addHigh).find? (fun r => !(grp l0).inAllot r) = some (vname 255))
    ∧ (wholeWord (.mzero c0 120) = true ∧ laneB (laneWith 0) c0 true [] = true ∧ illegalNow l0 (grp l0) (.mzero c0 120) = false
      ∧ ((fieldRegs l0 (grp l0) (.mzero c0 120)).find? (fun r => !(grp l0).inAllot r)).isSome = true) := by decide +kernel
theorem test_meets_LaneWordChecks_distance : (let s := withG { l0 with fclk := 5 } fun g => { g with last := some (0, 15) }
    ∀ t c, (grp s).last = some (t, c) → t + gap (s.clusterAt ((grp s).slot / 192)).ratio (c9 0).dist.toNat ≤ s.fclk) := by
  rintro s t c h
  have : (some ((0 : Nat), (15 : BitVec 4)) : Option (Nat × BitVec 4)) = some (t, c) := h
  cases this
  decide +kernel

/-- Whether the places of the active lanes are those. -/
def placedB (s : State) (g : Group) (h : LaneCtl) (m : MemOp) (check : Nat → Except Nat Place) (pls : List (Nat × Place)) : Bool :=
  pls.map Prod.fst == (List.range 32).filter (fun l => (onLanes s g h false).getLsbD l) && pls.all fun x => okIs (check (laneEa s g m x.1)) x.2
theorem placedOf {s : State} {g : Group} {h : LaneCtl} {m : MemOp} {check : Nat → Except Nat Place} {pls : List (Nat × Place)}
    (hb : placedB s g h m check pls = true) : Placed s g h m check pls := by
  simp only [placedB, Bool.and_eq_true, beq_iff_eq, List.all_eq_true] at hb
  exact ⟨hb.1, fun x hx => okIsOf (hb.2 x hx)⟩
/-- A memory word of that type with a lane offset in v0 or without. -/
def acc (type : BitVec 4) (voff : Bool) (a : BitVec 8) : MemOp := { mop 0 4 type with voff := voff, a := a }
/-- A group of lanes 0 and 31 whose offsets are 0 and 16 (v0). -/
def twoLanes : State := withG (laneWith 0x80000001) fun g => { g with regs := g.regs.set 0 { st := .value, val := (Vector.replicate 32 0).set 31 16 } }
/-- LaneLoads: sixteen bytes a lane into v124-v127, from memory and from the scratchpad up to its last byte; rows of 32 bytes, and of 64. -/
theorem test_meets_LaneLoads :
    AtLane twoLanes (grp twoLanes) c0 false (vgroup 124 (typeRegs 6) ++ memRegs (acc 6 true 1))
    ∧ Placed twoLanes (grp twoLanes) c0 (acc 6 true 1) (checkGlob twoLanes (grp twoLanes) needRead (typeSize 6)) [(0, .glob 0x40000), (31, .glob 0x40010)]
    ∧ Readable twoLanes (typeSize 6) [(0, .glob 0x40000), (31, .glob 0x40010)]
    ∧ Placed twoLanes (grp twoLanes) c0 { acc 6 true 2 with disp := 0xFE0 } (checkSpad twoLanes (grp twoLanes) (typeSize 6)) [(0, .spad 0 0xFFE0), (31, .spad 0 0xFFF0)]
    ∧ AtLane twoLanes (grp twoLanes) c0 false (vgroup 112 (8 * 2) ++ memRegs (acc 1 false 1))
    ∧ Placed twoLanes (grp twoLanes) c0 (acc 1 false 1) (checkGlob twoLanes (grp twoLanes) needRead (32 * 2)) [(0, .glob 0x40000), (31, .glob 0x40000)]
    ∧ Placed twoLanes (grp twoLanes) c0 (acc 0 false 1) (checkGlob twoLanes (grp twoLanes) needRead (32 * 1)) [(0, .glob 0x40000), (31, .glob 0x40000)]
    ∧ (twoLanes.taskOf (grp twoLanes) = none ∧ ∀ k, k < 16 → errOf twoLanes (0x40010 + k) 1 = 0) := by
  refine ⟨laneOk (by decide +kernel), placedOf (by decide +kernel), ?_, placedOf (by decide +kernel), laneOk (by decide +kernel), placedOf (by decide +kernel),
    placedOf (by decide +kernel), by decide +kernel⟩
  rintro x hx p hp
  simp only [List.mem_cons, List.not_mem_nil, or_false] at hx
  obtain rfl | rfl := hx <;> cases hp <;> decide +kernel
/-- LaneLoads: a scratchpad of the lane's own core that nothing has written. -/
theorem test_meets_LaneLoads_own : (twoLanes.wg? (grp twoLanes).gid 0).map (fun w => w.core) = some ((grp twoLanes).slot / 48)
    ∧ ((Place.spad 0 0xFFF0).locs (grp twoLanes) 16).all (fun x => (twoLanes.order.versions x).isEmpty) = true := by decide +kernel
/-- One lane of a word whose address is the last sixteen bytes of the doorbell page. -/
def ringing : State :=
  let s := withG (laneWith 0x80000000) fun g => { g with sregs := g.sregs.set 1 0x17FFF0 }
  { s with svc := { s.svc with dbbase := 0x100000 } }
/-- LaneStores: two doorbells of one lane; two lanes that store sixteen bytes side by side, and two that store to one place; the scratchpad. -/
theorem test_meets_LaneStores :
    AtLane twoLanes (grp twoLanes) c0 false (vgroup 124 (typeRegs 6) ++ memRegs (acc 6 true 1))
    ∧ Placed twoLanes (grp twoLanes) c0 (acc 6 true 1) (checkGlob twoLanes (grp twoLanes) needWrite (typeSize 6)) [(0, .glob 0x40000), (31, .glob 0x40010)]
    ∧ Placed twoLanes (grp twoLanes) c0 (acc 6 false 1) (checkGlob twoLanes (grp twoLanes) needWrite (typeSize 6)) [(0, .glob 0x40000), (31, .glob 0x40000)]
    ∧ Placed twoLanes (grp twoLanes) c0 { acc 6 true 2 with disp := 0xFE0 } (checkSpad twoLanes (grp twoLanes) (typeSize 6)) [(0, .spad 0 0xFFE0), (31, .spad 0 0xFFF0)]
    ∧ (twoLanes.memOk ∧ twoLanes.taskOf (grp twoLanes) = none ∧ ∀ w ∈ twoLanes.wgs, memWf w.spad = true)
    ∧ (∀ q, q ∈ [0x40000, 0x40008, 0x40010, 0x40018] → linkUp twoLanes q = true ∧ bellOf twoLanes q (min (typeSize 6) 8) = none)
    ∧ ringing.taskOf (grp ringing) = none ∧ ringing.svc.dbbase ≠ 0 ∧ isHost 0x17FFF0 = false ∧ 0x17FFF0 = ringing.svc.dbbase + 8 * 65534
    ∧ Placed ringing (grp ringing) c0 (acc 6 false 1) (checkGlob ringing (grp ringing) needWrite (typeSize 6)) [(31, .glob 0x17FFF0)]
    ∧ AtLane ringing (grp ringing) c0 false (vgroup 124 (typeRegs 6) ++ memRegs (acc 6 false 1)) := by
  refine ⟨laneOk (by decide +kernel), placedOf (by decide +kernel), placedOf (by decide +kernel), placedOf (by decide +kernel), ?_, by decide +kernel, by decide +kernel,
    by decide +kernel, by decide +kernel, by decide +kernel, placedOf (by decide +kernel), laneOk (by decide +kernel)⟩
  unfold State.memOk
  decide +kernel
/-- A word of sixteen bytes a lane whose accesses are still to be performed, in memory at 0x40000 and 0x40010. -/
def leftOver (load : Bool) : Late :=
  { id := 5, ctr := 3, load := load, d := 124, run := some run1, word := Mid.start (acc 6 true 1) false 0x80000001
      [{ lane := 0, ea := 0x40000, place := .glob 0x40000, data := [1, 2, 3, 4] }, { lane := 31, ea := 0x40010, place := .glob 0x40010, data := [5, 6, 7, 8] }] }
/-- LaneLoads and LaneStores: a relaxed load on a counter that may issue with its accesses left; a load and a store so issued. StepRunsDecodedInstruction: a word that may pass
them, and one that may not. -/
theorem test_meets_LaneLoads_later :
    (AtLane twoLanes (grp twoLanes) { c0 with setc := 3 } false (vgroup 124 (typeRegs 6) ++ memRegs (acc 6 true 1)) ∧ (acc 6 true 1).ord = 0
      ∧ ({ c0 with setc := 3 } : LaneCtl).setc.toNat < 12 ∧ (grp twoLanes).late = [])
    ∧ Placed twoLanes (grp twoLanes) { c0 with setc := 3 } (acc 6 true 1) (checkGlob twoLanes (grp twoLanes) needRead (typeSize 6)) [(0, .glob 0x40000), (31, .glob 0x40010)]
    ∧ ([true, false].map fun b => (let s := withG twoLanes fun g => { g with late := [leftOver b] }
        (s.group? (grp s).slot).isSome && (grp s).late.find? (fun y => y.id == (leftOver b).id) == some (leftOver b) && (leftOver b).load == b && !(leftOver b).word.atom && (leftOver b).word.done == 0
          && s.taskOf (grp s) == none && (leftOver b).word.size == 16
          && (leftOver b).word.accs.all (fun a => a.data.length == typeRegs (leftOver b).word.op.type && match a.place with
            | .glob p => linkUp s p && bellOf s p (min 16 8) == none && (List.range 16).all fun k => errOf s (p + k) 1 == 0
            | .spad _ _ => false))) = [true, true]
    ∧ (let s := withG twoLanes fun g => { g with late := [leftOver false] }
       (grp s).late ≠ [] ∧ s.passesLate (grp s) (.mwait c0) = true ∧ s.passesLate (grp s) (.fence c0 1 4) = false)
    ∧ ((leftOver true).word.accs.map LaneAcc.lane).Nodup ∧ (leftOver false).word.accs.Pairwise (fun a b => a.lane < b.lane) :=
  ⟨⟨laneOk (by decide +kernel), rfl, by decide, rfl⟩, placedOf (by decide +kernel), by decide +kernel, by decide +kernel, by decide +kernel, by decide +kernel⟩
/-- Source: 17 R371. A load whose accesses are left takes, when they are performed, what memory holds then, and is complete. -/
theorem test_left_over_load : (let s := withMem (withG twoLanes fun g => { g with late := [leftOver true], flights := [{ flight 5 3 [] with cls := memWord true false 0 }] }) 0x40010 [7]
    (match performTurn 0 5 s with
     | .next u => ((grp u).late.isEmpty, (grp u).flights.map fun f => f.effs.map fun e => match e with
       | .reg p _ w => (p, w.getD 31 0)
       | _ => (0, 0))
     | .fault _ | .refused _ => (false, []))) = (true, [[(124, 7), (125, 0), (126, 0), (127, 0)]]) := by decide +kernel
/-- A task with a store of its own, which another may join. -/
def buffering (w : Nat) (exm : Nat) : State :=
  withG (withWg (tasked w 5 0 []) fun w => { w with task := w.task.map fun t => { t with buf := [(0x50000, 7)] } }) fun g =>
    { g with exm := BitVec.ofNat 32 exm, sregs := g.sregs.set 1 0x40000 }
/-- OrderedTasks and LaneStores: an SST of eight bytes, an ST of two lanes and an STS in a task that has room. -/
theorem test_meets_OrderedTasks_stores :
    (let s := buffering 0x02000000 0xFFFFFFFF
     readyFor s 0 = true ∧ (s.taskOf (grp s)).map (fun k => (k.direct, decide ((bufLines k.buf).length + 2 ≤ 64))) = some (false, true) ∧ linkUp s 0x40000 = true
      ∧ okIs (checkPhys s (grp s) needWrite (2 ^ (3 : BitVec 2).toNat) (rd s (grp s) 1 + (0 : BitVec 9).signExtend 64).toNat) 0x40000
      ∧ s.specLines (coreDie ((grp s).slot / 48)) + 2 ≤ 2048)
    ∧ (let s := withWg twoLanes fun w => { w with task := some { ts := 5, seq := 0, arg := 0, spawns := [], buf := [], reads := [], direct := false, dies := [] } }
     (s.taskOf (grp s)).map (fun k => (k.direct, decide ((bufLines k.buf).length + 2 * 2 ≤ 64))) = some (false, true) ∧ s.specLines (coreDie ((grp s).slot / 48)) + 2 * 2 ≤ 2048
      ∧ placedB s (grp s) c0 (acc 6 true 1) (checkGlob s (grp s) needWrite (typeSize 6)) [(0, .glob 0x40000), (31, .glob 0x40010)] = true
      ∧ laneB s c0 false (vgroup 124 (typeRegs 6) ++ memRegs (acc 6 true 1)) = true) := by decide +kernel
/-- A head whose stores go to memory. -/
def direct : Task := { ts := 5, seq := 0, arg := 0, spawns := [], buf := [], reads := [], direct := true, dies := [] }
theorem test_meets_LaneStores_task : (withWg twoLanes fun w => { w with task := some direct }).storeRoom (grp twoLanes) [] = some (withWg twoLanes fun w => { w with task := some direct }) := by
  have h : (withWg twoLanes fun w => { w with task := some direct }).taskOf (grp twoLanes) = some direct := by decide +kernel
  unfold State.storeRoom
  rw [h]
  rfl
/-- Atomics: a compare-and-swap of lane 31 in memory and at the last word of the scratchpad; a deterministic grid with an add, and with a form it refuses. -/
theorem test_meets_Atomics :
    (let s := laneWith 0x80000000
     AtLane s (grp s) c0 false (vgroup 127 (atomOutRegs 12) ++ memRegs (acc 12 false 1) ++ vgroup 126 (atomDataRegs 12)))
    ∧ (let s := laneWith 0x80000000
       checkGlob s (grp s) needAtomic (atomSize 12) (laneEa s (grp s) (acc 12 false 1) 31) = .ok (.glob 0x40000)
        ∧ checkSpad s (grp s) (atomSize 12) (laneEa s (grp s) { acc 12 false 2 with disp := 0xFFC } 31) = .ok (.spad 0 0xFFFC))
    ∧ (let s := laneWith 0x80000000
       laneList (onLanes s (grp s) c0 false) = [31] ∧ (∀ k, k < 4 → errOf s (0x40000 + k) 1 = 0) ∧ errOf s 0x40000 4 = 0 ∧ isHost 0x40000 = false
        ∧ bellOf s 0x40000 (min (atomSize 12) 8) = none ∧ linkUp s 0x40000 = true ∧ s.det (grp s) = false ∧ s.taskOf (grp s) = none ∧ ∀ w ∈ s.wgs, memWf w.spad = true)
    ∧ (let s := withD l0 fun d => { d with desc := { d.desc with mode := 4 } }
       s.det (grp s) = true ∧ ((9 : BitVec 4) ≠ 2 ∧ (9 : BitVec 4).toNat < 10) ∧ (10 ≤ (10 : BitVec 4).toNat) ∧ laneB s c0 false [] = true ∧ stillB (grp s) = true)
    ∧ (let s := tasked 0 5 0 []; s.taskOf (grp s) ≠ none ∧ stillB (grp s) = true ∧ (s.group? s.cur).isSome = true) :=
  ⟨laneOk (by decide +kernel), ⟨okIsOf (by decide +kernel), okIsOf (by decide +kernel)⟩, by decide +kernel, by decide +kernel, by decide +kernel⟩
/-- FencesAndPrefetches: a word of memory, one behind a FENCE.acq, a store that releases behind an MMQ, a message that a fence takes, a fence in a task, LDK outside a slice. -/
theorem test_meets_FencesAndPrefetches : laneB l0 c0 false (memRegs (acc 4 true 1)) = true ∧ laneB l0 c0 true [] = true ∧ stillB (grp l0) = true
    ∧ l0.taskOf (grp l0) = none ∧ (2 ≤ (4 : BitVec 3).toNat ∧ (4 : BitVec 3).toNat ≤ 4)
    ∧ (let s := withG l0 fun g => { g with acqv := [(31, true, { view := View.fresh, scope := 8, src := unitThread })],
                                           runq := [{ run1 with heard := [(true, { view := View.fresh, scope := 8, src := unitThread })] }] }
       (∀ x ∈ (grp s).acqv, (x.1 = 31 ∨ x.1 = 32) ∧ takesMsg (s.laneThread (grp s) 31) (8 : BitVec 4).toNat x.2.1 x.2.2 = true)
        ∧ (∀ r ∈ (grp s).runq, ∀ x ∈ r.heard, takesMsg (s.laneThread (grp s) 31) (8 : BitVec 4).toNat x.1 x.2 = true) ∧ (11 : BitVec 4).toNat < 12)
    ∧ (let s := withG l0 fun g => { g with flights := [fenceOn 1] }
       fenceOn 1 ∈ (grp s).flights ∧ (s.group? s.cur).isSome = true ∧ s.taskOf (grp s) = none ∧ s.det (grp s) = false)
    ∧ (let s := withG l0 fun g => { g with flights := [flying .mmq] }
       flying .mmq ∈ (grp s).flights ∧ (s.group? s.cur).isSome = true ∧ s.taskOf (grp s) = none)
    ∧ (let s := tasked 0 5 0 []; s.taskOf (grp s) ≠ none ∧ stillB (grp s) = true ∧ (s.group? s.cur).isSome = true) := by decide +kernel
-- ### Recipes

/-- A group with the one-word slice 40 (v3 = v3 + 3, or `w`), s1 = 0x40000, s6 past the address space. -/
def sliced (w : Nat) : State := withMem (withG l0 fun g => { g with sregs := g.sregs.set 6 (BitVec.ofNat 64 (2 ^ 57)) }) 0x201E0 (leBytes 12 w)
/-- The run of the slice 40 for v127 with the input v0 in the lanes `on`. -/
def ran (s : State) (on : W32) : Option (Except (Flt × SliceRun) SliceRun) :=
  (kdefSlice s (grp s) 127 (some 0) none none 0 40).map fun x =>
    runSlice s (grp s) { on := on, scalar := slotValue x.2 (packSlots x.2 (rd s (grp s))), task := s.taskOf (grp s), salt := 0, strict := false } 127 (40 : BitVec 19).toNat x.1
      ([some 0, none, none].map fun (x : Option (BitVec 8)) => (x.map fun k => (grp s).stored k.toNat).getD (Vector.replicate 32 0))
def okRun (e : Except (Flt × SliceRun) SliceRun) : Bool :=
  match e with
  | .ok r => r.bad.isEmpty
  | .error _ => false
def rec127 (inputs : BitVec 8) : Recipe :=
  { dst := 127, slice := 40, len := 0, vin := 1, ina := inputs, inb := 0, inc := 0, nslot := 0, full := true, obj := false, tsz := 5, slots := 0, lay := [] }
/-- A group whose v127 is VALUE or EMBER under a full recipe, and whose next lane word, an IADD of v127 to itself, is queued. -/
def kept (w : Nat) (st : RegSt) : State :=
  withG (sliced w) fun g => { g with regs := g.regs.set 127 { st := st, val := Vector.replicate 32 0 }, recipes := [rec127 0],
                                     runq := [{ run1 with buf := [encodeLane (.iadd c0 (v 1) (v 127) (.v (v 127)) 0)] }] }
/-- EmberRecipes and RecipeReproducesValue: a slice that runs, one whose load is outside the address space, one whose word names nothing. -/
theorem test_meets_EmberRecipes_words :
    (let s := sliced 0x00003C0100C0C00002000003
     (ran s (onLanes s (grp s) c0 false)).map okRun = some true ∧ onLanes s (grp s) c0 false = 0xFFFFFFFF
      ∧ laneB s c0 false (vname 127 :: (kdefInputs (some 0) none none).map fun k => vname k.toNat) = true)
    ∧ (let s := sliced 0x00003C5040C18000003A4000
     (ran s (onLanes s (grp s) c0 false)).map isOk = some false ∧ stillB (grp s) = true
      ∧ laneB s c0 false (vname 127 :: (kdefInputs (some 0) none none).map fun k => vname k.toNat) = true)
    ∧ (let s := sliced 0
     (s.group? s.cur).isSome = true ∧ stillB (grp s) = true ∧ (kdefSlice s (grp s) 127 (some 0) none none 0 40).isNone = true)
    ∧ (laneB (sliced 0) c0 false [] = true ∧ (127 : BitVec 8).toNat < (grp (sliced 0)).bound) := by decide +kernel
/-- EmberRecipes: a register that may be demoted, one that a recipe holds, one that rekindles for its consumer, one that cannot, one that no word needs. -/
theorem test_meets_EmberRecipes_units :
    (let s := withG (kept 0 .value) fun g => { g with runq := [{ run1 with prev := encodeLane (.iadd c0 (v 1) (v 127) (.v (v 127)) 0), buf := [encodeLane (.douse c0 127)] }] }
     s.dousesRead (grp s) 127 = true ∧ s.dousesRead (grp s) 126 = false)
    ∧ (let s := kept 0 .value
     s.dousesRead (grp s) 127 = false ∧ (s.group? 0).isSome = true ∧ (grp s).flights = [] ∧ (grp s).mid = none ∧ ((grp s).regs[(127 : BitVec 8).toNat]?).map Reg.st = some .value ∧ ((grp s).recipe? 127) = some (rec127 0)
      ∧ (rec127 0).full = true ∧ (∀ x ∈ (grp s).recipes, 127 ∉ x.inputs) ∧ (∃ x ∈ (grp s).recipes, 0 ∈ x.inputs) ∧ (grp s).recipe? 5 = none)
    ∧ (let s := kept 0x00003C0100C0C00002000003 .ember
     s.nextRekindle (grp s) = some (127 : BitVec 8).toNat ∧ ((grp s).regs[(127 : BitVec 8).toNat]?).map Reg.st = some .ember ∧ ((grp s).recipe? 127) = some (rec127 0)
      ∧ isOk (kindle (s.noteNext (grp s)) (grp s) (rec127 0)) = true)
    ∧ (let s := kept 0 .ember
     stillB (grp s) = true ∧ s.nextRekindle (grp s) = some (127 : BitVec 8).toNat ∧ ((grp s).regs[(127 : BitVec 8).toNat]?).map Reg.st = some .ember
      ∧ ((grp s).recipe? 127) = some (rec127 0) ∧ isOk (kindle (s.noteNext (grp s)) (grp s) (rec127 0)) = false)
    ∧ (let s := withG (kept 0 .ember) fun g => { g with runq := [] }; s.nextRekindle (grp s) ≠ some (127 : BitVec 8).toNat) := by decide +kernel
/-- Whether a group meets what a write over recipes needs, and its embers are those. -/
def overB (s : State) (ems : List Nat) : Bool :=
  (s.group? s.cur).isSome && (grp s).ctrs == Vector.replicate 12 0 && (grp s).last.isNone && !(grp s).parked && (grp s).flights.isEmpty && (grp s).deferred.isEmpty && (grp s).mid.isNone
    && onLanes s (grp s) c0 false == 0xFFFFFFFF && (List.range 256).all fun k => (grp s).isEmber k == ems.contains k
/-- EmberRecipes: DOUSE and a write over a recipe and over an input of one, no ember; over an ember in all lanes; over the input of an ember. -/
theorem test_meets_EmberRecipes_writes :
    (let s := kept 0 .value
     overB s [] = true ∧ (grp s).recipes.map (fun r => r.inputs) = [[0]] ∧ (127 : BitVec 8).toNat < (grp s).bound ∧ (0 : BitVec 8).toNat < (grp s).bound)
    ∧ (let s := kept 0 .ember
     overB s [127] = true ∧ ∀ x ∈ (grp s).recipes, (127 : BitVec 8) ∉ x.inputs)
    ∧ (let s := kept 0x00003C0100C0C00002000003 .ember
     overB s [127] = true ∧ (grp s).recipe? 127 = some (rec127 0) ∧ (0 : BitVec 8) ∈ (rec127 0).inputs ∧ 127 ≠ (0 : BitVec 8).toNat ∧ isOk (kindle s (grp s) (rec127 0)) = true) := by decide +kernel
/-- RoundingKeepsRepresentable: the greatest finite E4M3 number, the least FP32 one, and the greatest exact value. -/
theorem test_meets_RoundingKeepsRepresentable : (∃ n m e, e4m3.read 0xFE = .fin n m e) ∧ 0xFE < 2 ^ e4m3.width ∧ (∃ n m e, fp32.read 1 = .fin n m e) ∧ 1 < 2 ^ fp32.width
    ∧ AtMost (Dy.ofInt (-448)).abs (e4m3.read (e4m3.maxFin false)).dy :=
  ⟨⟨_, _, _, rfl⟩, by decide, ⟨_, _, _, rfl⟩, by decide, by unfold AtMost; decide⟩
/-- FloatResults: the operands of each clause. Finite: 1.0 and -2^-149; NaN and infinities; values next to FRND's and FEXP2's limits. -/
theorem test_meets_FloatResults : (∃ n m e, fp32.read 0x3F800000 = .fin n m e) ∧ (∃ n m e, fp32.read 0x80000001 = .fin n m e) ∧ (fp32.read 0xFF800001).isNan = true
    ∧ fp32.read 0xFF800000 = .inf true ∧ bf16.read 0x7F80 = .inf false ∧ (∃ m e, fp16.read 0x8000 = .fin true m e ∧ m = 0)
    ∧ (∃ m e, fp32.read 0x4AFFFFFF = .fin false m e ∧ m ≠ 0 ∧ e < 0 ∧ m < 2 ^ 23 * 2 ^ (-e).toNat) ∧ (∃ m e, fp32.read 0x4B000000 = .fin false m e ∧ 0 ≤ e)
    ∧ (∃ m e, fp32.read 0xC47A0000 = .fin true m e ∧ Same { m := signed true m, e := e } (Dy.ofInt (-1000)))
    ∧ (∃ m e, fp32.read 0x397FFFFF = .fin false m e ∧ ¬AtMost { m := 1, e := -12 } { m := m, e := e })
    ∧ (∃ m e, fp32.read 0x41000000 = .fin false m e ∧ AtMost (Dy.ofInt 8) { m := m, e := e }) ∧ (∃ e, fp32.read 0x3F800000 = .fin false (2 ^ 23) e) :=
  ⟨⟨_, _, _, rfl⟩, ⟨_, _, _, rfl⟩, by decide, by decide, by decide, ⟨_, _, rfl, by decide⟩, ⟨_, _, rfl, by decide, by decide, by decide⟩, ⟨_, _, rfl, by decide⟩,
    ⟨_, _, rfl, by unfold Same; decide⟩, ⟨_, _, rfl, by unfold AtMost; decide⟩, ⟨_, _, rfl, by unfold AtMost; decide⟩, ⟨_, rfl⟩⟩
/-- ConversionAndTileResults: a number that is no integer, a NaN and an infinity, a book of sixteen entries, lane 31 active in tiles of two lanes and of 32. -/
theorem test_meets_ConversionAndTileResults : (∃ n m k, fp32.read 0xC0600000 = .fin n m k ∧ k < 0) ∧ (∃ n m k, fp32.read 0x4B800000 = .fin n m k ∧ 0 ≤ k)
    ∧ (fp32.read (0x7FC00000 : W32).toNat).isNan = true ∧ fp32.read (0xFF800000 : W32).toNat = .inf true ∧ e5m2.read 0x7C = .inf false ∧ (∃ p, fp16.read 0xFE00 = .nan true p)
    ∧ (List.replicate 16 0x3F80).length = 16 ∧ (List.replicate 16 0x3F80)[(0xFFFFFFFF : W32).toNat / 2 ^ (4 * 7) % 2 ^ 4]? = some 0x3F80
    ∧ (5 < 6 ∧ 1 < 3 ∧ (2 < 5 → 1 < 2) ∧ (1 : Nat) ≤ 1 ∧ 5 ≤ 5 ∧ (0x80000000 : W32)[(31 : Fin 32)] = true) :=
  ⟨⟨_, _, _, rfl, by decide⟩, ⟨_, _, _, rfl, by decide⟩, by decide, by decide, by decide, ⟨_, rfl⟩, by decide, by decide, by decide⟩

-- ### Matrix words

/-- A group with `q` in its matrix queue and tiles. -/
def queued (q : List (Nat × MWord)) (ts : List Tile) : State := withG l0 fun g => { g with mq := q, tiles := ts }
/-- A group whose format block, at 0x40000, is of a format with itself, and whose B tile lies at 0xF000 of its scratchpad. -/
def blocked (f : Nat) (full : Bool) : State :=
  withMem (withG l0 fun g => { g with sregs := (g.sregs.set 1 0x40000).set 2 0xF000 }) 0x40000
    (leBytes 8 (f * 2 ^ 60) ++ leBytes 8 (f * 2 ^ 60) ++ leBytes 8 ((if full then 1 else 0) * 2 ^ 60) ++ leBytes 8 0)
/-- Whether an MMQ of D in a96-a127 and A from v96 passes its checks in that state, and whether it is admitted. -/
def mmqB (s : State) (f : Nat) (full admitted : Bool) : Bool :=
  laneB s c0 false (vgroup 96 (fmtNA f)) && (grp s).mq.length < 8 && (grp s).trial.isNone && (grp s).latch.isNone && (grp s).inAllot (vname 96)
    && (match readBlock s (grp s) (rd s (grp s) 1).toNat with
      | .ok (b, bp) => b.afmt == f && b.bfmt == f && b.full == full && bp.err == 0 && b.aklen == 0 && b.bklen == 0 && (List.range 32).all (fun i => (grp s).inAllot (aname (96 + i)))
          && (match readRanges s (grp s) [b.ascale, b.bscale, b.atab, b.btab] with
            | .ok rs => rs.all fun x => x.err == 0
            | .error _ => false) && tileFits (predictTiles (grp s)) 96 (b.aklen != 0 || b.bklen != 0)
          && s.admits (grp s) (if fmtFloat f then 0 else 2 ^ (b.depth + 5)) == admitted
      | .error _ => false)
    && okIs (checkB s (grp s) (fmtBytes f) (rd s (grp s) 2).toNat) (0, 0xF000) && ((predictTiles (grp s)).find? (fun t => t.d == 96)).isNone
/-- An MMQ of a format by itself. -/
def mm (f : Nat) : Mmq :=
  { d := 88, act := 0xFFFFFFFF, blk := { blockOf (List.replicate 32 0) with afmt := f, bfmt := f }, afmt := f, a := List.replicate 32 (Vector.replicate 32 0), acb := [],
    bcb := [], asc := none, bsc := none, blw := 0, boff := 0xF000, eb := 0xF000, blkAddr := 0x40000, resv := 0, view := View.fresh, holes := [], stamp := 0 }
/-- MatrixWordsQueue: FP32 by FP32, and INT8 by INT8 that is queued, turned away by a queue that has been passed over 17 times, and on its trial under TRAP; what the trial answers. -/
theorem test_meets_MatrixWordsQueue :
    mmqB (blocked 0 false) 0 false true = true ∧ mmqB (blocked 6 false) 6 false true = true ∧ mmqB (blocked 6 true) 6 true true = true
    ∧ mmqB (pair (blocked 6 false) fun g => { g with passed := 17 }) 6 false false = true
    ∧ ([none, some true, some false].map fun r => (let s := withG (blocked 6 true) fun g => { g with trial := some { m := mm 6, latch := none, res := r, down := none } }
       (s.group? s.cur).isSome && (grp s).trial.isSome && (grp s).flights.isEmpty && (grp s).mq.isEmpty && (grp s).spend.isNone
        && (grp s).trial.any fun t => t.down.isNone)) = [true, true, true]
    ∧ (let s := queued (List.replicate 7 (0, .mwait)) []; laneB s c0 true (tileRegs 96) = true ∧ (grp s).mq.length < 8)
    ∧ (let s := queued (List.replicate 8 (0, .mwait)) []; (s.group? 0).isSome = true ∧ (grp s).trial = none ∧ 8 ≤ (grp s).mq.length) := by decide +kernel
/-- Whether an MMQ that takes A from the HELD latch passes its checks. -/
def heldB (s : State) (f : Nat) : Bool :=
  laneB s c0 false [] && (grp s).mq.length < 8 && (grp s).trial.isNone && (grp s).latch.isSome
    && (match readBlock s (grp s) (rd s (grp s) 1).toNat with
      | .ok (b, bp) => !b.full && bp.err == 0 && b.aklen == 0 && b.bklen == 0 && (List.range 32).all (fun i => (grp s).inAllot (aname (96 + i)))
          && (match readRanges s (grp s) [b.ascale, b.bscale, 0, b.btab] with
            | .ok rs => rs.all fun x => x.err == 0
            | .error _ => false) && tileFits (predictTiles (grp s)) 96 (b.aklen != 0 || b.bklen != 0) && s.admits (grp s) (if fmtFloat f then 0 else 2 ^ (b.depth + 5))
      | .error _ => false)
    && okIs (checkB s (grp s) (fmtBytes f) (rd s (grp s) 2).toNat) (0, 0xF000) && ((predictTiles (grp s)).find? (fun t => t.d == 96)).isNone
/-- MatrixWordsQueue: FP32 and INT8 from the latch, with a store that no wait has covered. -/
theorem test_meets_MatrixWordsQueue_held : ([0, 6].map fun f => heldB (withG (blocked f false) fun g =>
    { g with latch := some { afmt := f, regs := [], cb := [] }, slack := [slackOn 4 11] }) f) = [true, true] := by decide +kernel
/-- An open window of a format. -/
def openTile (f : Nat) : Tile := { newTile (mm f) with kw := 32, rows := 0xFFFFFFFF }
/-- MatrixPasses: the only queue of cluster 0 with each kind of head, and no queue. -/
theorem test_meets_MatrixPasses_queues : ((queued [(4, .mwait)] []).queuesFrom 0 ((queued [(4, .mwait)] []).clusterAt 0).ptr = [grp (queued [(4, .mwait)] [])]
      ∧ (queued [(4, .mzero 88)] []).queuesFrom 0 ((queued [(4, .mzero 88)] []).clusterAt 0).ptr = [grp (queued [(4, .mzero 88)] [])]
      ∧ (queued [(4, .mdrain 88 9)] []).queuesFrom 0 ((queued [(4, .mdrain 88 9)] []).clusterAt 0).ptr = [grp (queued [(4, .mdrain 88 9)] [])]
      ∧ (queued [(4, .mdrain 88 9)] [openTile 6]).queuesFrom 0 ((queued [(4, .mdrain 88 9)] [openTile 6]).clusterAt 0).ptr = [grp (queued [(4, .mdrain 88 9)] [openTile 6])]
      ∧ (queued [(4, .mmq (mm 0))] []).queuesFrom 0 ((queued [(4, .mmq (mm 0))] []).clusterAt 0).ptr = [grp (queued [(4, .mmq (mm 0))] [])]
      ∧ (queued [(4, .mmq (mm 6))] [openTile 6]).queuesFrom 0 ((queued [(4, .mmq (mm 6))] [openTile 6]).clusterAt 0).ptr = [grp (queued [(4, .mmq (mm 6))] [openTile 6])]
      ∧ (queued [(4, .mmq (mm 0))] [{ openTile 0 with kw := 96 }]).queuesFrom 0 ((queued [(4, .mmq (mm 0))] [{ openTile 0 with kw := 96 }]).clusterAt 0).ptr
        = [grp (queued [(4, .mmq (mm 0))] [{ openTile 0 with kw := 96 }])])
    ∧ l0.queuesFrom 0 (l0.clusterAt 0).ptr = [] :=
  ⟨⟨rfl, rfl, rfl, rfl, rfl, rfl, rfl⟩, by decide +kernel⟩
/-- MatrixPasses: tiles inside the allotment, no record and an open window of each format, an interval of more than 32. -/
theorem test_meets_MatrixPasses : (∀ n, n < 34 → (grp l0).inAllot (aname ((88 : BitVec 8).toNat + n)) = true) ∧ ((grp l0).tile? 88) = none ∧ (l0.group? 0).isSome = true
    ∧ (grp l0).slot / 192 = 0 ∧ 0 < l0.units.clusters.length ∧ (grp l0).pending = [] ∧ (grp l0).races = []
    ∧ (recKw (grp l0) (mm 0) + 32 ≠ recInterval (grp l0) (mm 0) ∧ [32, 64, 96].map (fun n => (let g := grp (queued [(4, .mmq (mm 0))] [{ openTile 0 with kw := n }])
        (g.tile? (mm 0).d).map (fun t => fmtFloat t.afmt) == some true && recKw g (mm 0) + 32 == recInterval g (mm 0))) = [false, false, true])
    ∧ (fmtFloat (mm 0).afmt = true ∧ (mm 0).afmt = (mm 0).blk.afmt ∧ 32 < intervalOf true (mm 0).blk.aklen (mm 0).blk.bklen (mm 0).blk.depth)
    ∧ (fmtFloat (mm 6).afmt = false ∧ (mm 6).blk.full = false ∧ fmtFloat (openTile 6).afmt = false ∧ fmtFloat (openTile 0).afmt = true ∧ (openTile 6).kw ≠ 0)
    ∧ (grp (queued [(4, .mdrain 88 9)] [openTile 6])).tile? 88 = some (openTile 6) := by decide +kernel
theorem test_meets_MatrixPasses_tidy : Tidy (queued [(4, .mdrain 88 9)] [openTile 6]) (grp (queued [(4, .mdrain 88 9)] [openTile 6])) 88 := by
  intro l n _
  have hc : ((queued [(4, .mdrain 88 9)] [openTile 6]).clusterAt ((grp (queued [(4, .mdrain 88 9)] [openTile 6])).slot / 192)).cinder = [] := rfl
  refine ⟨?_, ?_⟩
  · unfold cinderCount
    rw [hc]
    rfl
  intro t ht
  have h : (grp (queued [(4, .mdrain 88 9)] [openTile 6])).tile? 88 = some (openTile 6) := test_meets_MatrixPasses.2.2.2.2.2.2.2.2.2.2
  rw [h] at ht
  cases ht
  show ((Vector.replicate 32 (Vector.replicate 32 (0 : W32))).getD n (Vector.replicate 32 0)).getD l 0 = 0
  by_cases hn : n < 32 <;> by_cases hl : l < 32 <;> simp [Vector.getD, hn, hl]
-- ### Queues

/-- Memory of the probe's translation tables and blocks of bytes in ascending order. -/
def image (xs : List (Nat × List Byte)) : Memory :=
  ([(0x2000, leBytes 2 0x3001), (0x3000, leBytes 2 0x4001), (0x4000, [0x1F])] ++ xs).flatMap fun (x : Nat × List Byte) => (x.2.zipIdx.filter fun (y : Byte × Nat) => y.1 != 0).map fun (y : Byte × Nat) => (x.1 + y.2, y.1)
/-- Queue 65535 of context 0 with a ring of 16 packets at 0x51000, RIDX 0 and WIDX `widx`, whose packet 0 is `pkt`; ERRSIG is `sig`; the module serves queues. -/
def header (base sig widx : Nat) : List Byte := leBytes 8 base ++ leBytes 8 0 ++ leBytes 8 widx ++ leBytes 8 sig ++ leBytes 8 (4 + 3 * 2 ^ 8)
def ringWith (sig widx : Nat) (pkt : List Byte) (more : List (Nat × List Byte)) : State :=
  let s := { s0 with mem := image ([(0x50000, header 0x51000 sig widx), (0x51000, pkt)] ++ more ++ [(0x17FFF0, leBytes 3 0x50001)]) }
  let on : Sensor := { band := 0, temp := 0, changed := 0, seen := true }
  { s with svc := { s.svc with fwok := true, qtbase := 0x80000, dbbase := 0x200000 },
           units := { s.units with coreSens := List.replicate 416 on, vaultSens := List.replicate 192 on } }
/-- A module whose firmware verifies and whose queue table has no address. -/
def idle : State := { s0 with svc := { s0.svc with fwok := true, qtbase := 0 } }
def ringSig (sig widx : Nat) (pkt : List Byte) : State := ringWith sig widx pkt []
def ring (widx : Nat) (pkt : List Byte) : State := ringSig 0 widx pkt
/-- Queue 65534 as well, with a packet of its own. -/
def rings (pkt pkt' : List Byte) : State :=
  { ring 1 pkt with mem := image [(0x50000, header 0x51000 0 1), (0x50040, header 0x51400 0 1), (0x51000, pkt), (0x51400, pkt'), (0x17FFE0, leBytes 3 0x50041), (0x17FFF0, leBytes 3 0x50001)] }
/-- Unit lists changed. -/
def unitsAt (s : State) (f : Units → Units) : State := { s with units := f s.units }
def stoking (s : State) (f : Stoker → Stoker) : State := { s with stoker := f s.stoker }
def bell (s : State) (v : Nat) : State := stoking s fun k => { k with bells := [(65535, BitVec.ofNat 64 v, 0)] }
def mappedIn (s : State) (slot : Nat) : State := stoking s fun k => { k with slots := [(slot, 65535)] }
/-- DoorbellsAndQueueFaults: a doorbell to the end of the ring, one at WIDX, one past the ring, one while no queue is served; a bad entry; a free slot. -/
theorem test_meets_DoorbellsAndQueueFaults :
    (let s := bell (ring 15 []) 16
     (65535, 16, 0) ∈ s.stoker.bells ∧ s.serves = true ∧ errOf s (qEntry s 65535) 16 = 0 ∧ qValid s 65535 = true ∧ qEntryBad s 65535 = false ∧ s.stoker.faulted = []
      ∧ qCtxWord s 65535 < 4096 ∧ (s.svc.ctx (qCtx s 65535)).troot ≠ 0 ∧ (s.qHeader 65535).map (fun h => (h.bad, h.widx, h.ridx + 2 ^ h.slog)) = some (false, 15, 16)
      ∧ ((stoking s fun k => { k with bells := k.bells.erase (65535, 16, 0) }).qWrite 65535 0x10 8 16).isSome = true ∧ (s.qWrite 65535 0x22 1 1).isSome = true
      ∧ s.stoker.freeSlot = some 0)
    ∧ (let s := bell (ring 15 []) 15; (65535, 15, 0) ∈ s.stoker.bells ∧ (65535, 16, 0) ∉ s.stoker.bells)
    ∧ (65535, 17, 0) ∈ (bell (ring 15 []) 17).stoker.bells
    ∧ (let s := bell idle 15; (65535, 15, 0) ∈ s.stoker.bells ∧ s.serves = false)
    ∧ (let s := { ring 15 [] with eccBad := [0x17FFFF] }; s.serves = true ∧ s.stoker.faulted = [] ∧ errOf s (qEntry s 65535) 16 ≠ 0) := by decide +kernel
/-- DoorbellsAndQueueFaults: a header that can be written, with an ERRSIG off its alignment, and with one that can be written. -/
theorem test_meets_DoorbellsAndQueueFaults_errsig : ([0x54001, 0x54000].map fun sig =>
    let s := ringSig sig 1 []
    errOf s (qEntry s 65535) 16 == 0 && decide (qCtxWord s 65535 < 4096) && ((s.qHeader 65535).map fun h => (h.errsig, h.ridx)) == some (sig, 0)
      && ((s.qWrite 65535 0x22 2 (3 + 256 * 9)).bind fun u => u.ctxWrite u.unitRelease (qCtx u 65535) 0x54000 (leBytes 8 (9 * 2 ^ 48))).isSome) = [true, true] := by decide +kernel

/-- A packet of a type and three fields. -/
def packet (type a b c : Nat) : List Byte := leBytes 8 type ++ leBytes 8 a ++ leBytes 8 b ++ leBytes 8 c ++ leBytes 32 0
/-- A DISPATCH of the descriptor at 0x52000: one workgroup of one group, its kernel object at 0x53000. -/
def dispatch : State × List Byte :=
  let pkt := packet 2 0x52000 0 0
  let desc := leBytes 8 0x53000 ++ leBytes 8 0x40000 ++ leBytes 4 1 ++ leBytes 2 1 ++ leBytes 2 1 ++ [1, 1, 0, 1, 32, 16] ++ leBytes 2 (40 * 256 + 8) ++ leBytes 2 128
  let kobj := leBytes 4 0x09604B4F ++ leBytes 4 1 ++ leBytes 4 0x100 ++ leBytes 4 4 ++ leBytes 4 0x110 ++ leBytes 4 12 ++ leBytes 0x14 0 ++ [1]
  (ringWith 0 1 pkt [(0x52000, desc), (0x53000, kobj)], pkt)
def watching (a : Nat) (mode : Nat) : State :=
  let p : Pkt := { q := 65535, i := 0, csig := none, err := 0, work := .wait }
  stoking { ringWith 0 1 [] [(0x54000, leBytes 8 a)] with us := 9 } fun k =>
    { k with pkts := [p], watches := [{ q := 65535, i := 0, sig := 0x54000, cond := mode, value := 5, deadline := some 9 }] }
/-- StokerAndPackets: a packet in lane 0 of the served block 0 that cannot be read; a WAIT and a SIGNAL in two lanes; a mapped queue and one that is not; the spare core, which has no block; no such
core; a module that serves no queue. -/
theorem test_meets_StokerAndPackets_rounds :
    (let s := mappedIn (ringWith 0 1 [] []) 0
     let s := { s with mem := image [(0x50000, header (2 ^ 40) 0 1), (0x17FFF0, leBytes 3 0x50001)] }
     s.stoker.cores[0]?.map (fun c => (c.block, c.halted)) = some (some 0, false) ∧ s.serves = true ∧ s.stoker.blockQueues 0 = [65535] ∧ s.stoker.mapped 65535 = true
      ∧ (s.qHeader 65535).map (fun h => (h.base, decide (h.ridx < h.widx))) = some (2 ^ 40, true) ∧ s.stoker.pkts = [] ∧ s.ctxNat (qCtx s 65535) (2 ^ 40) 1 = none
      ∧ (s.readyPacket 65535).map (fun x => x.q) = some 65535 ∧ s.stoker.coreOf 65535 = some 0 ∧ s.stoker.coreOf 65534 = none)
    ∧ (let s := stoking (rings (packet 3 0x54000 5 0) (packet 4 0x54000 5 0)) fun k => { k with slots := [(0, 65535), (1, 65534)] }
     s.serves = true ∧ s.stoker.blockQueues 0 = [65535, 65534] ∧ s.stoker.mapped 65535 = true ∧ s.stoker.mapped 65534 = true
      ∧ (s.readyPacket 65535).map (fun x => x.type) = some 3 ∧ (s.readyPacket 65534).map (fun x => x.type) = some 4 ∧ s.ctxNat (qCtx s 65535) 0x51000 1 = some 3)
    ∧ (ring 1 []).ctxNat (qCtx (ring 1 []) 65535) 0x51000 1 = some 0
    ∧ idle.serves = false ∧ (State.reset.stoker.cores[4]?.map fun c => c.block) = some none ∧ State.reset.stoker.cores[5]? = none := by decide +kernel
/-- StokerAndPackets: a DISPATCH within its limits with no entry free; with a launch kept and an entry free, and so a TASKROOT; one whose kernel object is none. -/
theorem test_meets_StokerAndPackets_grids :
    (let s := { dispatch.1 with grids := (List.range 256).map fun i => { probeGrid with gid := i, entry := i } }
     let bs := dispatch.2
     packetBad bs = false ∧ fieldOf bs 0 1 = 2 ∧ s.stoker.keptFor 65535 0 = none ∧ isOk (checkLaunch s (qCtx s 65535) (fieldOf bs 8 8) false) = true ∧ s.freeEntry = none)
    ∧ (let s := stoking s0 fun k => { k with kept := [(65535, 0, { desc := Desc.zero, ko := probeKernel, hk := none, foot := none })] }
     (s.stoker.keptFor 65535 0).isSome = true ∧ s.freeEntry.isSome = true ∧ packetBad (packet 8 0x52000 0 0) = false ∧ fieldOf (packet 8 0x52000 0 0) 0 1 = 8
      ∧ ∀ d ∈ s.grids, d.isTask = false)
    ∧ (let s := ring 1 []
     let t := s.unitSees (qCtx s 65535) 0x51000 64
     t.stoker.keptFor 65535 0 = none ∧ (match checkLaunch t (qCtx s 65535) 0x58000 false with
      | .ok _ => false
      | .error e => e != 1) = true)
    ∧ (let s := { ring 1 [] with eccBad := [0x58000] }
     let t := s.unitSees (qCtx s 65535) 0x51000 64
     (match checkLaunch t (qCtx s 65535) 0x58000 false with
      | .ok _ => false
      | .error e => e == 1) = true) := by decide +kernel
/-- StokerAndPackets: a NOP, a FENCE, a WAIT that holds and one that does not, a SIGNAL, a COPY, a DIGEST of a range, one whose list has an error in its first entry and one whose list has nine, a packet with a reserved type; its consumption. -/
theorem test_meets_StokerAndPackets_launches :
    ([packet 1 0 0 0, packet 6 7 0 0, packet 3 0x54000 0 0, packet 3 0x54000 5 0, packet 4 0x54000 5 0, packet 5 0x54000 0x55000 513, packet 7 0x56000 0x55000 0].map fun bs =>
        (packetBad bs, fieldOf bs 0 1)) = [(false, 1), (false, 6), (false, 3), (false, 3), (false, 4), (false, 5), (false, 7)]
    ∧ packetBad (packet 9 0 0 0) = true ∧ waitHolds 0 0 0 = true ∧ waitHolds 0 0 5 = false
    ∧ (let s := ring 1 (packet 4 0x54000 5 0)
     let t := s.unitSees (qCtx s 65535) 0x51000 64
     t.ctxNat (qCtx s 65535) 0x54000 8 = some 0 ∧ t.ctxNat (qCtx s 65535) (2 ^ 40) 8 = none
      ∧ ((t.unitHears (qCtx s 65535) 0x54000 8).ctxWrite { Writer.unit with rel := (t.order.fences.filter fun y => y.1 == 65535).map Prod.snd, rmw := true } (qCtx s 65535) 0x54000
        (leBytes 8 (signalled 0 5 0).toNat)).isSome = true
      ∧ ((s.ctxWrite Writer.unit (qCtx s 65535) 0x51000 [0]).bind fun u => u.ctxWrite u.unitRelease (qCtx u 65535) (qHdr u 65535 + 8) (leBytes 8 1)).isSome = true)
    ∧ (let s := ringWith 0 1 [] [(0x56000, leBytes 8 1 ++ leBytes 8 0x57000 ++ leBytes 8 8)]
     let t := s.unitSees (qCtx s 65535) 0x51000 64
     (match readFoot t (qCtx s 65535) 0x56000 with
      | .ok rs => rs == [(0x57000, 8)]
      | _ => false) = true
      ∧ (digestMessage t (qCtx s 65535) [(0x57000, 8)]).isSome = true
      ∧ (match t.translateRange (qCtx s 65535) needWrite 0x55000 32 with
        | .ok ps => ps.all fun p => errOf t p 1 == 0
        | .error _ => false) = true)
    ∧ ([(8, 136), (9, 8)].map fun x => (let s := { ringWith 0 1 [] [(0x56000, leBytes 8 x.1)] with eccBad := [0x5600C] }
     let t := s.unitSees (qCtx s 65535) 0x51000 64
     footSize t (qCtx s 65535) 0x56000 == x.2 && (match readFoot t (qCtx s 65535) 0x56000 with
      | .fault => true
      | _ => false) == (x.1 == 8))) = [true, true] := by decide +kernel
/-- StokerAndPackets: a packet without a completion signal; one with an error, whose code reaches the header; one with a signal. -/
theorem test_meets_StokerAndPackets_reports (t : State) (q i : Nat) (w : PktWork) : Reported t { q := q, i := i, csig := none, err := 0, work := w } t :=
  ⟨t, 0, ⟨rfl, rfl⟩, by rw [if_pos rfl]⟩
theorem test_meets_StokerAndPackets_errors :
    (let s := ring 1 []
     (s.qHeader 65535).map (fun h => h.errsig) = some 0 ∧ (s.qWrite 65535 0x23 1 4).isSome = true)
    ∧ (let s := ring 1 []
     s.ctxNat (qCtx s 65535) 0x54000 8 = some 0 ∧ (s.ctxWrite { s.unitRelease with rmw := true } (qCtx s 65535) 0x54000 (leBytes 8 ((0 + (2 ^ 64 - 1)) % 2 ^ 64))).isSome = true
      ∧ s.ctxNat (qCtx s 65535) (2 ^ 40) 8 = none ∧ s.stoker.faulted = [])
    ∧ (let s := { ring 1 [] with mem := image [(0x17FFF0, leBytes 8 (2 ^ 40 + 1))] }; (s.qHeader 65535).isNone = true ∧ (s.qWrite 65535 0x23 1 4).isNone = true)
    ∧ ([0x54000, 2 ^ 40].map fun sig => (let s := ringSig sig 1 []
     ((s.qHeader 65535).map fun h => h.errsig == sig, (s.ctxWrite s.unitRelease (qCtx s 65535) sig (leBytes 8 (4 * 2 ^ 48))).isSome))) = [(some true, true), (some true, false)] := by decide +kernel
/-- StokerAndPackets: a packet whose work has ended and one whose watch has; a watch at its value and below, at its deadline and before; a COPY before its last granule, at it, and one
whose source is not mapped. -/
theorem test_meets_StokerAndPackets_ends :
    (let p : Pkt := { q := 65535, i := 0, csig := none, err := 0, work := .ready }
     let s := stoking (ring 1 []) fun k => { k with pkts := [p] }
     s.serves = true ∧ s.pkt? 65535 0 = some p ∧ p.work = .ready)
    ∧ (let p : Pkt := { q := 65535, i := 0, csig := none, err := 0, work := .woken }
     let s := stoking (mappedIn (ring 1 []) 0) fun k => { k with pkts := [p] }
     s.pkt? 65535 0 = some p ∧ p.work = .woken ∧ s.stoker.mapped 65535 = true)
    ∧ (let p : Pkt := { q := 65535, i := 0, csig := none, err := 0, work := .woken }
     let s := stoking (ring 1 []) fun k => { k with pkts := [p], faulted := [65535] }
     s.serves = true ∧ s.pkt? 65535 0 = some p ∧ p.work = .woken ∧ 65535 ∈ s.stoker.faulted)
    ∧ (let s := { watching 5 3 with eccBad := [0x54007] }; s.serves = true ∧ (s.stoker.watches.find? (fun w => w.q == 65535)).map (fun w => w.sig) = some 0x54000
      ∧ s.ctxNat (qCtx s 65535) 0x54000 8 = none)
    ∧ ((watching 5 3).serves = true ∧ ((watching 5 3).stoker.watches.find? (fun w => w.q == 65535)).map (fun w => w.deadline) = some (some 9)
      ∧ (watching 5 3).ctxNat (qCtx (watching 5 3) 65535) 0x54000 8 = some 5 ∧ (watching 4 3).ctxNat (qCtx (watching 4 3) 65535) 0x54000 8 = some 4
      ∧ waitHolds 3 5 5 = true ∧ waitHolds 3 4 5 = false ∧ ((watching 5 3).pkt? 65535 0).isSome = true ∧ 9 ≤ (watching 5 3).us ∧ { watching 5 3 with us := 8 }.us < 9)
    ∧ (let p : Pkt := { q := 65535, i := 0, csig := none, err := 0, work := .copy 0x54000 0x55000 513 256 }
     let s := stoking (ring 1 []) fun k => { k with pkts := [p] }
     s.serves = true ∧ s.pkt? 65535 0 = some p ∧ 256 + min 256 (513 - 256) ≠ 513 ∧ 512 + min 256 (513 - 512) = 513
      ∧ (s.ctxRead (qCtx s 65535) (0x54000 + 256) 256).isSome = true ∧ (match s.translateRange (qCtx s 65535) needWrite (0x55000 + 256) 256 with
        | .ok ps => ps.all fun a => errOf s a 1 == 0
        | .error _ => false) = true
      ∧ s.ctxRead (qCtx s 65535) (2 ^ 40) 256 = none) := by decide +kernel
/-- RetirementAndStokerCores: a grid whose one gang has exited, one under DET with a footprint, and one whose gang has not; a core that halts beside the spare, one that halts when
no spare is left, one that has halted, one that is to be reloaded. -/
theorem test_meets_RetirementAndStokerCores :
    (let p : Pkt := { q := 0, i := 0, csig := none, err := 0, work := .grid 0 }
     let s := stoking (withD s0 fun d => { d with exited := [0] }) fun k => { k with pkts := [p] }
     (s.grid? 0).map (fun d => (s.gridOver d, d.foot.isNone)) = some (true, true) ∧ s.pkt? 0 0 = some p ∧ p.err = 0
      ∧ ({ s with order := { s.order with grids := [(0, View.fresh)] } }.order.grids.lookup 0).isSome = true)
    ∧ (let s := withD s0 fun d => { d with exited := [0], foot := some (0x56000, [(0x57000, 8)]), desc := { d.desc with mode := 4 } }
     (s.grid? 0).map (fun d => s.gridOver d && d.foot == some (0x56000, [(0x57000, 8)]) && 4 ≤ d.desc.mode) = some true
      ∧ (digestMessage s 0 [(0x57000, 8)]).isSome = true ∧ (match s.translateRange 0 needWrite ((0x56000 + 8 + 16 * 1 + 31) / 32 * 32) 32 with
        | .ok ps => ps.all fun x => errOf s x 1 == 0
        | .error _ => false) = true)
    ∧ (s0.grid? 0).map s0.gridOver = some false := by decide +kernel
theorem test_meets_RetirementAndStokerCores_cores :
    (State.reset.stoker.cores[3]?.map fun c => (c.block, c.halted)) = some (some 3, false) ∧ State.reset.stoker.spare = some 4 ∧ State.reset.stoker.promised = []
    ∧ memWf State.reset.svc.repairMap = true
    ∧ (let k := (State.reset.setCore 4 { block := none, halted := true }).stoker
       k.spares = [] ∧ (k.cores[3]?.map fun c => (c.block, c.halted)) = some (some 3, false) ∧ ([0, 1, 2, 4].all fun i => (k.cores[i]?).map StokerCore.block != some (some 3)) = true)
    ∧ ((State.reset.setCore 3 { block := some 3, halted := true }).stoker.spare = some 4)
    ∧ ([true, false].map fun b => (let s := (State.reset.setCore 3 { block := none, halted := true }).setCore 2 { block := none, halted := b }
     (s.stoker.cores[3]?.map fun c => (c.block, c.halted), [0, 1, 2, 4].map fun i => (s.stoker.cores[i]?).map StokerCore.halted, memWf s.svc.repairMap)))
       = [true, false].map fun b => (some (none, true), [some false, some false, some b, some false], true) := by decide +kernel
/-- A module of one cluster in service with a grid of gangs of `n`, its first gang still to place. -/
def placing (n : Nat) : State :=
  let s := withD { ring 0 [] with groups := [], wgs := [] } fun d => { d with walk := 0, desc := { d.desc with gang := n } }
  unitsAt s fun u => { u with clusters := Cluster.reset :: List.replicate 103 { Cluster.reset with out := true } }
def wg0 : Wg :=
  { gid := 0, lw := 0, core := 0, lcore := 0, spad := [], ws := Vector.replicate 16 0, wsPend := [], stop := none, stopAt := 0, hold := false, quota := false,
    atStep := false, moves := false, migr := false, placed := State.reset.moment, task := none }
/-- A record of the workgroup, held in the directory's last entry. -/
def record (s : State) : SavedWg :=
  { die := 0, oldCore := 0, rank := 3, spilled := false, savedAt := 0, held := true, quota := false, byQuota := false, double := false, code := 13, migr := false, order := 3, entry := some 255, smaps := [0], notabs := [true],
    counts := List.replicate 8 0, ranges := [], wg := s.wgs.headD wg0, groups := [grp s], jobs := [] }
/-- PlacementStartsGroups: a grid with a gang of one and one of four still to place; a core that owes a request; a saved gang; no core in service after 500 us; no candidate. -/
theorem test_meets_PlacementStartsGroups :
    ([1, 4].map fun n => (let s := placing n
     s.grids.length == 1 && s.grids.all (fun d => s.candidates d == [0] && s.firstFit d [0] == some (0, List.range n)
      && (s.savedGang d.gid 0).isEmpty && !d.isTask && d.desc.gang == n && (s.grid? d.gid) == some d) && s.owed.isEmpty)) = [true, true]
    ∧ (let s := { placing 4 with owed := [(3, .host)] }; s.grids.map (fun d => s.firstFit d [0]) = [some (0, [0, 1, 2, 3])] ∧ ∃ x ∈ s.owed, x.1 ∈ [0, 1, 2, 3])
    ∧ (let s := withD { placing 1 with saved := [{ record s0 with held := false }] } fun d => { d with walk := 1 }
     s.grids.map s.candidates = [[0]] ∧ s.grids.map (fun d => s.firstFit d [0]) = [some (0, [0])] ∧ (s.grid? 0).isSome = true
      ∧ ((s.savedGang 0 0).map fun r => r.wg.lw) = [0] ∧ s.owed = [])
    ∧ (let s := unitsAt (withD { placing 1 with us := 500 } fun d => { d with waits := [(0, (State.reset.moment))] }) fun u => { u with clusters := List.replicate 104 { Cluster.reset with out := true } }
     s.grids.map s.candidates = [[0]] ∧ s.grids.map (fun d => s.firstFit d [0]) = [none] ∧ s.grids.map (fun d => d.waits.lookup 0) = [some State.reset.moment] ∧ s.passed State.reset.moment 500 = true
      ∧ { s with us := 499, usFrac := 1799 }.passed State.reset.moment 500 = false ∧ ((after (exec .dispatcherDecision s)).grid? 0).map Grid.waits = some [(0, State.reset.moment)])
    ∧ s0.grids.all (fun d => (s0.candidates d).isEmpty) = true := by decide +kernel
/-- A QUANTUM grid of two gangs whose first has been resident for 50 us. -/
def quantum : State := withD { s0 with us := 50 } fun d => { d with desc := { d.desc with mode := 2, gridx := 2 } }
/-- The gang of the probe at its STEP, to migrate or for a cut. -/
def atStep (migr : Bool) (held : Bool) : State :=
  withG (withWg (withD s0 fun d => { d with cut := if migr then [] else [1] }) fun w => { w with migr := migr }) fun g => { g with stepHeld := held }
/-- StopRequests: a resident gang, one that has exited in this FCLK, one that is neither; a cluster tripped and none; a quota that holds and one that does not; a trap that has gone to
the host and none; a migration and a cut at their STEP, before it, and none due; a gang whose quantum ends while another waits, and a grid of another mode. -/
theorem test_meets_StopRequests : s0.gangWgs 0 0 ≠ [] ∧ s0.gangWgs 0 1 = [] ∧ s0.gangResuming 0 1 = false ∧ s0.exits = []
    ∧ (let s := { s0 with exits := [(0, 1, [7])] }; s.gangWgs 0 1 = [] ∧ s.gangResuming 0 1 = false
      ∧ s.exits.find? (fun x => x.1 == 0 && x.2.1 == 1) = some (0, 1, [7]))
    ∧ (let s := unitsAt s0 fun u => { u with clusters := u.clusters.set 0 { Cluster.reset with tripped := true } }
      (s.gangMembers 0 0).map (fun w => (s.clusterAt (w.core / 4)).tripped) = [true] ∧ s.gangWgs 0 0 ≠ [])
    ∧ s0.units.clusters.all (fun c => !c.tripped) = true
    ∧ (withD s0 fun d => { d with quotaHeld := true }).quotaHeld 0 = true ∧ s0.quotaHeld 0 = false
    ∧ ([true, false].map fun b => ((withG s0 fun g => { g with toHost := b }).gangGroups 0 0).map Group.toHost) = [[true], [false]]
    ∧ ([(true, true), (true, false), (false, true), (false, false)].map fun x => (let s := atStep x.1 x.2
      (s.gangMigrates 0 0, s.cutting 0, (s.gangGroups 0 0).map Group.stepHeld))) = [(true, false, [true]), (true, false, [false]), (false, true, [true]), (false, true, [false])]
    ∧ s0.gangMigrates 0 0 = false ∧ s0.cutting 0 = false
    ∧ (quantum.grid? 0).map (fun d => (d.isTask, d.st, d.desc.mode % 4)) = some (false, .live, 2)
    ∧ (quantum.grid? 0).map (fun d => (quantum.hasWaiting d, quantum.quantumUnderWay d)) = some (true, false)
    ∧ (quantum.grid? 0).bind quantum.quantumNext = some 0 ∧ (s0.grid? 0).map (fun d => d.desc.mode % 4) = some 0 := by decide +kernel
/-- SaveAndResume: a gang that a trap stopped, its second member already exited; one that reached its STEP and that a quota then stopped; one that nothing stops; one at PHINT, one with
lanes left, one whose WSW is a FCLK old and one whose WSW is two, with and without a lane of EXM; a record placed again, and none. -/
theorem test_meets_SaveAndResume :
    (let s := withWg (withD { s0 with fclk := 2 } fun d => { d with desc := { d.desc with gang := 2 } }) fun w => { w with stop := some .trapHost, hold := true, wsPend := [(0, 3, 1, 7)] }
     let s := { s with wgs := s.wgs ++ s.wgs.map fun (w : Wg) => { w with lw := 1, core := 1 } }
     (s.gangStop 0 0).isSome = true ∧ s.gangWgs 0 0 ≠ [] ∧ (s.gangGroups 0 0).all (fun g => !s.phintWaits g && g.mid.isNone && g.pending.isEmpty) = true
      ∧ (s.gangMembers 0 0).all (fun w => w.wsPend.all fun x => decide (x.1 + 2 ≤ s.fclk)) = true
      ∧ (s.gangMembers 0 0).all (fun w => (s.wgGroups 0 w.lw).all (fun g => decide (g.k < 48)) && decide ((s.wgGroups 0 w.lw).map Group.k).Nodup) = true
      ∧ (s.groups.map Group.slot).Nodup ∧ (s.gangMembers 0 0).map Wg.lw = [0, 1] ∧ (s.gangMembers 0 0).all (fun w => !w.atStep) = true)
    ∧ (let s := withWg (withD (atStep true true) fun d => { d with quotaHeld := true }) fun w => { w with stop := some .quota, quota := true, atStep := true }
     (s.gangStop 0 0).isSome = true ∧ (s.gangMembers 0 0).map (fun w => (w.quota, w.atStep)) = [(true, true)] ∧ s.gangMigrates 0 0 = true ∧ s.quotaHeld 0 = true)
    ∧ s0.gangStop 0 0 = none
    ∧ (let s := withG (withWg (scalarAt ((encodeScalar (.phint 0)).getD 0) []) fun w => { w with stop := some .host }) fun g => { g with runq := [run1] }
     (s.gangGroups 0 0).map s.phintWaits = [true])
    ∧ (let s := withG s0 fun g => { g with mid := some { op := mop 0 4 4, atom := false, on := 2, accs := [{ lane := 1, ea := 0, place := .glob 0, data := [7] }], done := 0, got := [], stores := [], gain := View.fresh, errs := [] } }
     (s.gangGroups 0 0).map (fun g => g.mid.isSome) = [true])
    ∧ (let s := withWg { s0 with fclk := 1 } fun w => { w with wsPend := [(0, 3, 1, 7)] }; (s.gangMembers 0 0).map (fun w => w.wsPend.map fun x => decide (s.fclk < x.1 + 2)) = [[true]])
    ∧ ([3, 4].map fun n => (let s := withG { s0 with fclk := n } fun g => { g with flights := [{ flight 5 3 [] with effs := [.ws 2] }] }
       (s.gangGroups 0 0).map (fun g => (g.pending, decide (s.fclk < 2 + 2))))) = [[([.ws 2], true)], [([.ws 2], false)]]
    ∧ (let s := { s0 with groups := [], wgs := [], resuming := [record s0] }
     (s.resuming.filter fun r => r.wg.gid == 0 && gangIdx (s.desc 0) r.wg.lw == gangIdx (s.desc 0) 0).map (fun r => (r.wg.lw, r.spilled, r.groups.length)) = [(0, false, 1)])
    ∧ s0.resuming = [] := by decide +kernel
-- ### Units, ports and commands

/-- HeatClocksEnergy: the last sensor of each kind, unsampled and sampled, at and below a threshold; the last vault; a cluster whose ratio must change and one whose change ends;
a glide that holds the current of a departed grid, an entry reused; a die at each side of its window's limits; a live grid whose quota holds, and one that it does not cover. -/
theorem test_meets_HeatClocksEnergy :
    (State.reset.units.vaultSens[191]?.isSome = true ∧ State.reset.units.coreSens[415]?.isSome = true ∧ 415 / 4 < State.reset.units.clusters.length
      ∧ 191 < State.reset.units.vaults.length ∧ State.reset.units.vaults[191]?.isSome = true ∧ State.reset.units.clusters[103]? = some Cluster.reset
      ∧ Cluster.reset.switching = false ∧ Cluster.reset.tripped = false)
    ∧ (let ts : List Int := [380, 420, 460]
     (ts.countP fun t => t ≤ 460) = 3 ∧ (ts.countP fun t => t ≤ 379) = 0 ∧ (379 : Int) < ts.getD 0 0 ∧ ¬(368 : Int) < ts.getD 0 0 - 12 ∧ (367 : Int) < ts.getD 0 0 - 12)
    ∧ (let s := unitsAt State.reset fun u => { u with clusters := u.clusters.set 103 { Cluster.reset with ratio := 8 } }
     (s.units.clusters[103]?).map (fun x => (x.switching, x.tripped, decide (x.ratio ≠ s.ratioLimit 103))) = some (false, false, true))
    ∧ (let s := unitsAt s0 fun u => { u with clusters := u.clusters.map fun c => { c with ratio := 8, tripped := true } }
     (s.units.clusters[103]?).map (fun x => (x.switching, x.tripped, decide (x.ratio ≠ s.ratioLimit 103))) = some (false, true, true)
      ∧ s.wgs.map (fun w => w.core / 4) = [0] ∧ s.resuming = [] ∧ (s.clusterAt 0).tripped = true)
    ∧ (let s := unitsAt State.reset fun u => { u with clusters := u.clusters.set 103 { Cluster.reset with pending := some 4, switching := true } }
     (s.units.clusters[103]?).bind Cluster.pending = some 4)
    ∧ (let x : Die := { nclk := 6, nstep := none, nlast := some 90, estimate := 16, glide := 0 }
     let s := unitsAt s0 fun u => { u with dies := u.dies.set 9 x, departed := [(9, 0)] }
     s.units.dies[9]? = some x ∧ 9 < x.estimate - 6 ∧ s.units.departed.filter (fun y => y.1 == 9) = [(9, 0)] ∧ (s.grid? 0).map Grid.st = some .live)
    ∧ ((withD s0 fun d => { d with st := .reused }).grid? 0).map Grid.st = some .reused
    ∧ (let x : Die := { nclk := 6, nstep := none, nlast := some 90, estimate := 9, glide := 0 }
     let s := unitsAt { State.reset with us := 100 } fun u => { u with dies := u.dies.set 9 x }
     s.units.dies[9]? = some x ∧ x.nstep = none ∧ (∀ t, x.nlast = some t → t + 10 ≤ s.us) ∧ 500 < 501 ∧ x.nclk < 7 ∧ 124 < 125 ∧ 0 < x.nclk)
    ∧ (let x : Die := { nclk := 7, nstep := some true, nlast := some 90, estimate := 9, glide := 0 }
     (unitsAt State.reset fun u => { u with dies := u.dies.set 9 x }).units.dies[9]? = some x ∧ x.nclk ≤ 7)
    ∧ (let s := withD { s0 with resuming := [record s0] } fun d => { d with unl := false, left := 5 }
     (s.grid? 0).map (fun d => (d.st, d.unl, d.quotaHeld, s.gridOver d)) = some (.live, false, false, false) ∧ (s.grid? 0).map (fun d => (decide (5 ≤ d.left), decide (d.left < 6))) = some (true, true)
      ∧ (s.grid? 0).map (fun d => decide (1 ≤ d.desc.gang)) = some true ∧ s.wgs.map Wg.gid = [0] ∧ s.resuming.map (fun r => r.wg.gid) = [0]) := by
  refine ⟨by decide +kernel, by decide +kernel, by decide +kernel, by decide +kernel, by decide +kernel, by decide +kernel, by decide +kernel, ?_, by decide +kernel, by decide +kernel⟩
  refine ⟨by decide +kernel, rfl, fun t ht => ?_, by decide, by decide, by decide, by decide⟩
  cases ht
  decide
/-- A module whose port `port` has fields changed. -/
def ported (f : Port → Port) (own : Nat) : State :=
  { s0 with svc := { s0.svc with ports := s0.svc.ports.set 1 (f s0.svc.ports[1]), ownsem := own, fwok := true } }
/-- HostAccessAndOwnership: the last bytes of the window of port 1 and the byte before it; the last bytes below 2^39, the link up and down, firmware that does not verify; OWNSEM held,
not held, and held by a port that has lost its link; the last cluster's limit; the last context; a mailbox at rest with a command. -/
theorem test_meets_HostAccessAndOwnership : (let s := ported (fun p => { p with base := 0x1000, up := true, lost := some State.reset.moment }) 2
      (s.port 1).up = true ∧ s.svc.fwok = true ∧ (s.port 1).base.toNat ≤ 0x1000 + (2 ^ 26 - 1) ∧ 0x1000 + (2 ^ 26 - 1) < (s.port 1).base.toNat + 2 ^ 26
        ∧ 0xFFF < (s.port 1).base.toNat ∧ (s.port 1).base.toNat + 2 ^ 26 ≤ 2 ^ 39 - 8 ∧ (s.port 1).lost = some State.reset.moment ∧ { s with us := 100 }.passed State.reset.moment 100 = true ∧ ((s.tick 180000).passed State.reset.moment 100) = true ∧ s.svc.ownsem = 1 + 1
        ∧ s.memOk ∧ bellOf s (2 ^ 39 - 8) 8 = none ∧ 2 ^ 39 - 8 + (List.replicate 8 (1 : Byte)).length ≤ 2 ^ 39 ∧ ∀ k, k < 8 → errOf s (2 ^ 39 - 8 + k) 1 = 0)
    ∧ ((ported (fun p => { p with up := false }) 2).port 1).up = false ∧ ((ported id 2).port 1).lost = none
    ∧ (let s := { ported id 2 with svc := { (ported id 2).svc with fwok := false } }; s.svc.fwok = false ∧ 2 ^ 57 - 1 < 2 ^ 57 ∧ (s.port 1).base.toNat + 2 ^ 26 ≤ 2 ^ 57 - 1)
    ∧ (ported id 2).svc.ownsem = 1 + 1 ∧ 2 ^ 64 - 1 < 2 ^ 64 ∧ (ported id 2).svc.qtbase < 2 ^ 64 ∧ (ported id 2).svc.dbbase < 2 ^ 64
    ∧ (95 < 96 ∧ (ported id 2).svc.limits.length = 96 ∧ (∀ y ∈ (ported id 2).svc.limits, y ≤ 2) ∧ 1 ≤ (ported id 2).svc.fclkLimit ∧ (ported id 2).svc.fclkLimit ≤ 180)
    ∧ isGlobal 0x80 = true ∧ (ported id 1).svc.ownsem ≠ 1 + 1 ∧ (leBytes 8 1).length ≤ spaceRun 0x80 ∧ 4095 < 4096
    ∧ ((ported id 1).port 1).mb.status ≠ 0xFF ∧ (ported id 1).svc.fwok = true
    ∧ commandOf 1 9 ((ported id 1).port 1).mb.arg0 ((ported id 1).port 1).mb.arg1 = some (.attest 1) := by
  unfold State.memOk
  decide +kernel
/-- HostAccessAndOwnership: what the readback space shows has something to show: an entry of the log, one of the directory and a free one, a core with a workgroup, a saved record and a
free entry, a group and a free slot. -/
theorem test_meets_HostAccessAndOwnership_readback :
    (let s := s0.log 5 1 0 0x80 7; (s.svc.log[0]?).map LogEntry.code = some 5 ∧ 0 < s.svc.logHead ∧ 0 < 2047)
    ∧ (s0.grids.find? (fun d => d.entry == (s0.grids.headD probeGrid).entry && d.st != .reused)).map (fun d => (d.gid, d.st)) = some (0, .live)
    ∧ (∀ d ∈ State.reset.grids, ¬(d.entry = 255 ∧ d.st ≠ .reused)) ∧ (s0.coreTenants 0).length = 1
    ∧ (let s := { s0 with saved := [record s0] }; (s.saved.find? (fun r => r.entry == some 255)).isSome = true ∧ ∀ r ∈ s.saved, r.entry ≠ some 254)
    ∧ (s0.group? 0).isSome = true ∧ s0.group? 19967 = none := by decide +kernel
/-- GridCommands: no live grid of a name; one whose last workgroup has exited, and one that lives; the grid 0x1000 with its gang resident, exited in this FCLK, saved and held, saved
and not held, cut and stopped at a cut; a queue that is FAULTED; a command of the holder of OWNSEM and one of another. -/
theorem test_meets_GridCommands : (∀ d ∈ State.reset.grids, d.st = .live → d.name ≠ (0x1000 : W64).toNat)
    ∧ (let s := withD s0 fun d => { d with exited := [0] }
     s.grids.all (fun d => s.gridOver d && d.st == .live && d.name == 0x1000) = true ∧ s.grids.length = 1 ∧ (s.gridNamed 0x1000).map Grid.gid = some 0)
    ∧ s0.grids.map (fun d => (s0.gridOver d, d.st, d.name)) = [(false, .live, 0x1000)]
    ∧ (let s := { s0 with groups := [], wgs := [], exits := [(0, 0, [0])] }; s.gangWgs 0 0 = [] ∧ s.gangResuming 0 0 = false ∧ s.exits.find? (fun x => x.1 == 0 && x.2.1 == 0) = some (0, 0, [0]))
    ∧ (let s := { s0 with saved := [{ record s0 with held := false }] }; (s.savedGang 0 0).map SavedWg.held = [false] ∧ s.exits = [])
    ∧ s0.wgs.map (fun w => (w.gid, (s0.wgGroups w.gid w.lw).isEmpty)) = [(0, false)]
    ∧ (let s := withD { s0 with saved := [record s0] } fun d => { d with cut := [] }
     s.saved.map (fun r => (r.wg.gid, r.groups.length)) = [(0, 1)]) := by decide +kernel
theorem test_meets_GridCommands_ends :
    (s0.gridNamed 0x1000).map (fun d => (d.gid, decide ((0 : W64).toNat < d.desc.gangs), (s0.gangWgs d.gid 0).isEmpty, s0.resuming.isEmpty)) = some (0, true, false, true)
    ∧ ((0 : W64).toNat % 2 ^ 63 ≠ 2 ^ 63 - 1 ∧ (BitVec.ofNat 64 (2 ^ 64 - 1)).toNat % 2 ^ 63 = 2 ^ 63 - 1 ∧ (BitVec.ofNat 64 (2 ^ 63)).getLsbD 63 = true)
    ∧ (s0.grid? 0).map Grid.name = some 0x1000 ∧ s0.grids.length = 1 ∧ s0.grids.all (fun d => decide (1 ≤ d.desc.gang)) = true
    ∧ (let s := { s0 with groups := [], wgs := [], saved := [record s0] }
     (s.gridNamed 0x1000).map (fun d => (decide ((0 : W64).toNat < d.desc.gangs), (s.savedGang d.gid 0).map fun r => (r.order, r.held))) = some (true, [(3, true)]) ∧ (s.saved.map SavedWg.order).Nodup
      ∧ s.gangWgs 0 0 = [] ∧ s.gangResuming 0 0 = false)
    ∧ (let s := withD { s0 with groups := [], wgs := [], saved := [record s0] } fun d => { d with cut := [1] }
     (s.grid? 0).map (fun d => (s.cutReached d, d.cut)) = some (true, [1]))
    ∧ (s0.grid? 0).map s0.cutReached = some false
    ∧ (0xFFF : W64).toNat < 4096 ∧ ((ported (fun p => { p with inval := some (4095, 7) }) 2).port 1).inval = some (4095, 7)
    ∧ ([true, false].map fun b => (let s := { ported (fun p => { p with inval := some (0, 0x40000 + 12) }) 2 with groups := (withG s0 fun g => { g with late := if b then [leftOver true] else [] }).groups }
     (s.port 1).inval == some (0, 0x4000C) && s.groups.any (fun g => s.ctxOfGrid g.gid == 0 && (g.mid.toList ++ g.late.map Late.word).any fun w => (w.accs.drop w.done).any fun a =>
       a.place == .glob a.ea && decide (0x4000C % 2 ^ 57 / 2 ^ 12 * 2 ^ 12 ≤ a.ea ∧ a.ea < 0x40000 + 2 ^ (0x4000C % 64))) == b)) = [true, true]
    ∧ ((withD s0 fun d => { d with unl := false }).gridNamed 0x1000).map Grid.unl = some false
    ∧ (let s := ported id 1
     let s := { s with stoker := { s.stoker with faulted := [65535] }, svc := { s.svc with ports := s.svc.ports.set 1 { s.svc.ports[1] with mb := { s.svc.ports[1].mb with own := true } } } }
     (s.port 1).mb.own = true ∧ (65535 : W64).toNat ∈ s.stoker.faulted ∧ (65535 : W64).toNat < 65536)
    ∧ ((ported id 2).port 1).mb.own = false := by decide +kernel
/-- ServiceResetPower: the last unit of a free slot, a USED slot whose unit is idle; ATTEST at the last leaf, and one that waits for its signature; the least and the greatest image;
a held record and its own bytes in host memory. -/
theorem test_meets_ServiceResetPower : ((ported (fun p => { p with mb := { p.mb with own := true } }) 2).port 1).mb.own = true
    ∧ (∃ f n, repairUnits 0 = some (f, n) ∧ f ≤ f + n - 1 ∧ f + n - 1 < f + n) ∧ slotUsed (ported id 2).svc 0 = false ∧ memWf (ported id 2).svc.repairMap = true
    ∧ (let s := { State.reset with svc := { State.reset.svc with repairMap := memWrite repairMapFirst 0 (leBytes 4 (2 ^ 31 + 1)) } }
     slotUsed s.svc (4 * 0) = true ∧ s.svc.inEffect = [] ∧ s.unitIdle 0 = true ∧ 12 * 0 ≤ 11 ∧ 11 < 12 * 0 + 12 ∧ 96 + 0 < s.units.clusters.length)
    ∧ (let s := { ported id 2 with svc := { (ported id 2).svc with leaf := 2 ^ 20 - 1 } }
     (s.port 1).leaf = none ∧ (∀ p ∈ s.svc.ports.toList, p.leaf = none) ∧ s.svc.leaf < 2 ^ 20)
    ∧ ((ported (fun p => { p with leaf := some 7 }) 2).port 1).leaf = some 7
    ∧ (2 ^ 16 ≤ (2 ^ 16 : W64).toNat ∧ (2 ^ 24 : W64).toNat ≤ 2 ^ 24 ∧ (2 ^ 56 - 2 ^ 24 : W64).toNat + (2 ^ 24 : W64).toNat ≤ 2 ^ 56 ∧ (2 ^ 56 - 2 ^ 24 : W64).toNat % 4096 = 0)
    ∧ (let s := withMem { s0 with saved := [record s0] } (hostAddr 1 0x1000) (record s0).bytes
     (s.savedAt 255).map (fun r => (r.held, r.spilled)) = some (true, false) ∧ 0x1000 + (record s0).size ≤ 2 ^ 56 ∧ ((record s0).rewrite (loadBytes s 0 (hostAddr 1 0x1000) (record s0).size)).isSome = true)
    ∧ (let s := withD { s0 with saved := [{ record s0 with held := false, quota := false, byQuota := true }] } fun d => { d with quotaHeld := true }
     (s.savedAt 255).map (fun r => (r.held, r.byQuota, s.quotaHeld r.wg.gid)) = some (false, true, true))
    ∧ s0.memOk := by
  refine ⟨by decide +kernel, ⟨_, _, rfl, by decide +kernel, by decide +kernel⟩, by decide +kernel, by decide +kernel, by decide +kernel, by decide +kernel, by decide +kernel,
    by decide, by decide +kernel, by decide +kernel, by unfold State.memOk; decide +kernel⟩
end Sys2Proof.Tests
end

section
/-!
PROOFS. The dispatcher (04): the cores it chooses for a gang, the groups it starts, the saved gangs it takes back, the requests that cores owe, and the waits it notes.
-/
namespace Sys2Proof.Machine

-- ### A decision notes the waits first, which changes nothing that it goes by

/-- A grid with its candidates' waits noted (04 R81). -/
def State.noted (s : State) (d : Grid) : Grid :=
  { d with waits := (s.candidates d).map fun c => (c, (d.waits.lookup c).getD s.moment) }

theorem State.grids_noteWaits (s : State) : s.noteWaits.grids = s.grids.map s.noted := rfl
@[simp] theorem State.desc_noted (s : State) (d : Grid) : (s.noted d).desc = d.desc := rfl
@[simp] theorem State.gid_noted (s : State) (d : Grid) : (s.noted d).gid = d.gid := rfl

theorem State.grid?_noteWaits (s : State) (gid : Nat) : s.noteWaits.grid? gid = (s.grid? gid).map s.noted := by
  unfold State.grid?
  rw [s.grids_noteWaits, List.find?_map]
  rfl
@[simp] theorem State.desc_of_noteWaits (s : State) (gid : Nat) : s.noteWaits.desc gid = s.desc gid := by
  unfold State.desc
  rw [s.grid?_noteWaits, Option.map_map]
  rfl
@[simp] theorem State.cutK_noteWaits (s : State) (gid : Nat) : s.noteWaits.cutK gid = s.cutK gid := by
  unfold State.cutK
  rw [s.grid?_noteWaits, Option.map_map]
  rfl
@[simp] theorem State.coreTenants_noteWaits (s : State) (core : Nat) : s.noteWaits.coreTenants core = s.coreTenants core := rfl
@[simp] theorem State.load_noteWaits (s : State) (core : Nat) : s.noteWaits.load core = s.load core := rfl
@[simp] theorem State.logicalOf_noteWaits (s : State) (core : Nat) : s.noteWaits.logicalOf core = s.logicalOf core := rfl
@[simp] theorem State.vaultPasses_noteWaits (s : State) (vault chg vdem : Nat) : s.noteWaits.vaultPasses vault chg vdem = s.vaultPasses vault chg vdem := rfl
@[simp] theorem State.charge_noteWaits (s : State) (vault : Nat) : s.noteWaits.charge vault = s.charge vault := by
  simp only [State.charge, State.logicalOf_noteWaits, State.coreTenants_noteWaits, State.desc_of_noteWaits]
@[simp] theorem State.corePart_noteWaits (s : State) (core : Nat) : s.noteWaits.corePart core = s.corePart core := by
  unfold State.corePart
  rw [s.coreTenants_noteWaits]
  cases s.coreTenants core with
  | nil => rfl
  | cons w ws => exact congrArg Desc.part (s.desc_of_noteWaits w.1.gid)
@[simp] theorem State.coreFeasible_noteWaits (s : State) (d : Desc) (n : Need) (core : Nat) :
    s.noteWaits.coreFeasible d n core = s.coreFeasible d n core := by
  simp only [State.coreFeasible, State.logicalOf_noteWaits, State.coreTenants_noteWaits, State.desc_of_noteWaits, State.corePart_noteWaits, State.load_noteWaits]
  rfl

@[simp] theorem leastLoad_noteWaits (s : State) (cs : List Nat) : leastLoad s.noteWaits cs = leastLoad s cs := by
  induction cs with
  | nil => rfl
  | cons c cs ih =>
    simp only [leastLoad, ih]
    rfl
@[simp] theorem State.chooseIn_noteWaits (s : State) (d : Desc) (cl : Nat) (ns : List Need) (chosen charged : List Nat) :
    s.noteWaits.chooseIn d cl ns chosen charged = s.chooseIn d cl ns chosen charged := by
  induction ns generalizing chosen charged with
  | nil => rfl
  | cons n ns ih =>
    simp only [State.chooseIn, ih, leastLoad_noteWaits, State.coreFeasible_noteWaits, State.charge_noteWaits, State.logicalOf_noteWaits, State.vaultPasses_noteWaits]
@[simp] theorem State.chooseCluster_noteWaits (s : State) (d : Desc) (needs : List Need) (cls : List Nat) :
    s.noteWaits.chooseCluster d needs cls = s.chooseCluster d needs cls := by
  have hload : s.noteWaits.load = s.load := rfl
  induction cls with
  | nil => rfl
  | cons n ns ih => simp only [State.chooseCluster, ih, State.chooseIn_noteWaits, hload]
@[simp] theorem State.choose_noteWaits (s : State) (d : Desc) (needs : List Need) : s.noteWaits.choose d needs = s.choose d needs := by
  unfold State.choose
  rw [s.chooseCluster_noteWaits]

@[simp] theorem State.savedGang_noteWaits (s : State) (gid gang : Nat) : s.noteWaits.savedGang gid gang = s.savedGang gid gang := by
  unfold State.savedGang
  rw [s.desc_of_noteWaits]
  rfl
@[simp] theorem State.needs_noted (s : State) (d : Grid) (gang : Nat) : s.noteWaits.needs (s.noted d) gang = s.needs d gang := by
  simp only [State.needs, State.savedGang_noteWaits, State.gid_noted, State.desc_noted]
@[simp] theorem State.firstFit_noted (s : State) (d : Grid) (gs : List Nat) : s.noteWaits.firstFit (s.noted d) gs = s.firstFit d gs := by
  induction gs with
  | nil => rfl
  | cons g gs ih => simp only [State.firstFit, ih, State.choose_noteWaits, State.needs_noted, State.desc_noted]

@[simp] theorem State.savedGangs_noted (s : State) (d : Grid) : s.noteWaits.savedGangs (s.noted d) = s.savedGangs d := by
  simp only [State.savedGangs, State.savedGang_noteWaits, State.cutK_noteWaits, State.gid_noted, State.desc_noted]
  rfl
@[simp] theorem State.taskKeyOf_noted (s : State) (d : Grid) (seq : Nat) : s.noteWaits.taskKeyOf (s.noted d) seq = s.taskKeyOf d seq := by
  simp only [State.taskKeyOf, State.savedGang_noteWaits, State.gid_noted]
  rfl
@[simp] theorem State.taskCandidates_noted (s : State) (d : Grid) : s.noteWaits.taskCandidates (s.noted d) = s.taskCandidates d := by
  simp only [State.taskCandidates, State.savedGangs_noted, State.taskKeyOf_noted]
  rfl
@[simp] theorem State.candidates_noted (s : State) (d : Grid) : s.noteWaits.candidates (s.noted d) = s.candidates d := by
  simp only [State.candidates, State.savedGangs_noted, State.taskCandidates_noted]
  rfl

/-- The moment from which a decision counts the wait of the first candidate. -/
theorem State.lookup_waits_noted {s : State} {d : Grid} {c : Nat} {cs : List Nat} (hc : s.candidates d = c :: cs) :
    (s.noted d).waits.lookup c = some ((d.waits.lookup c).getD s.moment) := by
  simp [State.noted, hc]

-- ### What a decision does

/-- The oldest grid with a candidate that fits has its gang placed (04 R78, R81). -/
theorem execDispatcherDecision_fits {s : State} {d : Grid} {ds : List Grid} {c : Nat} {cs : List Nat} {gang : Nat} {cores : List Nat}
    (hg : s.grids = d :: ds) (hc : s.candidates d = c :: cs) (hf : s.firstFit d (c :: cs) = some (gang, cores)) :
    exec .dispatcherDecision s = .next (s.noteWaits.placeGang (s.noted d) gang cores) := by
  show Host.Outcome.next (s.noteWaits.decide s.noteWaits.grids) = _
  rw [s.grids_noteWaits, hg]
  simp only [List.map_cons, State.decide, State.candidates_noted, State.firstFit_noted, hc, hf]

/-- After 500 us without a candidate that fits, younger grids wait (04 R81). -/
theorem execDispatcherDecision_waited {s : State} {d : Grid} {ds : List Grid} {c : Nat} {cs : List Nat} {t : Moment}
    (hg : s.grids = d :: ds) (hc : s.candidates d = c :: cs) (hf : s.firstFit d (c :: cs) = none) (hw : d.waits.lookup c = some t)
    (hp : s.passed t 500 = true) :
    exec .dispatcherDecision s = .next (s.noteWaits.modGrid d.gid Grid.setAside) := by
  have hpast : ((s.noted d).waits.lookup c).any ((s.noteWaits.modGrid d.gid Grid.setAside).passed · 500) = true := by
    rw [State.lookup_waits_noted hc, hw]
    exact hp
  show Host.Outcome.next (s.noteWaits.decide s.noteWaits.grids) = _
  rw [s.grids_noteWaits, hg]
  simp only [List.map_cons, State.decide, State.candidates_noted, State.firstFit_noted, State.gid_noted, hc, hf]
  exact congrArg Host.Outcome.next (if_pos hpast)

/-- Grids without candidates are passed over. -/
theorem State.decide_idle {s : State} {ds : List Grid} (h : ∀ d ∈ ds, s.candidates d = []) : s.decide ds = s := by
  induction ds with
  | nil => rfl
  | cons d ds ih =>
    simp only [State.decide, h d (List.mem_cons_self ..)]
    exact ih fun x hx => h x (List.mem_cons_of_mem _ hx)

theorem execDispatcherDecision_idle {s : State} (h : ∀ d ∈ s.grids, s.candidates d = []) :
    exec .dispatcherDecision s = .next { s with grids := s.grids.map fun d => { d with waits := [] } } := by
  have hdec : s.noteWaits.decide s.noteWaits.grids = s.noteWaits := by
    refine State.decide_idle fun d hd => ?_
    rw [s.grids_noteWaits] at hd
    obtain ⟨x, hx, rfl⟩ := List.mem_map.mp hd
    rw [s.candidates_noted, h x hx]
  have hgrids : s.grids.map s.noted = s.grids.map fun d => { d with waits := [] } :=
    List.map_congr_left fun d hd => by simp [State.noted, h d hd]
  calc exec .dispatcherDecision s = .next (s.noteWaits.decide s.noteWaits.grids) := rfl
    _ = .next { s with grids := s.grids.map s.noted } := by rw [hdec]; rfl
    _ = _ := by rw [hgrids]

-- ### The cores of a gang

/-- A core that a placement may use whatever it holds (04 R70): active, its cluster in service and not tripped, its sensor sampled and in band 0. -/
def State.coreServes (s : State) (c : Nat) : Prop :=
  (s.logicalOf c).isSome = true ∧ (s.clusterAt (c / 4)).out = false ∧ (s.clusterAt (c / 4)).tripped = false
    ∧ ∃ x, s.units.coreSens[c]? = some x ∧ x.seen = true ∧ x.band = 0

theorem State.coreServes_of_feasible {s : State} {d : Desc} {n : Need} {c : Nat} (h : s.coreFeasible d n c = true) : s.coreServes c := by
  simp only [State.coreFeasible, Bool.and_eq_true, Bool.not_eq_true', beq_iff_eq, List.getD_eq_getElem?_getD] at h
  obtain ⟨⟨⟨⟨⟨hl, ho⟩, ht⟩, hseen⟩, hband⟩, -⟩ := h
  refine ⟨hl, ho, ht, ?_⟩
  cases hx : s.units.coreSens[c]? with
  | none => rw [hx] at hseen; cases hseen
  | some x =>
    rw [hx] at hseen hband
    exact ⟨x, rfl, hseen, hband⟩

theorem leastLoad_mem {s : State} {cs : List Nat} {c : Nat} (h : leastLoad s cs = some c) : c ∈ cs := by
  induction cs generalizing c with
  | nil => cases h
  | cons x xs ih =>
    simp only [leastLoad] at h
    split at h
    next b hb =>
      split at h
      · exact List.mem_cons_of_mem _ (ih (hb.trans h))
      · cases h; exact List.mem_cons_self ..
    next => cases h; exact List.mem_cons_self ..

/-- A cluster that does not fail gives each member a core of its own (04 R76). -/
theorem State.chooseIn_some {s : State} {d : Desc} {cl : Nat} {ns : List Need} {chosen charged cs : List Nat}
    (h : s.chooseIn d cl ns chosen charged = some cs) (hn : chosen.Nodup) :
    ∃ new, cs = chosen ++ new ∧ new.length = ns.length ∧ cs.Nodup ∧ ∀ c ∈ new, c / 4 = cl ∧ s.coreServes c := by
  induction ns generalizing chosen charged with
  | nil =>
    cases h
    exact ⟨[], by simp, rfl, hn, by simp⟩
  | cons n ns ih =>
    simp only [State.chooseIn] at h
    split at h
    next => cases h
    next c hc =>
      have hmem := leastLoad_mem hc
      simp only [List.mem_filter, List.mem_map, List.mem_range, Bool.and_eq_true, Bool.not_eq_true'] at hmem
      obtain ⟨⟨i, hi, rfl⟩, ⟨hfresh, hfeas⟩, -⟩ := hmem
      have hfresh : 4 * cl + i ∉ chosen := by simpa using hfresh
      obtain ⟨new, rfl, hlen, hnodup, hnew⟩ := ih h (by simp [List.nodup_append, hn]; rintro a ha rfl; exact hfresh ha)
      refine ⟨(4 * cl + i) :: new, by simp, by simp [hlen], hnodup, ?_⟩
      rintro c (_ | ⟨_, hm⟩)
      · exact ⟨by omega, State.coreServes_of_feasible hfeas⟩
      · exact hnew c hm

theorem State.chooseCluster_some {s : State} {d : Desc} {needs : List Need} {cls : List Nat} {b : Nat × List Nat}
    (h : s.chooseCluster d needs cls = some b) : ∃ cl ∈ cls, s.chooseIn d cl needs [] [] = some b.2 := by
  induction cls generalizing b with
  | nil => cases h
  | cons n ns ih =>
    have hlater : s.chooseCluster d needs ns = some b → ∃ cl ∈ n :: ns, s.chooseIn d cl needs [] [] = some b.2 := fun h =>
      let ⟨cl, hm, hcl⟩ := ih h
      ⟨cl, List.mem_cons_of_mem _ hm, hcl⟩
    simp only [State.chooseCluster] at h
    split at h
    next => exact hlater h
    next cs hcs =>
      split at h
      next hrest =>
        split at h
        · exact hlater (hrest.trans h)
        · cases h; exact ⟨n, List.mem_cons_self .., hcs⟩
      next => cases h; exact ⟨n, List.mem_cons_self .., hcs⟩

/-- The cores chosen for a gang: as many as it has members, ascending, of one cluster, each of which may be used (04 R76). -/
theorem State.choose_some {s : State} {d : Desc} {needs : List Need} {cores : List Nat} (h : s.choose d needs = some cores) :
    cores.length = needs.length ∧ cores.Pairwise (· < ·) ∧ (∃ cl, ∀ c ∈ cores, c / 4 = cl ∧ c < 416) ∧ ∀ c ∈ cores, s.coreServes c := by
  unfold State.choose at h
  obtain ⟨b, hb, rfl⟩ := Option.map_eq_some_iff.mp h
  obtain ⟨cl, hcl, hin⟩ := State.chooseCluster_some hb
  obtain ⟨new, hnew, hlen, hnodup, hall⟩ := State.chooseIn_some hin List.nodup_nil
  rw [List.nil_append] at hnew
  subst hnew
  have hcl : cl < 104 := List.mem_range.mp hcl
  have hmem : ∀ c, c ∈ (List.range 416).filter b.2.contains ↔ c ∈ b.2 := by
    intro c
    simp only [List.mem_filter, List.mem_range, List.contains_iff_mem, and_iff_right_iff_imp]
    intro hc
    have := (hall c hc).1
    omega
  have hperm : ((List.range 416).filter b.2.contains).Perm b.2 := (List.perm_ext_iff_of_nodup (List.nodup_range.filter _) hnodup).mpr hmem
  refine ⟨hperm.length_eq.trans hlen, List.pairwise_lt_range.filter _, ⟨cl, fun c hc => ⟨?_, ?_⟩⟩, fun c hc => ?_⟩
  · exact (hall c ((hmem c).mp hc)).1
  · exact List.mem_range.mp (List.mem_filter.mp hc).1
  · exact (hall c ((hmem c).mp hc)).2

theorem State.firstFit_some {s : State} {d : Grid} {gs : List Nat} {gang : Nat} {cores : List Nat} (h : s.firstFit d gs = some (gang, cores)) :
    gang ∈ gs ∧ s.choose d.desc (s.needs d gang) = some cores := by
  induction gs with
  | nil => cases h
  | cons g gs ih =>
    simp only [State.firstFit] at h
    split at h
    next hc => cases h; exact ⟨List.mem_cons_self .., hc⟩
    next => exact ⟨List.mem_cons_of_mem _ (ih h).1, (ih h).2⟩

theorem State.cores_length_of_firstFit {s : State} {d : Grid} {gs : List Nat} {gang : Nat} {cores : List Nat}
    (h : s.firstFit d gs = some (gang, cores)) : cores.length = (s.needs d gang).length :=
  (State.choose_some (State.firstFit_some h).2).1

-- ### The start of a gang

/-- A slot that a core gives to a new group is one of its own. -/
theorem State.newSlot_core (s : State) (core : Nat) : s.newSlot core / 48 = core := by
  have hfind : ∀ n (p : Nat → Bool), 0 < n → ((List.range n).find? p).getD 0 < n := by
    intro n p hn
    cases hx : (List.range n).find? p with
    | none => exact hn
    | some x => exact List.mem_range.mp (List.mem_of_find?_eq_some hx)
  simp only [State.newSlot]
  generalize hp : ((List.range 6).find? _).getD 0 = p
  generalize hi : ((List.range 8).find? _).getD 0 = i
  have hp6 : p < 6 := hp ▸ hfind 6 _ (by decide)
  have hi8 : i < 8 := hi ▸ hfind 8 _ (by decide)
  omega

/-- The groups of a workgroup from number `k` on, as they start on a core (02 R38, 04 R69). -/
def State.StartOn (s : State) (d : Grid) (lw core : Nat) (task : Option Task) (k : Nat) (gs : List Group) : Prop :=
  ∀ n g, gs[n]? = some g → ∃ slot, slot / 48 = core ∧ g = newGroup s d lw (k + n) slot task

/-- Starting groups adds them and nothing else but what they know. -/
theorem State.startGroups_eq (s : State) (d : Grid) (lw core : Nat) (task : Option Task) (k n : Nat) :
    ∃ gs o, s.startGroups d lw core task k n = { s with groups := s.groups ++ gs, order := o } ∧ gs.length = n ∧ s.StartOn d lw core task k gs := by
  induction n generalizing s k with
  | zero => exact ⟨[], s.order, by simp [State.startGroups], rfl, by simp [State.StartOn]⟩
  | succ n ih =>
    let g := newGroup s d lw k (s.newSlot core) task
    obtain ⟨gs, o, heq, hlen, hgs⟩ := ih (s.addGroup g d.start) (k + 1)
    refine ⟨g :: gs, o, ?_, by simp [hlen], ?_⟩
    · rw [State.startGroups, heq]
      simp [State.addGroup, State.groupJoin, State.joinView, g]
    · rintro (_ | m) x hx
      · cases hx
        exact ⟨_, s.newSlot_core core, rfl⟩
      · obtain ⟨slot, hslot, rfl⟩ := hgs m x hx
        exact ⟨slot, hslot, by rw [show k + (m + 1) = k + 1 + m by omega]; rfl⟩

/-- A workgroup at its start on a core (02 R38). -/
def newWg (s : State) (d : Grid) (task : Option Task) (lw core : Nat) : Wg :=
  { gid := d.gid, lw := lw, core := core, lcore := (s.logicalOf core).getD 0, spad := [], ws := Vector.replicate 16 0, wsPend := [], stop := none,
    stopAt := 0, hold := false, quota := false, atStep := false, moves := false, migr := false, placed := s.moment, task := task }

theorem State.startWg_eq (s : State) (d : Grid) (lw core : Nat) (task : Option Task) :
    ∃ gs o, s.startWg d lw core task = { s with wgs := s.wgs ++ [newWg s d task lw core], groups := s.groups ++ gs, order := o }
      ∧ gs.length = d.desc.wgsize ∧ s.StartOn d lw core task 0 gs :=
  State.startGroups_eq { s with wgs := s.wgs ++ [newWg s d task lw core] } d lw core task 0 d.desc.wgsize

/-- The groups of workgroups that start on cores, workgroup by workgroup. -/
def State.StartAll (s : State) (d : Grid) (task : Option Task) (ps : List (Nat × Nat)) (gs : List Group) : Prop :=
  ∀ n g, gs[n]? = some g → ∃ p slot, ps[n / d.desc.wgsize]? = some p ∧ slot / 48 = p.2 ∧ g = newGroup s d p.1 (n % d.desc.wgsize) slot task

theorem State.StartAll.cons {s : State} {d : Grid} {task : Option Task} {p : Nat × Nat} {ps : List (Nat × Nat)} {gs gs' : List Group}
    (hlen : gs.length = d.desc.wgsize) (hlen' : gs'.length = ps.length * d.desc.wgsize) (h : s.StartOn d p.1 p.2 task 0 gs) (h' : s.StartAll d task ps gs') :
    s.StartAll d task (p :: ps) (gs ++ gs') := by
  intro n g hg
  by_cases hn : n < d.desc.wgsize
  · rw [List.getElem?_append_left (hlen ▸ hn)] at hg
    obtain ⟨slot, hslot, rfl⟩ := h n g hg
    exact ⟨p, slot, by rw [Nat.div_eq_of_lt hn]; rfl, hslot, by rw [Nat.mod_eq_of_lt hn, Nat.zero_add]⟩
  · rw [List.getElem?_append_right (by omega), hlen] at hg
    have hpos : 0 < d.desc.wgsize := by
      rcases Nat.eq_zero_or_pos d.desc.wgsize with h0 | h0
      · have := (List.getElem?_eq_some_iff.mp hg).1
        rw [hlen', h0, Nat.mul_zero] at this
        omega
      · exact h0
    obtain ⟨q, slot, hq, hslot, rfl⟩ := h' _ g hg
    refine ⟨q, slot, ?_, hslot, ?_⟩
    · rw [Nat.div_eq_sub_div hpos (by omega)]; exact hq
    · rw [Nat.mod_eq_sub_mod (a := n) (by omega)]

/-- Workgroups that start on cores in turn: they and their groups are added (04 R77). -/
theorem State.startWgs_eq (s : State) (d : Grid) (task : Option Task) (ps : List (Nat × Nat)) :
    ∃ gs o, ps.foldl (fun s p => s.startWg d p.1 p.2 task) s
        = { s with wgs := s.wgs ++ ps.map (fun p => newWg s d task p.1 p.2), groups := s.groups ++ gs, order := o }
      ∧ gs.length = ps.length * d.desc.wgsize ∧ s.StartAll d task ps gs := by
  induction ps generalizing s with
  | nil => exact ⟨[], s.order, by simp, by simp, by simp [State.StartAll]⟩
  | cons p ps ih =>
    obtain ⟨gs, o, heq, hlen, hgs⟩ := s.startWg_eq d p.1 p.2 task
    obtain ⟨gs', o', heq', hlen', hgs'⟩ := ih (s.startWg d p.1 p.2 task)
    rw [heq] at heq' hgs'
    refine ⟨gs ++ gs', o', ?_, by rw [List.length_append, hlen, hlen', List.length_cons, Nat.add_one_mul, Nat.add_comm], State.StartAll.cons hlen hlen' hgs hgs'⟩
    rw [List.foldl_cons, heq, heq', List.append_assoc, List.append_assoc]
    rfl

/-- What the start of a gang changes in its grid: the gang leaves the walk, the set-aside list or the tasks (04 R79, 19 R380). -/
def Grid.started (isTask : Bool) (gang : Nat) (x : Grid) : Grid :=
  { x with aside := x.aside.filter (· != gang), walk := if !isTask && gang == x.walk then x.walk + 1 else x.walk,
           tasks := x.tasks.filter fun t => t.seq != gang }

/-- A new gang's start. -/
theorem State.startGang_eq (s : State) (d : Grid) (gang : Nat) (cores : List Nat) :
    ∃ task gs o, (d.isTask = false → task = none) ∧ s.startGang d gang cores
        = { s.modGrid d.gid (Grid.started d.isTask gang) with
              wgs := s.wgs ++ ((gangOf d.desc gang).zip cores).map (fun p => newWg s d task p.1 p.2), groups := s.groups ++ gs, order := o }
      ∧ gs.length = ((gangOf d.desc gang).zip cores).length * d.desc.wgsize ∧ s.StartAll d task ((gangOf d.desc gang).zip cores) gs := by
  obtain ⟨gs, o, heq, hgs⟩ := (s.modGrid d.gid (Grid.started d.isTask gang)).startWgs_eq d
    (if d.isTask then (d.tasks.find? fun t => t.seq == gang).map fun t =>
      { ts := t.ts, seq := t.seq, arg := t.arg, spawns := [], buf := [], dies := [], reads := [], direct := false } else none)
    ((gangOf d.desc gang).zip cores)
  exact ⟨_, gs, o, fun h => by rw [h]; rfl, heq, hgs⟩

theorem State.desc_of_grid? {s : State} {d : Grid} {gid : Nat} (h : s.grid? gid = some d) : s.desc gid = d.desc := by rw [State.desc, h]; rfl

theorem State.desc_modGrid (s : State) (gid x : Nat) {f : Grid → Grid} (hf : ∀ d, (f d).gid = d.gid ∧ (f d).desc = d.desc) :
    (s.modGrid gid f).desc x = s.desc x := by
  have hgid : ∀ d : Grid, (if d.gid == gid then f d else d).gid = d.gid := fun d => by split <;> simp [hf]
  have hdesc : ∀ d : Grid, (if d.gid == gid then f d else d).desc = d.desc := fun d => by split <;> simp [hf]
  simp only [State.desc, State.grid?, State.modGrid, List.find?_map, Option.map_map, Function.comp_def, hgid, hdesc]

theorem State.desc_startGang (s : State) (d : Grid) (gang : Nat) (cores : List Nat) (x : Nat) : (s.startGang d gang cores).desc x = s.desc x := by
  obtain ⟨task, gs, o, -, heq, -⟩ := s.startGang_eq d gang cores
  rw [heq]
  exact s.desc_modGrid d.gid x fun _ => ⟨rfl, rfl⟩

theorem gangOf_getElem? (d : Desc) (gang j : Nat) (h : j < d.gang) : (gangOf d gang)[j]? = some (gang * d.gang + j) := by
  simp [gangOf, h]
@[simp] theorem gangOf_length (d : Desc) (gang : Nat) : (gangOf d gang).length = d.gang := by simp [gangOf]

/-- A member of a gang beside its core: its number and its place. -/
theorem getElem?_gangOf_zip {d : Desc} {gang j : Nat} {cores : List Nat} {p : Nat × Nat} (h : ((gangOf d gang).zip cores)[j]? = some p) :
    p.1 = gang * d.gang + j ∧ cores[j]? = some p.2 := by
  obtain ⟨hl, hc⟩ := List.getElem?_zip_eq_some.mp h
  have hj : j < d.gang := by simpa using (List.getElem?_eq_some_iff.mp hl).1
  rw [gangOf_getElem? d gang j hj] at hl
  exact ⟨(Option.some.inj hl).symm, hc⟩

/-- Each of some workgroups stands beside one of as many cores. -/
theorem exists_mem_zip {lws cores : List Nat} {lw : Nat} (hc : cores.length = lws.length) (h : lw ∈ lws) : ∃ core ∈ cores, (lw, core) ∈ lws.zip cores := by
  obtain ⟨j, hj, rfl⟩ := List.mem_iff_getElem.mp h
  have hjc : j < cores.length := hc ▸ hj
  exact ⟨cores[j], List.getElem_mem hjc, List.mem_iff_getElem.mpr ⟨j, by rw [List.length_zip]; exact Nat.lt_min.mpr ⟨hj, hjc⟩, List.getElem_zip⟩⟩

-- ### Requests that cores owe

/-- A workgroup after some requests to stop: it is the same workgroup on the same core, and what has been asked stays asked. -/
structure Wg.Asked (w w' : Wg) : Prop where
  gid  : w'.gid = w.gid
  lw   : w'.lw = w.lw
  core : w'.core = w.core
  kept : w.stop.isSome = true → w'.stop.isSome = true

theorem Wg.Asked.refl (w : Wg) : w.Asked w := ⟨rfl, rfl, rfl, id⟩
theorem Wg.Asked.trans {w w' w'' : Wg} (h : w.Asked w') (h' : w'.Asked w'') : w.Asked w'' :=
  ⟨h'.gid.trans h.gid, h'.lw.trans h.lw, h'.core.trans h.core, fun x => h'.kept (h.kept x)⟩

theorem Wg.askStop_stop (w : Wg) (fclk : Nat) (why : StopReason) : (w.askStop fclk why).stop.isSome = true := by
  simp only [Wg.askStop]
  split
  · split <;> rfl
  · rfl

theorem State.requestStop_wg {s : State} {w : Wg} (gid lw : Nat) (why : StopReason) (hw : w ∈ s.wgs) :
    ∃ w' ∈ (s.requestStop gid lw why).wgs, w.Asked w' ∧ (w.gid = gid → w.lw = lw → w'.stop.isSome = true) := by
  refine ⟨_, List.mem_map_of_mem hw, ?_⟩
  split
  · exact ⟨⟨rfl, rfl, rfl, fun _ => w.askStop_stop s.fclk why⟩, fun _ _ => w.askStop_stop s.fclk why⟩
  next h => exact ⟨Wg.Asked.refl w, fun hg hl => absurd (by simp [Wg.is, hg, hl]) h⟩

/-- Of a workgroup whose number is among those asked, the request stands. -/
theorem State.requestStops_wg {s : State} {w : Wg} (gid : Nat) (lws : List Nat) (why : StopReason) (hw : w ∈ s.wgs) :
    ∃ w' ∈ (lws.foldl (fun s lw => s.requestStop gid lw why) s).wgs, w.Asked w' ∧ (w.gid = gid → w.lw ∈ lws → w'.stop.isSome = true) := by
  induction lws generalizing s w with
  | nil => exact ⟨w, hw, Wg.Asked.refl w, fun _ h => by cases h⟩
  | cons lw lws ih =>
    obtain ⟨w1, hw1, h1, hs1⟩ := State.requestStop_wg gid lw why hw
    obtain ⟨w2, hw2, h2, hs2⟩ := ih hw1
    refine ⟨w2, hw2, h1.trans h2, fun hg hm => ?_⟩
    rcases List.mem_cons.mp hm with hl | hl
    · exact h2.kept (hs1 hg hl)
    · exact hs2 (h1.gid.trans hg) (h1.lw ▸ hl)

/-- A gang's stop changes workgroups, and records of those placed again, only. -/
theorem State.stopGang_eq (s : State) (gid gang : Nat) (why : StopReason) :
    ∃ ws rs, s.stopGang gid gang why = { s with wgs := ws, resuming := rs } := by
  unfold State.stopGang
  generalize gangOf (s.desc gid) gang = lws
  induction lws generalizing s with
  | nil => exact ⟨s.wgs, s.resuming, rfl⟩
  | cons lw lws ih => exact ih (s.requestStop gid lw why)

/-- Of a member of a gang that is asked for some reason, the request stands. -/
theorem State.stopGangs_wg {s : State} {w : Wg} (gid gang : Nat) (whys : List StopReason) (hw : w ∈ s.wgs) :
    ∃ w' ∈ (whys.foldl (fun s why => s.stopGang gid gang why) s).wgs, w.Asked w'
      ∧ (whys ≠ [] → w.gid = gid → w.lw ∈ gangOf (s.desc gid) gang → w'.stop.isSome = true) := by
  induction whys generalizing s w with
  | nil => exact ⟨w, hw, Wg.Asked.refl w, fun h => absurd rfl h⟩
  | cons why whys ih =>
    obtain ⟨w1, hw1, h1, hs1⟩ := State.requestStops_wg gid (gangOf (s.desc gid) gang) why hw
    obtain ⟨w2, hw2, h2, -⟩ := ih (s := s.stopGang gid gang why) hw1
    exact ⟨w2, hw2, h1.trans h2, fun _ hg hl => h2.kept (hs1 hg hl)⟩

theorem State.takeOwed_eq (s : State) (gid gang : Nat) (cores : List Nat) :
    ∃ ws rs, s.takeOwed gid gang cores = { s with owed := s.owed.filter fun x => !cores.contains x.1, wgs := ws, resuming := rs } := by
  simp only [State.takeOwed]
  generalize (s.owed.filter fun x => cores.contains x.1).map Prod.snd = whys
  generalize s.owed.filter (fun x => !cores.contains x.1) = owed
  induction whys generalizing s with
  | nil => exact ⟨s.wgs, s.resuming, rfl⟩
  | cons why whys ih =>
    obtain ⟨ws, rs, h⟩ := State.stopGang_eq { s with owed := owed } gid gang why
    obtain ⟨ws', rs', h'⟩ := ih { s with wgs := ws, resuming := rs }
    exact ⟨ws', rs', by rw [List.foldl_cons, h, h']⟩

/-- Cores that owe nothing ask nothing (03 R58). -/
theorem State.takeOwed_none {s : State} {cores : List Nat} (gid gang : Nat) (h : ∀ x ∈ s.owed, x.1 ∉ cores) : s.takeOwed gid gang cores = s := by
  have hdue : s.owed.filter (fun x => cores.contains x.1) = [] := List.filter_eq_nil_iff.mpr fun x hx => by simpa using h x hx
  have hrest : s.owed.filter (fun x => !cores.contains x.1) = s.owed := List.filter_eq_self.mpr fun x hx => by simpa using h x hx
  simp only [State.takeOwed, hdue, hrest]
  rfl

/-- What cores owe reaches each member of the gang placed on them (03 R58). -/
theorem State.takeOwed_wg {s : State} {w : Wg} {gid gang : Nat} {cores : List Nat} (h : ∃ x ∈ s.owed, x.1 ∈ cores) (hw : w ∈ s.wgs) (hg : w.gid = gid)
    (hl : w.lw ∈ gangOf (s.desc gid) gang) : ∃ w' ∈ (s.takeOwed gid gang cores).wgs, w.Asked w' ∧ w'.stop.isSome = true := by
  obtain ⟨x, hx, hc⟩ := h
  have hdue : (s.owed.filter fun x => cores.contains x.1).map Prod.snd ≠ [] :=
    List.ne_nil_of_mem (List.mem_map_of_mem (List.mem_filter.mpr ⟨hx, by simpa using hc⟩))
  obtain ⟨w', hw', ha, hs⟩ := State.stopGangs_wg (s := { s with owed := s.owed.filter fun x => !cores.contains x.1 }) gid gang _ hw
  exact ⟨w', hw', ha, hs hdue hg hl⟩

-- ### A saved gang placed again

theorem insertBy_perm (f : Nat → Nat) (x : Nat) (xs : List Nat) : (insertBy f x xs).Perm (x :: xs) := by
  induction xs with
  | nil => exact .refl _
  | cons y ys ih =>
    simp only [insertBy]
    split
    · exact .refl _
    · exact (ih.cons y).trans (.swap x y ys)
theorem sortNat_perm (xs : List Nat) : (sortNat xs).Perm xs := by
  unfold sortNat sortBy
  induction xs with
  | nil => exact .refl _
  | cons x xs ih => exact (insertBy_perm id x _).trans (ih.cons x)

/-- The record of a workgroup among some records. -/
def recordOf (rs : List SavedWg) (lw : Nat) : Option SavedWg := rs.find? fun r => r.wg.lw == lw
/-- The workgroups of some records in ascending number. -/
def membersOf (rs : List SavedWg) : List Nat := sortNat (rs.map fun r => r.wg.lw)

theorem membersOf_length (rs : List SavedWg) : (membersOf rs).length = rs.length := by
  rw [membersOf, (sortNat_perm _).length_eq, List.length_map]
theorem mem_membersOf {rs : List SavedWg} {lw : Nat} : lw ∈ membersOf rs ↔ ∃ r ∈ rs, r.wg.lw = lw := by
  rw [membersOf, (sortNat_perm _).mem_iff, List.mem_map]
theorem recordOf_isSome {rs : List SavedWg} {lw : Nat} (h : lw ∈ membersOf rs) : (recordOf rs lw).isSome = true := by
  obtain ⟨r, hr, rfl⟩ := mem_membersOf.mp h
  exact List.find?_isSome.mpr ⟨r, hr, beq_self_eq_true _⟩
/-- Where each workgroup has one record, a record is that of its workgroup. -/
theorem recordOf_eq {rs : List SavedWg} {r : SavedWg} (hn : (rs.map fun r => r.wg.lw).Nodup) (hr : r ∈ rs) : recordOf rs r.wg.lw = some r := by
  induction rs with
  | nil => cases hr
  | cons x rs ih =>
    rw [List.map_cons, List.nodup_cons] at hn
    obtain ⟨hx, hn⟩ := hn
    rcases List.mem_cons.mp hr with rfl | hr
    · exact List.find?_cons_of_pos (beq_self_eq_true _)
    · have hne : x.wg.lw ≠ r.wg.lw := fun he => hx (he ▸ List.mem_map_of_mem hr)
      exact (List.find?_cons_of_neg (by rwa [beq_iff_eq])).trans (ih hn hr)

/-- A saved gang needs a core for each of its records (12 R249). -/
theorem State.needs_length {s : State} {d : Grid} {gang : Nat} (h : s.savedGang d.gid gang ≠ []) :
    (s.needs d gang).length = (s.savedGang d.gid gang).length := by
  have hrecs : ∀ rs : List SavedWg, ((membersOf rs).filterMap (recordOf rs)).length = rs.length := fun rs => by
    rw [List.filterMap_length_eq_length.mpr fun lw hlw => recordOf_isSome hlw, membersOf_length]
  unfold State.needs
  cases hs : s.savedGang d.gid gang with
  | nil => exact absurd hs h
  | cons r rs => exact (List.length_map _).trans (hrecs (r :: rs))

/-- A saved workgroup on the core that it gets (22 R433, R436). -/
def State.onCore (s : State) (r : SavedWg) (core : Nat) : SavedWg :=
  { r with wg := { r.wg with core := core, lcore := if r.migr then r.wg.lcore else (s.logicalOf core).getD 0, placed := s.moment } }
/-- The records of a gang on their cores. -/
def State.onCores (s : State) (rs : List SavedWg) (cores : List Nat) : List SavedWg :=
  ((membersOf rs).zip cores).filterMap fun p => (recordOf rs p.1).map fun r => s.onCore r p.2

theorem State.returnGang_eq (s : State) (d : Grid) (gang : Nat) (cores : List Nat) :
    s.returnGang d gang cores = { s with saved := s.saved.filter fun r => !(r.wg.gid == d.gid && gangIdx d.desc r.wg.lw == gang),
                                         resuming := s.resuming ++ s.onCores (s.savedGang d.gid gang) cores } := rfl

theorem State.onCores_length (s : State) {rs : List SavedWg} {cores : List Nat} (hc : cores.length = rs.length) : (s.onCores rs cores).length = rs.length := by
  have hall : ∀ p ∈ (membersOf rs).zip cores, ((recordOf rs p.1).map fun r => s.onCore r p.2).isSome = true := fun p hp => by
    rw [Option.isSome_map]
    exact recordOf_isSome (List.of_mem_zip hp).1
  rw [State.onCores, List.filterMap_length_eq_length.mpr hall, List.length_zip, membersOf_length, hc, Nat.min_self]

theorem State.onCores_mem (s : State) {rs : List SavedWg} {cores : List Nat} {r : SavedWg} (hc : cores.length = rs.length)
    (hn : (rs.map fun r => r.wg.lw).Nodup) (hr : r ∈ rs) : ∃ core ∈ cores, s.onCore r core ∈ s.onCores rs cores := by
  obtain ⟨core, hcore, hp⟩ := exists_mem_zip (hc.trans (membersOf_length rs).symm) (mem_membersOf.mpr ⟨r, hr, rfl⟩)
  exact ⟨core, hcore, List.mem_filterMap.mpr ⟨(r.wg.lw, core), hp, by rw [recordOf_eq hn hr]; rfl⟩⟩

-- ### The waits that a decision leaves

/-- The waits of the grids, by name. -/
def State.gridWaits (s : State) : List (Nat × List (Nat × Moment)) := s.grids.map fun d => (d.gid, d.waits)

theorem State.grid?_waits (s : State) (gid : Nat) : (s.grid? gid).map (fun d => (d.gid, d.waits)) = s.gridWaits.find? fun x => x.1 == gid := by
  rw [State.gridWaits, List.find?_map]
  rfl

theorem State.gridWaits_modGrid (s : State) (gid : Nat) {f : Grid → Grid} (hf : ∀ x, ((f x).gid, (f x).waits) = (x.gid, x.waits)) :
    (s.modGrid gid f).gridWaits = s.gridWaits := by
  simp only [State.gridWaits, State.modGrid, List.map_map]
  refine List.map_congr_left fun x _ => ?_
  by_cases hx : (x.gid == gid) = true
  · simp only [Function.comp, if_pos hx, hf]
  · simp only [Function.comp, if_neg hx]

theorem State.gridWaits_placeGang (s : State) (d : Grid) (gang : Nat) (cores : List Nat) : (s.placeGang d gang cores).gridWaits = s.gridWaits := by
  have howed : ∀ t : State, (t.takeOwed d.gid gang cores).gridWaits = t.gridWaits := fun t => by
    obtain ⟨ws, rs, h⟩ := t.takeOwed_eq d.gid gang cores
    rw [h]
    rfl
  unfold State.placeGang
  rw [howed]
  split
  · obtain ⟨task, gs, o, -, heq, -⟩ := s.startGang_eq d gang cores
    rw [heq]
    exact s.gridWaits_modGrid d.gid fun _ => rfl
  · rfl

theorem Grid.setAside_waits (x : Grid) : (x.setAside.gid, x.setAside.waits) = (x.gid, x.waits) := by
  unfold Grid.setAside
  split <;> rfl

theorem State.gridWaits_decide (s : State) (ds : List Grid) : (s.decide ds).gridWaits = s.gridWaits := by
  induction ds generalizing s with
  | nil => rfl
  | cons d ds ih =>
    simp only [State.decide]
    split
    next => exact ih s
    next =>
      split
      next => exact s.gridWaits_placeGang d _ _
      next =>
        have haside : (s.modGrid d.gid Grid.setAside).gridWaits = s.gridWaits := s.gridWaits_modGrid d.gid Grid.setAside_waits
        split
        · exact haside
        · exact (ih _).trans haside

/-- After a decision a grid waits for what it noted at its start. -/
theorem waits_of_dispatcherDecision {gid : Nat} {s u : State} {d d' : Grid} (h : exec .dispatcherDecision s = .next u) (hd : s.grid? gid = some d)
    (hd' : u.grid? gid = some d') : d'.waits = (s.noted d).waits := by
  have hu : s.noteWaits.decide s.noteWaits.grids = u := by injection h
  have hw : u.gridWaits = s.noteWaits.gridWaits := hu ▸ s.noteWaits.gridWaits_decide _
  have hfind := u.grid?_waits gid
  rw [hw, ← s.noteWaits.grid?_waits gid, s.grid?_noteWaits, hd, hd'] at hfind
  exact congrArg Prod.snd (Option.some.inj hfind)

end Sys2Proof.Machine
end

section
/-!
PROOFS. What a dispatcher decision places (02 R38, 04 R69, R76-R78, R80, R81).
-/
namespace Sys2Proof.Machine

/-- A group of a grid's new workgroup at its start (02 R38). -/
theorem newGroup_start (s : State) (d : Grid) (lw k slot : Nat) :
    let g := newGroup s d lw k slot none
    g.spc = BitVec.ofNat 32 d.ko.entry ∧ g.sregs[1] = d.desc.args ∧ (∀ j : Fin 256, j ≠ 1 → g.sregs[j] = 0) ∧ g.regs.length = 8 * d.desc.rgran
      ∧ (∀ r ∈ g.regs, r.st = .void) ∧ g.bound = 8 * d.desc.vbnd0 ∧ g.masks[0] = BitVec.allOnes 32 ∧ (∀ j : Fin 8, j ≠ 0 → g.masks[j] = 0)
      ∧ g.exm = BitVec.allOnes 32 ∧ g.tpart = 5 ∧ g.cause = 0 ∧ g.runq = [] ∧ g.recipes = [] ∧ g.pins = Vector.replicate 8 0 ∧ g.stepn = 0
      ∧ g.progto = d.desc.progto ∧ g.ctrs = Vector.replicate 12 0 := by
  have hsregs : ∀ j : Fin 256, j ≠ 1 → (newGroup s d lw k slot none).sregs[j] = 0 := fun j hj => by
    have hne : (1 : Nat) ≠ j.val := fun h => hj (Fin.ext h.symm)
    simp [newGroup, hne]
  have hmasks : ∀ j : Fin 8, j ≠ 0 → (newGroup s d lw k slot none).masks[j] = 0 := fun j hj => by
    have hne : (0 : Nat) ≠ j.val := fun h => hj (Fin.ext h.symm)
    simp [newGroup, hne]
  have hregs : ∀ r ∈ (newGroup s d lw k slot none).regs, r.st = .void := fun r hr => by rw [List.eq_of_mem_replicate hr]; rfl
  exact ⟨rfl, rfl, hsregs, List.length_replicate, hregs, rfl, rfl, hmasks, rfl, rfl, rfl, rfl, rfl, rfl, rfl, rfl, rfl⟩

section
variable {s : State} {d : Grid} {ds : List Grid} {c : Nat} {cs : List Nat} {gang : Nat} {cores : List Nat}

/-- A gang that has no saved record gets as many cores as it has members. -/
theorem cores_length_of_new (hf : s.firstFit d (c :: cs) = some (gang, cores)) (hsaved : s.savedGang d.gid gang = []) : cores.length = d.desc.gang := by
  rw [State.cores_length_of_firstFit hf, State.needs, hsaved, List.length_replicate]

/-- A decision that places a new gang starts it, and gives it what its cores owe. -/
theorem execDispatcherDecision_starts (hg : s.grids = d :: ds) (hc : s.candidates d = c :: cs) (hf : s.firstFit d (c :: cs) = some (gang, cores))
    (hsaved : s.savedGang d.gid gang = []) :
    exec .dispatcherDecision s = .next ((s.noteWaits.startGang (s.noted d) gang cores).takeOwed d.gid gang cores) := by
  rw [execDispatcherDecision_fits hg hc hf, State.placeGang, State.savedGang_noteWaits, State.gid_noted, hsaved]
  rfl

/-- A decision that places a saved gang gives it its cores, and what they owe. -/
theorem execDispatcherDecision_returns (hg : s.grids = d :: ds) (hc : s.candidates d = c :: cs) (hf : s.firstFit d (c :: cs) = some (gang, cores))
    (hsaved : s.savedGang d.gid gang ≠ []) :
    exec .dispatcherDecision s = .next ((s.noteWaits.returnGang (s.noted d) gang cores).takeOwed d.gid gang cores) := by
  have hsome : ¬ (s.savedGang d.gid gang).isEmpty = true := by rwa [List.isEmpty_iff]
  rw [execDispatcherDecision_fits hg hc hf, State.placeGang, State.savedGang_noteWaits, State.gid_noted, if_neg hsome]

/-- A new gang starts whole on its cores (04 R69, R77). -/
theorem dispatcherDecision_starts_gang (hg : s.grids = d :: ds) (hc : s.candidates d = c :: cs) (hf : s.firstFit d (c :: cs) = some (gang, cores))
    (hsaved : s.savedGang d.gid gang = []) (htask : d.isTask = false) (howed : ∀ x ∈ s.owed, x.1 ∉ cores) :
    ∃ u ws gs, exec .dispatcherDecision s = .next u ∧ u.mem = s.mem ∧ u.wgs = s.wgs ++ ws ∧ u.groups = s.groups ++ gs ∧ ws.length = d.desc.gang
      ∧ gs.length = d.desc.gang * d.desc.wgsize
      ∧ (∀ j w, ws[j]? = some w → w.gid = d.gid ∧ w.lw = gang * d.desc.gang + j ∧ cores[j]? = some w.core ∧ w.lcore = (s.logicalOf w.core).getD 0 ∧ w.spad = []
          ∧ w.ws = Vector.replicate 16 0 ∧ w.stop = none ∧ w.placed = s.moment)
      ∧ (∀ n g, gs[n]? = some g → g.gid = d.gid ∧ g.lw = gang * d.desc.gang + n / d.desc.wgsize ∧ g.k = n % d.desc.wgsize ∧ cores[n / d.desc.wgsize]? = some (g.slot / 48)
          ∧ g.part = g.slot % 48 / 8 ∧ g.spc = BitVec.ofNat 32 d.ko.entry ∧ g.sregs[1] = d.desc.args ∧ g.regs.length = 8 * d.desc.rgran) := by
  obtain ⟨task, gs, o, hnone, heq, hlen, hgs⟩ := s.noteWaits.startGang_eq (s.noted d) gang cores
  obtain rfl := hnone htask
  have hzip : ((gangOf d.desc gang).zip cores).length = d.desc.gang := by
    rw [List.length_zip, gangOf_length, cores_length_of_new hf hsaved, Nat.min_self]
  refine ⟨s.noteWaits.startGang (s.noted d) gang cores,
    ((gangOf d.desc gang).zip cores).map fun p => newWg s.noteWaits (s.noted d) none p.1 p.2, gs, ?_, ?_, ?_, ?_, ?_, ?_, ?_, ?_⟩
  · rw [execDispatcherDecision_starts hg hc hf hsaved, State.takeOwed_none]
    rw [heq]
    exact howed
  · rw [heq]; rfl
  · rw [heq]; rfl
  · rw [heq]; rfl
  · rw [List.length_map, hzip]
  · rw [hlen, State.desc_noted, hzip]
  · intro j w hw
    rw [List.getElem?_map] at hw
    obtain ⟨p, hp, rfl⟩ := Option.map_eq_some_iff.mp hw
    obtain ⟨hlw, hcore⟩ := getElem?_gangOf_zip hp
    exact ⟨rfl, hlw, hcore, rfl, rfl, rfl, rfl, rfl⟩
  · intro n g hn
    obtain ⟨p, slot, hp, hslot, rfl⟩ := hgs n g hn
    obtain ⟨hlw, hcore⟩ := getElem?_gangOf_zip hp
    exact ⟨rfl, hlw, rfl, hcore.trans (congrArg some hslot.symm), rfl, rfl, rfl, List.length_replicate⟩

/-- The request that its cores owe reaches each member of a new gang (03 R58). -/
theorem dispatcherDecision_passes_owed (hg : s.grids = d :: ds) (hc : s.candidates d = c :: cs) (hf : s.firstFit d (c :: cs) = some (gang, cores))
    (hsaved : s.savedGang d.gid gang = []) (hd : s.grid? d.gid = some d) (howed : ∃ x ∈ s.owed, x.1 ∈ cores) :
    ∃ u, exec .dispatcherDecision s = .next u ∧ (∀ lw ∈ gangOf d.desc gang, ∃ w ∈ u.wgs, w.gid = d.gid ∧ w.lw = lw ∧ w.core ∈ cores ∧ w.stop.isSome = true)
      ∧ ∀ x ∈ u.owed, x.1 ∉ cores := by
  obtain ⟨task, gs, o, -, heq, -⟩ := s.noteWaits.startGang_eq (s.noted d) gang cores
  refine ⟨_, execDispatcherDecision_starts hg hc hf hsaved, fun lw hlw => ?_, ?_⟩
  · obtain ⟨core, hcore, hp⟩ := exists_mem_zip ((cores_length_of_new hf hsaved).trans (gangOf_length d.desc gang).symm) hlw
    have hw : newWg s.noteWaits (s.noted d) task lw core ∈ (s.noteWaits.startGang (s.noted d) gang cores).wgs := by
      rw [heq]
      exact List.mem_append_right _ (List.mem_map_of_mem hp)
    have hdesc : (s.noteWaits.startGang (s.noted d) gang cores).desc d.gid = d.desc := by
      rw [State.desc_startGang, State.desc_of_noteWaits, State.desc_of_grid? hd]
    have hdue : ∃ x ∈ (s.noteWaits.startGang (s.noted d) gang cores).owed, x.1 ∈ cores := by rw [heq]; exact howed
    have hmember : lw ∈ gangOf ((s.noteWaits.startGang (s.noted d) gang cores).desc d.gid) gang := hdesc.symm ▸ hlw
    obtain ⟨w, hw, ha, hstop⟩ := State.takeOwed_wg (gid := d.gid) hdue hw rfl hmember
    exact ⟨w, hw, ha.gid, ha.lw, ha.core ▸ hcore, hstop⟩
  · obtain ⟨ws, rs, h⟩ := State.takeOwed_eq (s.noteWaits.startGang (s.noted d) gang cores) d.gid gang cores
    rw [h]
    intro x hx
    simpa using (List.mem_filter.mp hx).2

/-- A saved gang gets its cores and leaves the saved ones (22 R433, R436). -/
theorem dispatcherDecision_returns_gang (hg : s.grids = d :: ds) (hc : s.candidates d = c :: cs) (hf : s.firstFit d (c :: cs) = some (gang, cores))
    (hn : ((s.savedGang d.gid gang).map fun r => r.wg.lw).Nodup) (hsaved : s.savedGang d.gid gang ≠ []) (hd : s.grid? d.gid = some d)
    (howed : ∀ x ∈ s.owed, x.1 ∉ cores) :
    ∃ u, exec .dispatcherDecision s = .next u ∧ u.mem = s.mem ∧ u.wgs = s.wgs ∧ u.groups = s.groups ∧ u.savedGang d.gid gang = []
      ∧ u.resuming.length = s.resuming.length + (s.savedGang d.gid gang).length
      ∧ ∀ r ∈ s.savedGang d.gid gang, ∃ core ∈ cores,
          { r with wg := { r.wg with core := core, placed := s.moment, lcore := if r.migr then r.wg.lcore else (s.logicalOf core).getD 0 } } ∈ u.resuming := by
  have hlen : cores.length = (s.savedGang d.gid gang).length := by rw [State.cores_length_of_firstFit hf, State.needs_length hsaved]
  have hres : (s.noteWaits.returnGang (s.noted d) gang cores).resuming = s.resuming ++ s.onCores (s.savedGang d.gid gang) cores := by
    rw [State.returnGang_eq, State.gid_noted, State.savedGang_noteWaits]
    rfl
  refine ⟨s.noteWaits.returnGang (s.noted d) gang cores, ?_, rfl, rfl, rfl, ?_, ?_, fun r hr => ?_⟩
  · rw [execDispatcherDecision_returns hg hc hf hsaved, State.takeOwed_none]
    exact howed
  · have hdesc : (s.noteWaits.returnGang (s.noted d) gang cores).desc d.gid = d.desc := by
      rw [State.returnGang_eq]
      exact (s.desc_of_noteWaits d.gid).trans (State.desc_of_grid? hd)
    rw [State.savedGang, hdesc, State.returnGang_eq]
    simp [List.filter_filter]
  · rw [hres, List.length_append, s.onCores_length hlen]
  · obtain ⟨core, hcore, hm⟩ := s.onCores_mem hlen hn hr
    exact ⟨core, hcore, hres ▸ List.mem_append_right _ hm⟩

end

/-- Settles O54, from what one decision does to the oldest grid with a candidate. -/
theorem placementStartsGroups : Obligations.PlacementStartsGroups := by
  refine ⟨newGroup_start, ?_, ?_, ?_, ?_, ?_, ?_, ?_, fun s => execDispatcherDecision_idle⟩
  · intro s d gs gang cores hf
    obtain ⟨hmem, hch⟩ := State.firstFit_some hf
    obtain ⟨-, hasc, hcl, hserves⟩ := State.choose_some hch
    exact ⟨hmem, State.cores_length_of_firstFit hf, hasc, hcl, hserves⟩
  · intro s d ds c cs gang cores
    exact dispatcherDecision_starts_gang
  · intro s d ds c cs gang cores hg hc hf hsaved _
    exact dispatcherDecision_passes_owed hg hc hf hsaved
  · intro s d ds c cs gang cores
    exact dispatcherDecision_returns_gang
  · intro s d ds c cs t hg hc hf hw hp
    exact ⟨_, execDispatcherDecision_waited hg hc hf hw hp, rfl, rfl, rfl, rfl, rfl⟩
  · intro gid s u d d' h hd hd' c t hm
    rw [waits_of_dispatcherDecision h hd hd'] at hm
    obtain ⟨x, hx, hxe⟩ := List.mem_map.mp hm
    cases hxe
    exact ⟨hx, rfl⟩
  · intro s t n
    simp [State.passed]

end Sys2Proof.Machine
end

section
/-!
PROOFS. What the issue of a lane word changes, and what it keeps (07 R128, R133, R138, R139, 22 R425, 15 R334-R337).
-/
namespace Sys2Proof.Machine

-- ### Each part of the issue writes fields of its own

theorem Group.noteRaces_eq (g : Group) (effs : List Eff) : g.noteRaces effs = { g with races := (g.noteRaces effs).races } := by
  unfold Group.noteRaces
  dsimp only
  split <;> rfl
/-- Without a tile in its window no write is noted (15 R336). -/
theorem Group.noteRaces_closed {effs : List Eff} (g : Group) (h : g.windowTiles = []) : g.noteRaces effs = g := by
  unfold Group.noteRaces
  rw [h]
  rfl
theorem Group.countUp_eq (g : Group) (c : BitVec 4) : g.countUp c = { g with ctrs := (g.countUp c).ctrs } := by
  unfold Group.countUp
  split <;> rfl
theorem Group.countUp_ctrs (g : Group) (c : BitVec 4) (k : Fin 12) : (g.countUp c).ctrs[k] = if c.toNat = k.val then g.ctrs[k] + 1 else g.ctrs[k] := by
  unfold Group.countUp
  split
  · simp only [Fin.getElem_fin, Vector.getElem_set]
    split <;> simp_all
  · rw [if_neg (by omega)]
theorem Group.fly_eq (g : Group) (h : LaneCtl) (cls : WordClass) (lat : Nat) (ready : Bool) (effs : List Eff) :
    g.fly h cls lat ready effs = { g with nextId := g.nextId + 1, flights := (g.fly h cls lat ready effs).flights } := by
  unfold Group.fly
  split <;> rfl
/-- A word with results takes off with them (07 R138). -/
theorem Group.fly_flights {g : Group} {h : LaneCtl} {cls : WordClass} {lat : Nat} {ready : Bool} {effs : List Eff} (he : effs ≠ []) :
    (g.fly h cls lat ready effs).flights
      = g.flights ++ [{ id := g.nextId, ctr := h.setc, cls := cls, lat := lat, age := 0, ready := ready, effs := effs }] := by
  unfold Group.fly
  rw [if_neg fun ⟨_, hnil, _⟩ => he hnil]
theorem Group.popRun_eq (g : Group) : g.popRun = { g with runq := g.popRun.runq } := by
  unfold Group.popRun
  cases g.runq <;> rfl
/-- The word leaves its run, which remembers it (07 R128). -/
theorem Group.popRun_runq {g : Group} {r : Run} {rs : List Run} (h : g.runq = r :: rs) :
    g.popRun.runq = if r.buf.length ≤ 1 then rs else { r with next := r.next + 1, buf := r.buf.drop 1, prev := r.buf.head?.join } :: rs := by
  unfold Group.popRun
  rw [h]

theorem Group.noteRaces_slack (g : Group) (effs : List Eff) : (g.noteRaces effs).slack = g.slack := by rw [Group.noteRaces_eq]
theorem Group.countUp_slack (g : Group) (c : BitVec 4) : (g.countUp c).slack = g.slack := by rw [Group.countUp_eq]
theorem Group.fly_slack (g : Group) (h : LaneCtl) (cls : WordClass) (lat : Nat) (ready : Bool) (effs : List Eff) :
    (g.fly h cls lat ready effs).slack = g.slack := by rw [Group.fly_eq]
theorem Group.popRun_slack (g : Group) : g.popRun.slack = g.slack := by rw [Group.popRun_eq]

theorem getLsbD_allCounters : ∀ k : Fin 12, (0xFFF : BitVec 12).getLsbD k.val = true := by decide
/-- The counters that a word has awaited: those of WAIT, behind a switch point all (07 R139). -/
theorem Group.awaits_getLsbD (g : Group) (h : LaneCtl) (k : Fin 12) : (g.awaits h).getLsbD k.val = true ↔ g.parked = true ∨ h.wait.getLsbD k.val = true := by
  unfold Group.awaits
  cases g.parked with
  | false => simp
  | true => exact iff_of_true (getLsbD_allCounters k) (.inl rfl)

section
variable (g : Group) (now : Nat) (h : LaneCtl) (cls : WordClass) (lat : Nat) (ready : Bool) (effs : List Eff)

/-- What the issue keeps: every field but these. -/
theorem Group.issued_eq :
    ∃ ctrs flights runq slack, g.issued now h cls lat ready effs =
      { g with races := (g.noteRaces effs).races, ctrs := ctrs, nextId := g.nextId + 1, flights := flights, runq := runq, slack := slack,
               parked := h.sw, skip := g.clearSkip true, last := some (now, h.setc), passed := 0 } := by
  have hnote := g.noteRaces_eq effs
  generalize (g.noteRaces effs).races = races at hnote ⊢
  obtain ⟨ctrs, hcount⟩ : ∃ ctrs, ({ g with races := races } : Group).countUp h.setc = { g with races := races, ctrs := ctrs } := ⟨_, Group.countUp_eq _ _⟩
  obtain ⟨flights, hfly⟩ : ∃ flights, ({ g with races := races, ctrs := ctrs } : Group).fly h cls lat ready effs
      = { g with races := races, ctrs := ctrs, nextId := g.nextId + 1, flights := flights } := ⟨_, Group.fly_eq _ _ _ _ _ _⟩
  obtain ⟨runq, hpop⟩ : ∃ runq, ({ g with races := races, ctrs := ctrs, nextId := g.nextId + 1, flights := flights } : Group).popRun
      = { g with races := races, ctrs := ctrs, nextId := g.nextId + 1, flights := flights, runq := runq } := ⟨_, Group.popRun_eq _⟩
  exact ⟨ctrs, flights, runq, _, by rw [Group.issued, hnote, hcount, hfly, hpop]; rfl⟩

/-- The counter of SETC rises by one (07 R133). -/
theorem Group.issued_ctrs (k : Fin 12) :
    (g.issued now h cls lat ready effs).ctrs[k] = if h.setc.toNat = k.val then g.ctrs[k] + 1 else g.ctrs[k] := by
  unfold Group.issued Group.laneWaited
  rw [Group.popRun_eq, Group.fly_eq]
  exact ((g.noteRaces effs).countUp_ctrs h.setc k).trans (by rw [Group.noteRaces_eq])

theorem Group.issued_runq {r : Run} {rs : List Run} (hr : g.runq = r :: rs) :
    (g.issued now h cls lat ready effs).runq
      = if r.buf.length ≤ 1 then rs else { r with next := r.next + 1, buf := r.buf.drop 1, prev := r.buf.head?.join } :: rs :=
  Group.popRun_runq (by rw [Group.fly_eq, Group.countUp_eq, Group.noteRaces_eq]; exact hr)

theorem Group.issued_flights (he : effs ≠ []) :
    (g.issued now h cls lat ready effs).flights
      = g.flights ++ [{ id := g.nextId, ctr := h.setc, cls := cls, lat := lat, age := 0, ready := ready, effs := effs }] := by
  unfold Group.issued Group.laneWaited
  rw [Group.popRun_eq]
  refine (Group.fly_flights he).trans ?_
  rw [Group.countUp_eq, Group.noteRaces_eq]

/-- The stores on the counters that the word has awaited are complete (15 R334). -/
theorem Group.issued_slack :
    (g.issued now h cls lat ready effs).slack
      = g.slack.map fun x => { x with waited := x.waited || decide (∃ k : Fin 12, x.ctr.toNat = k.val ∧ (g.parked = true ∨ h.wait.getLsbD k.val = true)) } := by
  have hslack : (g.issued now h cls lat ready effs).slack
      = g.slack.map fun x => if x.ctr.toNat < 12 && (g.awaits h).getLsbD x.ctr.toNat then { x with waited := true } else x :=
    congrArg (List.map _) (by rw [Group.popRun_slack, Group.fly_slack, Group.countUp_slack, Group.noteRaces_slack])
  have hcovered : ∀ x : Slack, (x.ctr.toNat < 12 && (g.awaits h).getLsbD x.ctr.toNat) = true
      ↔ ∃ k : Fin 12, x.ctr.toNat = k.val ∧ (g.parked = true ∨ h.wait.getLsbD k.val = true) := fun x => by
    rw [Bool.and_eq_true, decide_eq_true_eq]
    exact ⟨fun ⟨hlt, ha⟩ => ⟨⟨_, hlt⟩, rfl, (g.awaits_getLsbD h ⟨_, hlt⟩).mp ha⟩, fun ⟨k, hk, ha⟩ => hk ▸ ⟨k.isLt, (g.awaits_getLsbD h k).mpr ha⟩⟩
  rw [hslack]
  refine List.map_congr_left fun x _ => ?_
  by_cases hx : ∃ k : Fin 12, x.ctr.toNat = k.val ∧ (g.parked = true ∨ h.wait.getLsbD k.val = true)
  · rw [if_pos ((hcovered x).mpr hx), decide_eq_true hx, Bool.or_true]
  · rw [if_neg (mt (hcovered x).mp hx), decide_eq_false hx, Bool.or_false]

end

/-- SKIP is spent where it names a word of the stream, outside a handler (22 R425). -/
theorem Group.clearSkip_spent {g : Group} {lane : Bool} {n : Nat} (hi : g.inh = false) (hs : g.skip = some (lane, n)) : g.clearSkip lane = none := by
  simp [Group.clearSkip, hi, hs]
theorem Group.clearSkip_kept {g : Group} {lane : Bool} (h : g.inh = true ∨ ∀ n, g.skip ≠ some (lane, n)) : g.clearSkip lane = g.skip := by
  unfold Group.clearSkip
  rcases h with hi | hs
  · simp [hi]
  · rw [if_neg]
    rw [Bool.and_eq_true, beq_iff_eq, Option.map_eq_some_iff]
    rintro ⟨-, ⟨b, n⟩, hsk, rfl⟩
    exact hs n hsk

/-- Settles O30: each part of the issue writes fields of its own, and `Group.issued_eq` names them all. -/
theorem laneIssueFrame : Obligations.LaneIssueFrame := by
  intro g now h cls lat ready effs g'
  have hctrs : ∀ k : Fin 12, g'.ctrs[k] = _ := g.issued_ctrs now h cls lat ready effs
  have hrunq : ∀ r rs, g.runq = r :: rs → g'.runq = _ := fun r rs => g.issued_runq now h cls lat ready effs
  have hflights : effs ≠ [] → g'.flights = _ := g.issued_flights now h cls lat ready effs
  have hslack : g'.slack = _ := g.issued_slack now h cls lat ready effs
  obtain ⟨_, _, _, _, hframe⟩ : ∃ ctrs flights runq slack, g' = _ := g.issued_eq now h cls lat ready effs
  have hraces : g.windowTiles = [] → g'.races = g.races := fun hw => by
    rw [hframe]
    exact (congrArg Group.races (g.noteRaces_closed (effs := effs) hw) :)
  have hskip : g'.skip = g.clearSkip true := by rw [hframe]
  clear_value g'
  refine ⟨hctrs, by rw [hframe], by rw [hframe], ?_, ?_, ?_, ?_, by rw [hslack, List.length_map], ?_, ?_⟩
  · intro r rs hr
    exact ⟨fun hlast => by rw [hrunq r rs hr, if_pos hlast], fun hmore => by rw [hrunq r rs hr, if_neg (by omega)]⟩
  · exact fun he => ⟨_, hflights he, rfl, rfl, rfl, rfl, rfl⟩
  · exact fun n hi hs => hskip.trans (Group.clearSkip_spent hi hs)
  · exact fun hk => hskip.trans (Group.clearSkip_kept hk)
  · exact fun i x hx => by rw [hslack, List.getElem?_map, hx]; rfl
  · clear hctrs hrunq hflights hslack hskip
    subst hframe
    exact ⟨rfl, rfl, rfl, rfl, rfl, rfl, rfl, rfl, rfl, hraces, rfl, rfl, rfl, rfl, rfl, rfl, rfl, rfl, rfl, rfl, rfl, rfl, rfl, rfl, rfl, rfl, rfl, rfl, rfl,
      rfl, rfl, rfl, rfl, rfl, rfl, rfl, rfl, rfl, rfl, rfl, rfl⟩

end Sys2Proof.Machine
end

section
/-!
PROOFS. What every lane word checks before it acts (07 R133-R145, 12 R244): eligibility, the shared issue that each word of the lane stream goes through with the
registers of its fields, a deferred load error, and a register outside the allotment.
-/
namespace Sys2Proof.Machine
open Sys2Proof.Claims

-- ### Eligibility

/-- The distance of 07 R135 as the statements write it. -/
theorem issueGap_eq_gap (ratio : Nat) (dist : BitVec 4) : issueGap ratio dist = gap ratio dist.toNat := by
  unfold issueGap gap
  split
  · rfl
  · rw [if_neg (by decide), if_pos rfl]; omega
  · rename_i h1 h4
    rw [if_neg h1, if_neg h4]

/-- A cluster has 192 slots (01 R19). -/
theorem Group.cluster_eq (g : Group) : g.cluster = g.slot / 192 := Nat.div_div_eq_div_mul g.slot 48 4

theorem State.spaced_iff {s : State} {g : Group} {h : LaneCtl} :
    s.spaced g h = true ↔ ∀ t c, g.last = some (t, c) → t + gap (s.clusterAt (g.slot / 192)).ratio h.dist.toNat ≤ s.fclk := by
  unfold State.spaced
  rw [g.cluster_eq, issueGap_eq_gap]
  cases g.last with
  | none => simp
  | some x => simp [Prod.ext_iff]

theorem Group.laneReady_iff {g : Group} {h : LaneCtl} :
    g.laneReady h = true ↔ (∀ k : Fin 12, h.wait.getLsbD k.val = true → g.ctrs[k] = 0) ∧ (∀ k : Fin 12, h.setc.toNat = k.val → g.ctrs[k] ≠ 255)
      ∧ (g.parked = false ∨ g.drained = true) := by
  unfold Group.laneReady
  by_cases hk : h.setc.toNat < 12
  · have hroom : (∀ k : Fin 12, h.setc.toNat = k.val → g.ctrs[k] ≠ 255) ↔ g.ctrs[h.setc.toNat] ≠ 255 :=
      ⟨fun hall => hall ⟨_, hk⟩ rfl, fun hne k hkk => by simpa [hkk] using hne⟩
    rw [hroom, Vector.getElem?_eq_getElem hk]
    simp [Decidable.imp_iff_not_or, and_assoc]
  · have hroom : ∀ k : Fin 12, h.setc.toNat = k.val → g.ctrs[k] ≠ 255 := fun k hkk => absurd k.isLt (by omega)
    rw [Vector.getElem?_eq_none (by omega), iff_true_intro hroom]
    simp [Decidable.imp_iff_not_or]

theorem State.laneReady_of_eligible {s : State} {g : Group} {h : LaneCtl} (he : Eligible s g h) : s.laneReady g h = true := by
  unfold State.laneReady
  rw [Bool.and_eq_true]
  exact ⟨Group.laneReady_iff.mpr ⟨he.waits, he.room, .inl he.unparked⟩, State.spaced_iff.mpr he.distance⟩

/-- What holds a lane word back (07 R133, R135, R139). -/
theorem State.laneReady_of_held {s : State} {g : Group} {h : LaneCtl}
    (hw : (∃ k : Fin 12, h.wait.getLsbD k.val = true ∧ g.ctrs[k] ≠ 0) ∨ (∃ k : Fin 12, h.setc.toNat = k.val ∧ g.ctrs[k] = 255)
      ∨ ∃ t c, g.last = some (t, c) ∧ s.fclk < t + gap (s.clusterAt (g.slot / 192)).ratio h.dist.toNat) : s.laneReady g h = false := by
  refine Bool.eq_false_iff.mpr fun hr => ?_
  obtain ⟨hg, hs⟩ := Bool.and_eq_true_iff.mp hr
  obtain ⟨hwait, hroom, -⟩ := Group.laneReady_iff.mp hg
  rcases hw with ⟨k, hk, hne⟩ | ⟨k, hk, hfull⟩ | ⟨t, c, hlast, hlt⟩
  · exact hne (hwait k hk)
  · exact hroom k hk hfull
  · exact absurd (State.spaced_iff.mp hs t c hlast) (by omega)

theorem onLanes_eq_active (s : State) (g : Group) (h : LaneCtl) : onLanes s g h false = g.active s.free h.pred := rfl

-- ### Every lane word goes through the shared issue

/-- A word answers as the issue of 07 does under its control fields, with the registers of its fields in their order. -/
def IssuesFields (s : State) (g : Group) (i : Instr) (h : LaneCtl) (o : Out) : Prop :=
  ∃ cls lat writes reads body, writes ++ reads = fieldRegs s g i ∧ o = laneIssue s h (wholeWord i) cls lat writes reads body
/-- So does every lane word, but for one of the matrix queue while that is full (15 R319). -/
def IssuesOrQueues (s : State) (g : Group) (i : Instr) (h : LaneCtl) (o : Out) : Prop := 8 ≤ g.mq.length ∧ o = .next s ∨ IssuesFields s g i h o

/-- Nothing is to be rebuilt for a word that would issue (12 R262). -/
def RebuildsNothing (s : State) (g : Group) (h : LaneCtl) : Prop :=
  s.laneReady g h = true → g.deferredIn h.wait = none → ∀ reads on, (g.ageFlights h.dist).toRekindle reads [] on = []

/-- The registers of a word that a slice may hold: its destination and its operands. -/
theorem fieldRegs_of_sliceForm {s : State} {g : Group} {i : Instr} {f : AluForm} (hf : sliceForm g.tpart i = some f) :
    fieldRegs s g i = regName f.d :: (f.a.toList.map regName ++ (f.b.map opndRegs).getD [] ++ f.c.toList.map regName) := by
  unfold fieldRegs
  split
  · cases hf
  · cases hf
  · cases hb : f.b <;> simp [lanePorts, hf, hb]

section
variable {s : State} {g : Group} {i : Instr} {h : LaneCtl} {o : Out}

theorem issuesFields_of_laneIssue {cls : WordClass} {lat : Nat} {whole : Bool} {writes reads : List RName} {body : State → Group → W32 → LaneRes}
    (hw : wholeWord i = whole) (ho : o = laneIssue s h whole cls lat writes reads body) (hf : writes ++ reads = fieldRegs s g i) : IssuesFields s g i h o :=
  ⟨cls, lat, writes, reads, body, hf, hw ▸ ho⟩
theorem issuesFields_of_laneAlu {lat : Nat} {d : VReg} {srcs : List RName} {f : Group → W32 → LaneVec} (hw : wholeWord i = false)
    (ho : o = laneAlu s h lat d srcs f) (hf : fieldRegs s g i = regName d :: srcs) : IssuesFields s g i h o :=
  issuesFields_of_laneIssue hw ho hf.symm
theorem issuesFields_of_alu1 {lat : Nat} {d a : VReg} {op : W32 → W32} (hw : wholeWord i = false) (hf : sliceForm g.tpart i = some (form1 h d a op))
    (ho : o = alu1 s h lat d a op) : IssuesFields s g i h o :=
  issuesFields_of_laneAlu hw ho (fieldRegs_of_sliceForm hf)
theorem issuesFields_of_alu2 {lat : Nat} {k : ImmKind} {d a : VReg} {b : BOpnd} {op : W32 → W32 → W32} (hw : wholeWord i = false)
    (hf : sliceForm g.tpart i = some (form2 k h d a b op)) (ho : o = alu2 s h lat k d a b op) : IssuesFields s g i h o :=
  issuesFields_of_laneAlu hw ho ((fieldRegs_of_sliceForm hf).trans (by simp [form2]))
theorem issuesFields_of_alu3 {lat : Nat} {k : ImmKind} {d a : VReg} {b : BOpnd} {c : VReg} {op : W32 → W32 → W32 → W32} (hw : wholeWord i = false)
    (hf : sliceForm g.tpart i = some (form3 k h d a b c op)) (ho : o = alu3 s h lat k d a b c op) : IssuesFields s g i h o :=
  issuesFields_of_laneAlu hw ho (fieldRegs_of_sliceForm hf)
theorem issuesFields_of_bookWord {d a b : VReg} {op : W32 → List Nat → W32} (hw : wholeWord i = false) (ho : o = bookWord s h d a b op)
    (hf : fieldRegs s g i = regName d :: regName a :: bookRegs b) : IssuesFields s g i h o :=
  issuesFields_of_laneAlu hw ho hf

/-- A memory word that is not ILLEGAL where it stands. -/
theorem issuesFields_of_memIssue {load : Bool} {ord : BitVec 3} {bad : Group → Bool} {writes reads : List RName} {body : State → Group → W32 → LaneRes}
    (hg : s.group? s.cur = some g) (hb : bad g = false) (hw : wholeWord i = false) (ho : o = memIssue s h load ord bad writes reads body)
    (hf : writes ++ reads = fieldRegs s g i) : IssuesFields s g i h o :=
  issuesFields_of_laneIssue hw (by rw [ho, memIssue, onGroup_eq hg, hb]; rfl) hf

theorem issuesOrQueues_of_queueWord {regs : List RName} {w : MWord} (hg : s.group? s.cur = some g) (hw : wholeWord i = true) (ho : o = queueWord s h regs w)
    (hf : regs = fieldRegs s g i) : IssuesOrQueues s g i h o := by
  rw [queueWord, onGroup_eq hg] at ho
  split at ho
  · exact .inl ⟨‹_›, ho⟩
  · exact .inr (issuesFields_of_laneIssue hw ho (by rw [List.append_nil, hf]))

/-- An MMQ that rebuilds nothing issues from the state as it stands. -/
theorem issuesOrQueues_mmq {reuse : Bool} {d a sb sc : BitVec 8} (hg : s.group? s.cur = some g) (ht : g.trial = none) (hr : RebuildsNothing s g h) :
    IssuesOrQueues s g (.mmq h reuse d a sb sc) h (execMmq h reuse d a sb sc s) := by
  have ho : execMmq h reuse d a sb sc s
      = if 8 ≤ g.mq.length then .next s else laneIssue s h false .mmq 0 [] (mmqRegs s g a sc) (mmqBody h reuse d a sb sc) := by
    simp only [execMmq, onGroup_eq hg, ht]
    rw [if_neg (c := _ = true)]
    simp only [Bool.and_eq_true, Option.isNone_iff_eq_none, Bool.not_eq_true', and_assoc]
    rintro ⟨hready, hdef, hne⟩
    rw [hr hready hdef] at hne
    cases hne
  split at ho
  · exact .inl ⟨‹_›, ho⟩
  · exact .inr (issuesFields_of_laneIssue rfl ho rfl)

/-- Every lane word that is not ILLEGAL where it stands goes through the issue of 07. -/
theorem exec_issuesOrQueues (hc : laneCtl i = some h) (hg : s.group? s.cur = some g) (hi : illegalNow s g i = false) (ht : g.trial = none)
    (hr : RebuildsNothing s g h) : IssuesOrQueues s g i h (exec i s) := by
  cases i with
  | iabs | inot | ipopc | iclz | fclass | frnd | cvt | unpack | vmov | frcp | frsq | fsqrt | fexp2 | flog2 | fsin | fcos | ftanh =>
    cases hc
    exact .inr (issuesFields_of_alu1 rfl rfl rfl)
  | iadd | isub | imul | imulh | iwadd | imin | imax | iand | ior | ixor | ishl | ishr | isra | ibfe | fadd | fsub | fmul | fmin | fmax | fscale
  | hadd2 | hmul2 | badd2 | bmul2 | pack =>
    cases hc
    exact .inr (issuesFields_of_alu2 rfl rfl rfl)
  | iadd3 | imad | idp4 | ibfi | ffma | hfma2 | bfma2 =>
    cases hc
    exact .inr (issuesFields_of_alu3 rfl rfl rfl)
  | vmovi | laneid | isel | shfl | cvtef | scan | red | stov | wsr =>
    cases hc
    simp only [exec]
    exact .inr (issuesFields_of_laneAlu rfl rfl rfl)
  | cbdec | cbenc =>
    cases hc
    simp only [exec]
    exact .inr (issuesFields_of_bookWord rfl rfl rfl)
  | icmp | fcmp =>
    cases hc
    simp only [exec, execIcmp, execFcmp, aluMask]
    exact .inr (issuesFields_of_laneIssue rfl rfl rfl)
  | mand | mor | mnot | mset =>
    cases hc
    simp only [exec, execMand, execMor, execMnot, execMset, maskWord]
    exact .inr (issuesFields_of_laneIssue rfl rfl rfl)
  | mget | vote | vtos | wsw | dualWord | douse | pref =>
    cases hc
    simp only [exec]
    exact .inr (issuesFields_of_laneIssue rfl rfl rfl)
  | ldt h d m =>
    cases hc
    have hregs : 32 / (4 / if m.type = 1 then 2 else 1) = if m.type = 1 then 16 else 8 := by split <;> rfl
    simp only [exec, execLdt, hregs]
    exact .inr (issuesFields_of_laneIssue rfl rfl rfl)
  | ld | lds | st | sts | atom | atoms =>
    cases hc
    simp only [exec]
    exact .inr (issuesFields_of_memIssue hg hi rfl rfl rfl)
  | fence =>
    cases hc
    have htask : ¬s.inTask g = true := Bool.eq_false_iff.mp hi
    simp only [exec, execFence, onGroup_eq hg, if_neg htask]
    exact .inr (issuesFields_of_laneIssue rfl rfl rfl)
  | kdef h d a b c len slice =>
    cases hc
    have hslice : ¬(kdefSlice s g d a b c len slice).isNone = true := Bool.eq_false_iff.mp hi
    simp only [exec, execKdef, onGroup_eq hg, if_neg hslice]
    exact .inr (issuesFields_of_laneIssue rfl rfl rfl)
  | ldk => cases hi
  | mmq =>
    cases hc
    exact issuesOrQueues_mmq hg ht hr
  | mdrain | mzero | mwait =>
    cases hc
    simp only [exec]
    exact issuesOrQueues_of_queueWord hg rfl rfl rfl
  | _ => cases hc

end

-- ### The checks of the issue

/-- Without an EMBER register nothing is to be rebuilt. -/
theorem RebuildsNothing.of_plain {s : State} {g : Group} {h : LaneCtl} (hp : g.plain) : RebuildsNothing s g h := by
  intro _ _ reads on
  have hember : ∀ k, g.isEmber k = false := fun k => by
    unfold Group.isEmber
    cases hk : g.regs[k]? with
    | none => rfl
    | some r => simpa using hp.embers r (List.mem_of_getElem? hk)
  simp [ageFlights_idle h.dist hp.flights, Group.toRekindle, hember, vecNumbers]

theorem WordClass.idle_acquires (c : WordClass) : c.idle.acquires = false := by cases c <;> rfl

section
variable {s : State} {g : Group} {h : LaneCtl} {whole : Bool} {cls : WordClass} {lat : Nat} {writes reads : List RName} {body : State → Group → W32 → LaneRes}

/-- A deferred load error on a counter of WAIT is taken at the word (07 R145). -/
theorem laneIssue_deferred {d : Deferred} (hg : s.group? s.cur = some g) (hr : s.laneReady g h = true) (hf : g.flights = [])
    (hd : g.deferredIn h.wait = some d) : laneIssue s h whole cls lat writes reads body = .next (s.trapAt (g.dropDeferred d) true d.flt false) := by
  unfold laneIssue
  rw [onGroup_eq hg]
  simp [hr, acquiring_idle hf, holdsRelease_idle cls hf, hd, State.trapLane]

/-- The first register of a word's fields that lies outside the allotment traps (12 R244). -/
theorem laneIssue_outside {r : RName} (hg : s.group? s.cur = some g) (hr : s.laneReady g h = true) (hp : g.plain)
    (hn : whole = true ∨ g.active s.free h.pred ≠ 0) (ho : (writes ++ reads).find? (fun r => !g.inAllot r) = some r) :
    laneIssue s h whole cls lat writes reads body = .next (s.trapAt g true { code := causeAccess, addr := r.designation } false) := by
  have hon : ¬((if whole = true then g.exm else g.active s.free h.pred) = 0 ∧ (!whole) = true) := by
    rcases hn with rfl | hn
    · simp
    · cases whole
      · exact fun hx => hn hx.1
      · simp
  unfold laneIssue
  rw [onGroup_eq hg]
  simp only [hr, acquiring_idle hp.flights, holdsRelease_idle cls hp.flights, hp.deferredIn, ageFlights_idle h.dist hp.flights, hp.mid,
    Option.isSome_none, Bool.and_false, Bool.or_false, Bool.not_true, Bool.false_eq_true, if_false, if_neg hon, prepare_plain _ _ _ hp.recipes, ho]
  rfl

end

/-- DETAIL of CAUSE (22 R419). -/
theorem causeWord_detail (inh lane : Bool) (f : Flt) : (causeWord inh lane f).toNat / 256 % 256 = f.detail % 256 := by
  have hd : f.detail % 256 < 256 := Nat.mod_lt _ (by decide)
  have hc : f.code % 256 < 256 := Nat.mod_lt _ (by decide)
  have hi : inh.toNat ≤ 1 := inh.toNat_le
  have hl : lane.toNat ≤ 1 := lane.toNat_le
  unfold causeWord
  rw [BitVec.toNat_ofNat]
  omega
theorem causeWord_inh_detail (inh lane : Bool) (f : Flt) : (causeWord inh lane f ||| BitVec.ofNat 64 (2 ^ 31)).toNat / 256 % 256 = f.detail % 256 := by
  rw [BitVec.toNat_or, show (256 : Nat) = 2 ^ 8 from rfl, Nat.or_div_two_pow, Nat.or_mod_two_pow,
    show (BitVec.ofNat 64 (2 ^ 31)).toNat / 2 ^ 8 % 2 ^ 8 = 0 from rfl, Nat.or_zero]
  exact causeWord_detail inh lane f

/-- What the trap of a group with no word on its way makes of DETAIL, the deferred errors and the counters (22 R419, 07 R144). -/
theorem trapAt_still_detail {s : State} {g x : Group} {lane : Bool} {f : Flt} {next : Bool} (hc : s.group? g.slot = some x) (h : g.still) :
    ∃ g', (s.trapAt g lane f next).group? g.slot = some g' ∧ g'.cause.toNat / 256 % 256 = f.detail % 256 ∧ g'.deferred = g.deferred
      ∧ g'.ctrs = Vector.replicate 12 0 := by
  have hc' : (s.setGroup g).group? g.slot = some g := State.group?_setGroup hc
  unfold State.trapAt
  simp only [finish_still hc h]
  split
  · exact ⟨_, group?_set hc' rfl, causeWord_inh_detail _ _ _, rfl, rfl⟩
  · exact ⟨_, group?_set hc' rfl, causeWord_detail _ _ _, rfl, rfl⟩

-- ### The checks of every lane word

section
variable {s : State} {g : Group} {i : Instr} {h : LaneCtl}

theorem laneWord_waits (hc : laneCtl i = some h) (hg : s.group? s.cur = some g) (hi : illegalNow s g i = false) (ht : g.trial = none)
    (hr : s.laneReady g h = false) : exec i s = .next s := by
  rcases exec_issuesOrQueues hc hg hi ht (fun hready => by rw [hr] at hready; cases hready) with ⟨-, ho⟩ | ⟨_, _, _, _, _, -, ho⟩
  · exact ho
  · rw [ho, laneIssue_waits hg hr]

/-- A word with PRED and no lane moves only its counter (07 R141). -/
theorem laneWord_empty (hc : laneCtl i = some h) (hw : wholeWord i = false) (hg : s.group? s.cur = some g) (hi : illegalNow s g i = false) (ht : g.trial = none)
    (hq : g.mq.length < 8) (he : Eligible s g h) (hp : g.plain) (hon : onLanes s g h false = 0) :
    ∃ cls lat, cls.acquires = false ∧ exec i s = .next (drawn s (g.issued s.fclk h cls lat true [])) := by
  rcases exec_issuesOrQueues hc hg hi ht (.of_plain hp) with ⟨hfull, -⟩ | ⟨cls, lat, _, _, _, -, ho⟩
  · omega
  · refine ⟨cls.idle, lat, cls.idle_acquires, ?_⟩
    rw [ho, hw, laneIssue_empty hg (State.laneReady_of_eligible he) hp hon]
    rfl

/-- A still group has an empty matrix queue. -/
theorem exec_issuesFields (hc : laneCtl i = some h) (hg : s.group? s.cur = some g) (hi : illegalNow s g i = false) (hs : g.still) (hr : RebuildsNothing s g h) :
    IssuesFields s g i h (exec i s) :=
  (exec_issuesOrQueues hc hg hi hs.trial hr).resolve_left fun ⟨hfull, _⟩ => by simp [hs.mq] at hfull

/-- An error that a load has left on a counter of WAIT traps with ECC (07 R145). -/
theorem laneWord_deferred {d : Deferred} (hc : laneCtl i = some h) (hg : s.group? s.cur = some g) (hi : illegalNow s g i = false) (hs : g.still)
    (he : Eligible s g h) (hd : g.deferred = [d]) (hctr : d.ctr.toNat < 12) (hwait : h.wait.getLsbD d.ctr.toNat = true) :
    exec i s = .next (s.trapAt { g with deferred := [] } true d.flt false) := by
  have hdef : g.deferredIn h.wait = some d := by simp [Group.deferredIn, hd, hctr, hwait]
  obtain ⟨_, _, _, _, _, -, ho⟩ := exec_issuesFields hc hg hi hs fun _ hnone => by rw [hdef] at hnone; cases hnone
  rw [ho, laneIssue_deferred hg (State.laneReady_of_eligible he) hs.flights hdef]
  simp [Group.dropDeferred, hd]

/-- The first register outside the allotment traps with ACCESS (12 R244). -/
theorem laneWord_outside {r : RName} (hc : laneCtl i = some h) (hg : s.group? s.cur = some g) (hi : illegalNow s g i = false) (hs : g.still)
    (he : Eligible s g h) (hp : g.plain) (hn : wholeWord i = true ∨ onLanes s g h false ≠ 0) (hr : (fieldRegs s g i).find? (fun r => !g.inAllot r) = some r) :
    exec i s = .next (s.trapAt g true { code := causeAccess, addr := r.designation } false) := by
  obtain ⟨_, _, writes, reads, _, hf, ho⟩ := exec_issuesFields hc hg hi hs (.of_plain hp)
  rw [ho]
  exact laneIssue_outside hg (State.laneReady_of_eligible he) hp hn (hf ▸ hr)

/-- What a trap of a lane word leaves of a group with no word on its way. -/
theorem trapAt_laneWord {x : Group} {f : Flt} (hc : s.group? g.slot = some x) (hs : g.still) :
    ∃ u g', Host.Outcome.next (s.trapAt g true f false) = (.next u : Out) ∧ u.mem = s.mem ∧ u.group? g.slot = some g' ∧ g'.cause.toNat % 256 = f.code % 256
      ∧ g'.cause.toNat / 256 % 256 = f.detail % 256 ∧ g'.cause.getLsbD 24 = true ∧ g'.faddr = BitVec.ofNat 64 f.addr ∧ g'.deferred = g.deferred
      ∧ g'.epc = g.spc ∧ g'.elpc = g.lpc ∧ g'.regs = g.regs ∧ g'.ctrs = Vector.replicate 12 0 := by
  obtain ⟨g₁, h₁, hmem, hepc, helpc, hfaddr, -, hcode, hlane, -, hregs, -⟩ := trapAt_still (lane := true) (f := f) (next := false) hc hs
  obtain ⟨g₂, h₂, hdetail, hdef, hctrs⟩ := trapAt_still_detail (lane := true) (f := f) (next := false) hc hs
  obtain rfl : g₁ = g₂ := Option.some.inj (h₁.symm.trans h₂)
  exact ⟨_, g₁, rfl, hmem, h₁, hcode, hdetail, hlane, hfaddr, hdef, hepc, helpc, hregs, hctrs⟩

end

/-- Settles O32: every lane word goes through the shared issue (`exec_issuesOrQueues`), whose checks come in the order of 22 R420. -/
theorem laneWordChecks : Obligations.LaneWordChecks := by
  refine ⟨?_, ?_, ?_, ?_⟩
  · intro i h s g hc hg hi ht hheld
    exact laneWord_waits hc hg hi ht (State.laneReady_of_held hheld)
  · intro i h s g hc hw hg hi ht hq he hp hon
    exact laneWord_empty hc hw hg hi ht hq he hp hon
  · intro i h s g d hc hg hi hs he hd hctr hwait
    have hslot : s.group? g.slot = some g := State.group?_slot hg ▸ hg
    have hs' : ({ g with deferred := [] } : Group).still := ⟨hs.mq, hs.trial, hs.flights, hs.spend, hs.late⟩
    obtain ⟨u, g', hu, hmem, hg', hcode, hdetail, -, hfaddr, hdef, hepc, helpc, hregs, -⟩ :=
      trapAt_laneWord (g := { g with deferred := [] }) (f := d.flt) hslot hs'
    rw [laneWord_deferred hc hg hi hs he hd hctr hwait]
    exact ⟨u, g', hu, hmem, hg', hcode, hdetail.trans (Nat.mod_eq_of_lt d.detail.isLt), hfaddr.trans (BitVec.ofNat_toNat ..), hdef, hepc, helpc, hregs⟩
  · intro i h s g r hc hg hi hs he hp hn hr
    have hslot : s.group? g.slot = some g := State.group?_slot hg ▸ hg
    obtain ⟨u, g', hu, hmem, hg', hcode, -, hlane, hfaddr, -, hepc, helpc, hregs, hctrs⟩ :=
      trapAt_laneWord (f := { code := causeAccess, addr := r.designation }) hslot hs
    rw [laneWord_outside hc hg hi hs he hp hn hr]
    refine ⟨u, g', hu, hmem, hg', hcode, hlane, hfaddr.trans ?_, hepc, helpc, hregs, hctrs⟩
    cases hacc : r.acc <;> simp [RName.designation, designation, hacc]

end Sys2Proof.Machine
end

section
/-!
PROOFS. When an issued word completes, and what it leaves (07 R138, R140, 13 R287, R292, 11 R239).
-/
namespace Sys2Proof.Machine

-- ### When it may complete

/-- The conditions under which an issued word completes now. -/
structure Completes (s : State) (g : Group) (f : Flight) : Prop where
  ready   : f.ready = true
  issued  : ¬(f.id + 1 = g.nextId ∧ ∃ c, g.last = some (s.fclk, c))
  oldest  : f.cls = .inOrder → ∀ x ∈ g.flights, x.cls = .inOrder → x.ctr = f.ctr → f.id ≤ x.id
  ordered : ∀ x ∈ g.flights, x.id < f.id → f.cls.after x.cls = false
  ws      : ∀ t, Eff.ws t ∈ f.effs → t + 2 ≤ s.fclk

theorem State.canComplete_iff {s : State} {g : Group} {f : Flight} : s.canComplete g f = true ↔ Completes s g f := by
  have hlast : (f.id + 1 == g.nextId && g.last.any fun x => x.1 == s.fclk) = true ↔ f.id + 1 = g.nextId ∧ ∃ c, g.last = some (s.fclk, c) := by
    rcases g.last with _ | ⟨t, c⟩ <;> simp
  have hoc : (f.cls != .inOrder || g.flights.all fun x => x.cls != .inOrder || x.ctr != f.ctr || f.id ≤ x.id) = true
      ↔ (f.cls = .inOrder → ∀ x ∈ g.flights, x.cls = .inOrder → x.ctr = f.ctr → f.id ≤ x.id) := by
    simp [Decidable.imp_iff_not_or, or_assoc]
  have hord : (g.flights.all fun x => f.id ≤ x.id || !f.cls.after x.cls) = true ↔ ∀ x ∈ g.flights, x.id < f.id → f.cls.after x.cls = false := by
    simp [Decidable.imp_iff_not_or]
  unfold State.canComplete
  rw [Bool.and_eq_true, Bool.and_eq_true, Bool.and_eq_true, Bool.and_eq_true, hoc, hord, List.all_eq_true, Bool.not_eq_true', ← Bool.not_eq_true, hlast]
  constructor
  · rintro ⟨⟨⟨⟨hready, hissued⟩, holdest⟩, hordered⟩, hws⟩
    exact ⟨hready, hissued, holdest, hordered, fun t ht => of_decide_eq_true (hws _ ht)⟩
  · rintro ⟨hready, hissued, holdest, hordered, hws⟩
    refine ⟨⟨⟨⟨hready, hissued⟩, holdest⟩, hordered⟩, fun e he => ?_⟩
    cases e with
    | ws t => exact decide_eq_true (hws t he)
    | _ => rfl

/-- What a release, and a FENCE that acquires, come after (13 R287, R292, 15 R334). -/
theorem WordClass.after_memory {k j : MemKind} {c : WordClass}
    (h : c = .memory j ∧ (k.rel = true ∨ k.fence = true ∧ k.acq = true ∧ j.load = true) ∨ c = .kdef ∧ (k.rel = true ∨ k.fence = true ∧ k.acq = true)
      ∨ c = .mmq ∧ k.rel = true) : (WordClass.memory k).after c = true := by
  rcases h with ⟨rfl, hrel | ⟨hfence, hacq, hload⟩⟩ | ⟨rfl, hrel | ⟨hfence, hacq⟩⟩ | ⟨rfl, hrel⟩ <;> simp [WordClass.after, *]

section
variable {s : State} {g : Group} {f : Flight} {slot idx : Nat} (hg : s.group? slot = some g) (hf : g.flights.find? (fun x => x.id == idx) = some f)
include hg hf

theorem wordCompletion_completes (hc : Completes s g f) : exec (.wordCompletion slot idx) s = .next (s.setGroup (g.complete f)) := by
  simp only [exec, execWordCompletion]
  rw [withGroup_eq hg, hf]
  simp only [State.canComplete_iff.mpr hc, if_true]

theorem wordCompletion_waits (hc : ¬Completes s g f) : exec (.wordCompletion slot idx) s = .next s := by
  simp only [exec, execWordCompletion]
  rw [withGroup_eq hg, hf]
  simp only [State.canComplete_iff, hc, if_false]

end

-- ### What it leaves

theorem Group.applyEff_frame (g : Group) (e : Eff) : ∃ regs sregs masks, g.applyEff e = { g with regs := regs, sregs := sregs, masks := masks } := by
  cases e with
  | reg p on x =>
    simp only [Group.applyEff, Group.writePlace]
    split <;> exact ⟨_, _, _, rfl⟩
  | sreg k v =>
    simp only [Group.applyEff, Group.setSreg]
    split <;> exact ⟨_, _, _, rfl⟩
  | mask k on b =>
    simp only [Group.applyEff, Group.setMask]
    split <;> exact ⟨_, _, _, rfl⟩
  | ws t => exact ⟨_, _, _, rfl⟩
/-- Results touch registers, scalar registers and masks only (07 R138). -/
theorem Group.applyEffs_frame (g : Group) (es : List Eff) : ∃ regs sregs masks, g.applyEffs es = { g with regs := regs, sregs := sregs, masks := masks } := by
  induction es generalizing g with
  | nil => exact ⟨_, _, _, rfl⟩
  | cons e es ih =>
    obtain ⟨_, _, _, he⟩ := g.applyEff_frame e
    obtain ⟨_, _, _, hes⟩ := ih (g.applyEff e)
    exact ⟨_, _, _, hes.trans (by rw [he])⟩

theorem Group.complete_ctrs (g : Group) (f : Flight) (k : Fin 12) : (g.complete f).ctrs[k] = if f.ctr.toNat = k.val then g.ctrs[k] - 1 else g.ctrs[k] := by
  obtain ⟨_, _, _, he⟩ := g.applyEffs_frame f.effs
  unfold Group.complete
  rw [he]
  dsimp only
  split
  · simp only [Fin.getElem_fin, Vector.getElem_set]
    split <;> simp_all
  · rw [if_neg (by omega)]
theorem Group.complete_slot (g : Group) (f : Flight) : (g.complete f).slot = g.slot := by
  obtain ⟨_, _, _, he⟩ := g.applyEffs_frame f.effs
  exact (congrArg Group.slot he :)
theorem Group.mem_complete_flights {g : Group} {f x : Flight} : x ∈ (g.complete f).flights ↔ x ∈ g.flights ∧ x.id ≠ f.id := by
  simp [Group.complete]

theorem laneGet_fin (v : LaneVec) (l : Fin 32) : laneGet v l.val = v[l] := by simp [laneGet, Vector.getD]
theorem laneMerge_fin (on : W32) (old : LaneVec) (f : Nat → W32) (l : Fin 32) : (laneMerge on old f)[l] = if on[l] then f l.val else old[l] := by
  simp [laneMerge]
theorem Group.stored_fin {g : Group} {p : Nat} {r : Reg} (hr : g.regs[p]? = some r) (l : Fin 32) :
    (g.stored p)[l] = if r.st = .void then 0 else r.val[l] := by
  unfold Group.stored
  rw [hr]
  by_cases hv : r.st = .void <;> simp [hv, zeroVec]

/-- A register that takes a result is VALUE, and keeps its lanes outside the word's (12 R252). -/
theorem Group.writePlace_reg {g : Group} {p : Nat} {r : Reg} (on : W32) (v : LaneVec) (hr : g.regs[p]? = some r) :
    ∃ r', (g.writePlace p on v).regs[p]? = some r' ∧ r'.st = .value ∧ ∀ l : Fin 32, r'.val[l] = if on[l] then v[l] else if r.st = .void then 0 else r.val[l] := by
  refine ⟨{ st := .value, val := laneMerge on (g.stored p) (laneGet v) }, ?_, rfl, fun l => ?_⟩
  · unfold Group.writePlace
    rw [hr]
    exact List.getElem?_set_self (List.getElem?_eq_some_iff.mp hr).1
  · rw [laneMerge_fin, laneGet_fin, Group.stored_fin hr]

/-- Settles O31: a word completes exactly under the conditions of `Completes` (the waits that the model chooses are notes/assumptions/55 and 69). -/
theorem wordCompletion : Obligations.WordCompletion := by
  refine ⟨?_, ?_, ?_, ?_, ?_⟩
  · intro slot idx s g f hg hf hready hissued holdest hordered hws
    have hid : f.id = idx := by simpa using List.find?_some hf
    have hslot : (g.complete f).slot = slot := (g.complete_slot f).trans (State.group?_slot hg)
    refine ⟨_, g.complete f, wordCompletion_completes hg hf ⟨hready, hissued, holdest, hordered, hws⟩, rfl, group?_set hg hslot, ?_, g.complete_ctrs f, rfl, rfl, rfl, ?_⟩
    · exact fun x hx => hid ▸ (Group.mem_complete_flights.mp hx).2
    · intro p on v heffs r hr
      have hregs : (g.complete f).regs = (g.writePlace p on v).regs := by rw [Group.complete, heffs]; rfl
      exact hregs ▸ Group.writePlace_reg on v hr
  · exact fun slot idx s g f c hg hf hnext hlast => wordCompletion_waits hg hf fun hc => hc.issued ⟨hnext, c, hlast⟩
  · exact fun slot idx s g f t hg hf ht hlt => wordCompletion_waits hg hf fun hc => absurd (hc.ws t ht) (by omega)
  · exact fun slot idx s g f x hg hf hcls hx hxcls hctr hlt => wordCompletion_waits hg hf fun hc => absurd (hc.oldest hcls x hx hxcls hctr) (by omega)
  · intro slot idx s g f x k j hg hf hcls hx hlt hafter
    refine wordCompletion_waits hg hf fun hc => ?_
    have hno := hc.ordered x hx hlt
    rw [hcls, WordClass.after_memory hafter] at hno
    cases hno

end Sys2Proof.Machine
end

section
/-!
PROOFS. Whose turn it is, and which word it runs (07 R127, R128; notes/assumptions/1, 5).
-/
namespace Sys2Proof.Machine
open Sys2Proof.Claims

-- ### The FCLK of a turn

/-- The release of OWNSEM leaves everything but the service state (20 R396). -/
theorem State.dueOwner_frame (s : State) (port : Nat) : ∃ svc, s.dueOwner port = { s with svc := svc } := by
  unfold State.dueOwner State.freeOwner
  split
  · split <;> exact ⟨_, rfl⟩
  · exact ⟨_, rfl⟩
@[simp] theorem State.dueOwner_mem (s : State) (port : Nat) : (s.dueOwner port).mem = s.mem := by
  obtain ⟨_, h⟩ := s.dueOwner_frame port
  rw [h]
@[simp] theorem State.dueOwner_agenda (s : State) (port : Nat) : (s.dueOwner port).agenda = s.agenda := by
  obtain ⟨_, h⟩ := s.dueOwner_frame port
  rw [h]
@[simp] theorem State.dueOwner_fclk (s : State) (port : Nat) : (s.dueOwner port).fclk = s.fclk := by
  obtain ⟨_, h⟩ := s.dueOwner_frame port
  rw [h]
/-- Time leaves memory and the agenda (notes/assumptions/8). -/
@[simp] theorem State.tick_mem (s : State) (n : Nat) : (s.tick n).mem = s.mem := by simp [State.tick]
@[simp] theorem State.tick_agenda (s : State) (n : Nat) : (s.tick n).agenda = s.agenda := by simp [State.tick]
@[simp] theorem State.tick_fclk (s : State) (n : Nat) : (s.tick n).fclk = s.fclk + n := by simp [State.tick]

theorem State.seated_of_not_tick (s : State) {t : Turn} (ht : ∀ n, t ≠ .tick n) :
    s.seated t = { if s.seat.allows (s.seatOf t) t.isWord then s else s.tick 1 with
      seat := (if s.seat.allows (s.seatOf t) t.isWord then s else s.tick 1).seatOf t } := by
  unfold State.seated
  split
  · exact absurd rfl (ht _)
  · rfl
theorem State.seated_frame (s : State) (t : Turn) :
    (s.seated t).mem = s.mem ∧ (s.seated t).agenda = s.agenda ∧ s.fclk ≤ (s.seated t).fclk ∧ (s.seated t).fclk ≤ s.fclk + 1 := by
  cases t with
  | tick n => exact ⟨rfl, rfl, Nat.le_refl _, Nat.le_succ _⟩
  | _ =>
    rw [State.seated_of_not_tick s (by nofun)]
    split
    · exact ⟨rfl, rfl, Nat.le_refl _, Nat.le_succ _⟩
    · exact ⟨s.tick_mem 1, s.tick_agenda 1, by simp, by simp⟩
/-- A word that has the first turn of an FCLK has it there. -/
theorem State.seated_first {s : State} {t : Turn} {slot : Nat} (hs : s.seat.phase = 0) (ht : t = .scalar slot ∨ t = .lane slot) :
    s.seated t = { s with seat := s.seatOf t } := by
  have hphase : 0 < (s.seatOf t).phase := by
    rcases ht with rfl | rfl
    · simp only [State.seatOf]; split <;> decide
    · exact Nat.one_pos
  have hallows : s.seat.allows (s.seatOf t) t.isWord = true := by simp [Seat.allows, hs, hphase]
  rw [State.seated_of_not_tick s (by rintro n rfl; rcases ht with h | h <;> cases h), if_pos hallows]

-- ### The turn of the agenda

section
variable {s u : State} {g : Group} {ts : List Turn}

theorem step_agenda {t : Turn} (ha : s.agenda = t :: ts) : step s = runTurn t ({ s with agenda := ts }.seated t) := by
  unfold step nextTurn
  rw [ha]

theorem scalarTurn_word {w : Nat} {i : Instr} (hg : u.group? g.slot = some g) (hf : u.frozen g = false) (hs : g.spend = none) (hm : g.mid = none)
    (he : g.entryWaits u.fclk = false) (hw : fetchScalar u g g.spc.toNat = .word w) (hd : decodeScalar w = some i)
    (hb : breaks { u with cur := g.slot } g false g.spc.toNat = false) : scalarTurn g.slot u = exec i { u with cur := g.slot } := by
  have hopen : u.scalarOpen g = true := by simp [State.scalarOpen, hf, hs, hm, he]
  simp [scalarTurn, hg, hopen, hw, scalarFetched, hd, hb]

theorem laneTurn_word {r : Run} {rs : List Run} {w : Nat} {ws : List (Option Nat)} {i : Instr} (hg : u.group? g.slot = some g) (hf : u.laneFrozen g = false)
    (hp : g.parked = false ∨ g.drained = true) (hs : u.spadBusy g = false) (hr : g.runq = r :: rs) (hw : r.buf = some w :: ws) (hd : decodeLane w = some i)
    (hb : breaks { u with cur := g.slot } g true r.next = false) : laneTurn g.slot u = exec i ({ u with cur := g.slot }.beforeWord g i) := by
  have hopen : u.laneOpen g = true := by rcases hp with hp | hp <;> simp [State.laneOpen, hf, hp, hs]
  simp [laneTurn, hg, hr, hopen, hw, laneFetched, hd, hb]

end

/-- What a lane word finds performed before it (notes/assumptions/5). -/
theorem State.beforeWord_passes {s : State} {g : Group} {i : Instr} (h : g.late = [] ∨ s.passesLate g i = true) : s.beforeWord g i = s := by
  unfold State.beforeWord
  rw [if_pos]
  simpa using h
theorem State.beforeWord_performs {s : State} {g : Group} {i : Instr} (hl : g.late ≠ []) (hp : s.passesLate g i = false) :
    s.beforeWord g i = withGroupIn (s.performAll g).1 (s.performAll g).2 := by
  unfold State.beforeWord
  rw [if_neg (by simp [hl, hp])]
  rfl

/-- Settles O5: a step is the turn at the head of the agenda, and a turn runs the word that it has fetched and decoded. -/
theorem stepRunsDecodedInstruction : Obligations.StepRunsDecodedInstruction := by
  refine ⟨?_, ?_, fun s g i => ⟨State.beforeWord_passes, State.beforeWord_performs⟩, ?_, ?_, ?_⟩
  · rintro s g ts w i u ha rfl hg hf hs hm he hw hd hb
    exact (step_agenda ha).trans (scalarTurn_word hg hf hs hm he hw hd hb)
  · rintro s g ts r rs w ws i u ha rfl hg hf hp hs hr hw hd hb
    exact (step_agenda ha).trans (laneTurn_word hg hf hp hs hr hw hd hb)
  · intro s i ts ha he
    rw [step_agenda ha, runTurn, isStep, he]
    rfl
  · exact fun s n ts ha => step_agenda ha
  · intro s t
    obtain ⟨hmem, hagenda, hle, hlt⟩ := s.seated_frame t
    exact ⟨hmem, hagenda, hle, hlt, fun hs slot => State.seated_first hs⟩

end Sys2Proof.Machine
end

section
/-!
PROOFS. Lane words that compute (10 R201): what a word reads in a group with no word on its way, and the issue of a word by the form of its operands.
-/
namespace Sys2Proof.Machine
open Sys2Proof.Claims

-- ### What a word reads in a group with no word on its way (07 R137)

section
variable {g : Group}

theorem Group.readReg_stored (free : Nat) (r : RName) (h : g.flights = []) : g.readReg free r = g.stored (g.place r) := by
  unfold Group.readReg Group.pending
  rw [h]
  rfl
theorem Group.readReg_idle (free : Nat) (r : VReg) (h : g.flights = []) : g.readReg free (regName r) = lanesOf g r := g.readReg_stored free (regName r) h

/-- The immediates of 06 R116 and 10 R214 by their numbers. -/
theorem immValue_fp (i : BitVec 16) : immValue .fp i = BitVec.ofNat 32 (i.toNat * 2 ^ 16) := by
  refine BitVec.eq_of_toNat_eq ?_
  simp [immValue, Nat.shiftLeft_eq]
theorem immValue_packed (i : BitVec 16) : immValue .packed i = BitVec.ofNat 32 (i.toNat * 2 ^ 16 + i.toNat) := by
  have hlt : i.toNat < 2 ^ 16 := i.isLt
  refine BitVec.eq_of_toNat_eq ?_
  have hor : i.toNat <<< 16 ||| i.toNat = i.toNat * 2 ^ 16 + i.toNat := by rw [← Nat.shiftLeft_add_eq_or_of_lt hlt, Nat.shiftLeft_eq]
  have hwide : i.toNat % 4294967296 = i.toNat := Nat.mod_eq_of_lt (by omega)
  rw [← hor]
  simp [immValue, hwide]

theorem Group.readB_idle (s : State) (k : ImmKind) (b : BOpnd) (h : g.flights = []) : g.readB s.free k b = opnd s g k b := by
  cases b with
  | v r => exact Group.readReg_idle s.free r h
  | s j => simp [Group.readB, opnd, lo32]
  | imm i =>
    refine congrArg (Vector.replicate 32) ?_
    cases k with
    | int => rfl
    | fp => exact immValue_fp i
    | packed => exact immValue_packed i

end

-- ### The issue of a word that computes

section
variable {i : Instr} {h : LaneCtl} {whole : Bool} {cls : WordClass} {lat : Nat}

/-- In a plain group a word whose body only computes issues with its results. -/
theorem laneIssue_computes {s : State} {g : Group} {writes reads : List RName} {body : State → Group → W32 → LaneRes} {effs : List Eff}
    (ha : AtLane s g h whole (writes ++ reads)) (hb : body s g (onLanes s g h whole) = .done s g effs true) :
    laneIssue s h whole cls lat writes reads body = .next (drawn s (g.issued s.fclk h cls lat true effs)) := by
  have hon : onLanes s g h whole = if whole then g.exm else g.active s.free h.pred := by cases whole <;> rfl
  exact laneIssue_quiet ha.here (State.laneReady_of_eligible ha.eligible) ha.plain hon ha.acts ha.inside hb rfl

theorem issues_of_laneIssue {regs writes reads : List RName} {body : State → State → Group → W32 → LaneRes} {effs : State → Group → W32 → List Eff}
    (hi : ∀ s, exec i s = laneIssue s h whole cls lat writes reads (body s)) (hr : writes ++ reads = regs)
    (hb : ∀ s g on, g.flights = [] → body s s g on = .done s g (effs s g on) true) : Issues i h whole cls lat regs effs := by
  subst hr
  intro s g ha
  rw [hi s]
  exact laneIssue_computes ha (hb s g _ ha.plain.flights)

/-- A word that writes one register (10 R201). -/
theorem issues_of_laneAlu {d : VReg} {srcs : List RName} {f : State → Group → W32 → LaneVec} {val : State → Group → W32 → LaneVec}
    (hi : ∀ s, exec i s = laneAlu s h lat d srcs (f s)) (hf : ∀ s g on, g.flights = [] → f s g on = val s g on) :
    Issues i h false .inOrder lat (regName d :: srcs) fun s g on => [.reg (g.place (regName d)) on (val s g on)] :=
  issues_of_laneIssue hi rfl fun s g on hg => by rw [hf s g on hg]; rfl

theorem lane1_of_alu1 {d a : VReg} {op val : W32 → W32} (hi : ∀ s, exec i s = alu1 s h lat d a op) (ho : ∀ x, op x = val x) : Lane1 i h lat d a val :=
  issues_of_laneAlu hi fun s g _ hg => by
    ext l hl
    simp [Group.readReg_idle s.free a hg, ho]
theorem lane2_of_alu2 {k : ImmKind} {d a : VReg} {b : BOpnd} {op val : W32 → W32 → W32} (hi : ∀ s, exec i s = alu2 s h lat k d a b op)
    (ho : ∀ x y, op x y = val x y) : Lane2 i h lat k d a b val :=
  issues_of_laneAlu hi fun s g _ hg => by simp only [Group.readReg_idle s.free a hg, Group.readB_idle s k b hg, ho]
theorem lane3_of_alu3 {k : ImmKind} {d a : VReg} {b : BOpnd} {c : VReg} {op val : W32 → W32 → W32 → W32} (hi : ∀ s, exec i s = alu3 s h lat k d a b c op)
    (ho : ∀ x y z, op x y z = val x y z) : Lane3 i h lat k d a b c val :=
  issues_of_laneAlu hi fun s g _ hg => by
    simp only [Group.readReg_idle s.free a hg, Group.readReg_idle s.free c hg, Group.readB_idle s k b hg, ho]

end

end Sys2Proof.Machine
end

section
/-!
PROOFS. Integer arithmetic of the lanes (10 R202-R204).
-/
namespace Sys2Proof.Machine
open Sys2Proof.Claims

theorem sat_eq_clamp {lo hi : Int} (x : Int) (h : lo ≤ hi) : sat x lo hi = max lo (min x hi) := by
  unfold sat
  split
  · omega
  · split <;> omega

theorem narrow_eq_narrowed (f : BitVec 4) (u x : Int) : narrow f u x = narrowed f u x := by
  unfold narrow narrowed
  split
  case h_1 h => rw [if_pos (BitVec.eq_of_toNat_eq h)]; rfl
  case h_2 h => rw [if_neg (by rintro rfl; cases h), if_pos (BitVec.eq_of_toNat_eq h), satS, sat_eq_clamp x (by decide)]; rfl
  case h_3 h0 h1 => rw [if_neg (by rintro rfl; exact h0 rfl), if_neg (by rintro rfl; exact h1 rfl), satU, sat_eq_clamp u (by decide)]; rfl

/-- An element of 09 R176 is a part of the word, and its sign extension the part's signed value. -/
theorem elem_eq {n : Nat} (hn : 0 < n) (x : W32) (j : Nat) : elem n x j = x.toNat / 2 ^ (n * j) % 2 ^ n := by
  unfold elem bits
  rw [show n * j + n - 1 + 1 - n * j = n by omega]
theorem elem_eq_extract {n : Nat} (hn : 0 < n) (x : W32) (j : Nat) : elem n x j = (x.extractLsb' (n * j) n).toNat := by
  rw [elem_eq hn, BitVec.extractLsb'_toNat, Nat.shiftRight_eq_div_pow]
theorem sgn_toNat {n : Nat} (v : BitVec n) : sgn n v.toNat = v.toInt := by
  cases n with
  | zero => simp [sgn, BitVec.eq_nil v]
  | succ n =>
    have hlt : v.toNat < 2 ^ (n + 1) := v.isLt
    have hmod : (v.toNat : Int) % 2 ^ (n + 1) = v.toNat := by exact_mod_cast Nat.mod_eq_of_lt hlt
    rw [sgn, hmod, Nat.mod_eq_of_lt hlt, BitVec.toInt_eq_toNat_cond, Nat.add_sub_cancel, Int.natCast_pow]
    have hle : 2 ^ n ≤ v.toNat ↔ ¬2 * v.toNat < 2 ^ (n + 1) := by omega
    simp only [hle, ite_not]
    rfl
theorem sgn_elem {n : Nat} (hn : 0 < n) (x : W32) (j : Nat) : sgn n (elem n x j) = (x.extractLsb' (n * j) n).toInt := by
  rw [elem_eq_extract hn, sgn_toNat]

theorem ofInt_toNat_add (x : W32) (v : Int) : BitVec.ofInt 32 (x.toNat + v) = x + BitVec.ofInt 32 v := by
  rw [BitVec.ofInt_add, BitVec.ofInt_natCast, BitVec.ofNat_toNat, BitVec.setWidth_eq]

theorem aluMul_eq (x y : W32) : aluMul x y = x * y := by
  unfold aluMul wrap ug
  rw [BitVec.ofInt_mul]
  simp
theorem aluMulh_eq (f : BitVec 4) (x y : W32) :
    aluMulh f x y = if f = 0 then BitVec.ofInt 32 (x.toInt * y.toInt / 2 ^ 32) else BitVec.ofNat 32 (x.toNat * y.toNat / 2 ^ 32) := by
  unfold aluMulh wrap
  split
  · rfl
  · rw [← BitVec.ofInt_natCast]
    rfl
theorem aluAbs_eq (f : BitVec 4) (x : W32) :
    aluAbs f x = if f ≠ 0 ∧ x.toInt = -2 ^ 31 then BitVec.ofNat 32 (2 ^ 31 - 1) else BitVec.ofNat 32 x.toInt.natAbs := by
  have hlo : -2 ^ 31 ≤ x.toInt := BitVec.le_toInt x
  have hhi : x.toInt < 2 ^ 31 := BitVec.toInt_lt
  unfold aluAbs wrap sg
  by_cases hf : f = 0
  · rw [if_pos hf, if_neg (by simp [hf]), BitVec.ofInt_natCast]
  · rw [if_neg hf, satS, sat_eq_clamp _ (by decide), wrap, ← BitVec.ofInt_natCast, ← BitVec.ofInt_natCast, ← apply_ite (BitVec.ofInt 32)]
    simp only [ne_eq, hf, not_false_eq_true, true_and]
    congr 1
    split <;> omega
theorem aluWadd_eq (f : BitVec 4) (x y : W32) : aluWadd f x y = x +
    (if f.toNat / 4 = 0 then BitVec.ofNat 32 (y.toNat / 2 ^ (16 * (f.toNat % 4)) % 2 ^ 16)
     else if f.toNat / 4 = 1 then (y.extractLsb' (16 * (f.toNat % 4)) 16).signExtend 32
     else if f.toNat / 4 = 2 then BitVec.ofNat 32 (y.toNat / 2 ^ (8 * (f.toNat % 4)) % 2 ^ 8)
     else (y.extractLsb' (8 * (f.toNat % 4)) 8).signExtend 32) := by
  unfold aluWadd wrap ug
  rw [ofInt_toNat_add]
  split
  case h_1 h => rw [if_pos h, elem_eq (by decide), BitVec.ofInt_natCast]
  case h_2 h => rw [if_neg (by omega), if_pos h, sgn_elem (by decide)]; rfl
  case h_3 h => rw [if_neg (by omega), if_neg (by omega), if_pos h, elem_eq (by decide), BitVec.ofInt_natCast]
  case h_4 h0 h1 h2 => rw [if_neg h0, if_neg h1, if_neg h2, sgn_elem (by decide)]; rfl
/-- An operand of IDP4 as the statement writes its elements. -/
theorem dp4Elem_eq (sx : Bool) (x : W32) (j : Nat) :
    (if sx = true then sgn 8 (elem 8 x j) else elem 8 x j : Int) = if sx then (x.extractLsb' (8 * j) 8).toInt else (x.extractLsb' (8 * j) 8).toNat := by
  rw [sgn_elem (by decide), elem_eq_extract (by decide)]

/-- Settles O33: each word is the shared word of its operands' form, with the lane function that the statement names. -/
theorem laneIntegerArithmetic : Obligations.LaneIntegerArithmetic := by
  refine ⟨?_, ?_, ?_, ?_, ?_, ?_, ?_, ?_, ?_⟩
  · exact fun h d a b f => lane2_of_alu2 (fun _ => rfl) fun x y => narrow_eq_narrowed f _ _
  · exact fun h d a b f => lane2_of_alu2 (fun _ => rfl) fun x y => narrow_eq_narrowed f _ _
  · exact fun h d a b c f => lane3_of_alu3 (fun _ => rfl) fun x y z => narrow_eq_narrowed f _ _
  · exact fun h d a b f => lane2_of_alu2 (fun _ => rfl) aluMul_eq
  · exact fun h d a b f => lane2_of_alu2 (fun _ => rfl) (aluMulh_eq f)
  · exact fun h d a b c f => lane3_of_alu3 (fun _ => rfl) fun x y z => narrow_eq_narrowed f _ _
  · exact fun h d a f => lane1_of_alu1 (fun _ => rfl) (aluAbs_eq f)
  · exact fun h d a b f => lane2_of_alu2 (fun _ => rfl) (aluWadd_eq f)
  · exact fun h d a b c f => lane3_of_alu3 (fun _ => rfl) fun x y z => by
      simp only [aluDp4, dp4Elem_eq, satS, sat_eq_clamp _ (show (-2 ^ 31 : Int) ≤ 2 ^ 31 - 1 by decide)]
      rfl

end Sys2Proof.Machine
end

section
/-!
PROOFS. Minimum, maximum, logic, counts, shifts and bit fields of the lanes (10 R205-R207).
-/
namespace Sys2Proof.Machine
open Sys2Proof.Claims

theorem aluMin_eq (f : BitVec 4) (x y : W32) : aluMin f x y = if (if f = 0 then y.toInt < x.toInt else y.toNat < x.toNat) then y else x := by
  unfold aluMin
  by_cases hf : f = 0
  · simp only [if_pos hf]; rfl
  · simp only [if_neg hf]; rfl
theorem aluMax_eq (f : BitVec 4) (x y : W32) : aluMax f x y = if (if f = 0 then x.toInt < y.toInt else x.toNat < y.toNat) then y else x := by
  unfold aluMax
  by_cases hf : f = 0
  · simp only [if_pos hf]; rfl
  · simp only [if_neg hf]; rfl

/-- POS and LEN of a bit field (10 R207). -/
theorem fieldPos_eq (y : W32) : fieldPos y = y.toNat % 32 := congrArg (· % 32) (Nat.div_one _)
theorem fieldLen_eq (y : W32) : fieldLen y = min (y.toNat / 2 ^ 8 % 2 ^ 6) 32 := rfl

/-- The sign extension of a value that has no further bit. -/
theorem sgn_of_lt {n v : Nat} (h : v < 2 ^ n) : sgn n v = if 2 ^ (n - 1) ≤ v then (v : Int) - 2 ^ n else v := by
  have hmod : (v : Int) % 2 ^ n = v := by exact_mod_cast Nat.mod_eq_of_lt h
  rw [sgn, hmod, Nat.mod_eq_of_lt h]

/-- A field as IBFE extends it. -/
theorem extendField_eq (f : BitVec 4) {len v : Nat} (h : v < 2 ^ len) : (if f = 0 then BitVec.ofNat 32 v else wrap 32 (sgn len v))
    = if f ≠ 0 ∧ 2 ^ (len - 1) ≤ v then BitVec.ofInt 32 ((v : Int) - 2 ^ len) else BitVec.ofNat 32 v := by
  rw [sgn_of_lt h]
  by_cases hf : f = 0
  · simp [hf]
  · by_cases hv : 2 ^ (len - 1) ≤ v
    · rw [if_neg hf, if_pos hv, if_pos ⟨hf, hv⟩]; rfl
    · rw [if_neg hf, if_neg hv, if_neg fun h => hv h.2, wrap, BitVec.ofInt_natCast]
theorem aluBfe_eq (f : BitVec 4) (x y : W32) : aluBfe f x y =
    let len : Nat := min (y.toNat / 2 ^ 8 % 2 ^ 6) 32
    let v : Nat := x.toNat / 2 ^ (y.toNat % 32) % 2 ^ len
    if len = 0 then 0 else if f ≠ 0 ∧ 2 ^ (len - 1) ≤ v then BitVec.ofInt 32 ((v : Int) - 2 ^ len) else BitVec.ofNat 32 v := by
  unfold aluBfe
  rw [fieldPos_eq, fieldLen_eq]
  exact ite_congr rfl (fun _ => rfl) fun _ => extendField_eq f (Nat.mod_lt _ (Nat.two_pow_pos _))
theorem aluBfi_eq (x y z : W32) : aluBfi x y z =
    let pos : Nat := y.toNat % 32
    let len : Nat := min (y.toNat / 2 ^ 8 % 2 ^ 6) 32
    let m : W32 := BitVec.ofNat 32 ((2 ^ len - 1) * 2 ^ pos)
    (x <<< pos &&& m) ||| (z &&& ~~~m) := by
  simp only [aluBfi, fieldPos_eq, fieldLen_eq]
  exact BitVec.or_comm _ _

/-- Settles O34: each word is the shared word of its operands' form, with the lane function that the statement names. -/
theorem laneIntegerLogic : Obligations.LaneIntegerLogic := by
  refine ⟨?_, ?_, ?_, ?_, ?_, ?_, ?_, ?_, ?_, ?_, ?_, ?_, ?_⟩
  · exact fun h d a b f => lane2_of_alu2 (fun _ => rfl) (aluMin_eq f)
  · exact fun h d a b f => lane2_of_alu2 (fun _ => rfl) (aluMax_eq f)
  · exact fun h d a b f => lane2_of_alu2 (fun _ => rfl) fun _ _ => rfl
  · exact fun h d a b f => lane2_of_alu2 (fun _ => rfl) fun _ _ => rfl
  · exact fun h d a b f => lane2_of_alu2 (fun _ => rfl) fun _ _ => rfl
  · exact fun h d a f => lane1_of_alu1 (fun _ => rfl) fun _ => rfl
  · exact fun h d a b f => lane2_of_alu2 (fun _ => rfl) fun _ _ => rfl
  · exact fun h d a b f => lane2_of_alu2 (fun _ => rfl) fun _ _ => rfl
  · exact fun h d a b f => lane2_of_alu2 (fun _ => rfl) fun _ _ => rfl
  · exact fun h d a b f => lane2_of_alu2 (fun _ => rfl) (aluBfe_eq f)
  · exact fun h d a b c f => lane3_of_alu3 (fun _ => rfl) aluBfi_eq
  · exact fun h d a f => lane1_of_alu1 (fun _ => rfl) fun _ => rfl
  · exact fun h d a f => lane1_of_alu1 (fun _ => rfl) fun _ => rfl

end Sys2Proof.Machine
end

section
/-!
PROOFS. Compares, selects and mask words of the lanes (10 R208, R209, R212, R222-R224).
-/
namespace Sys2Proof.Machine
open Sys2Proof.Claims

-- ### Masks lane by lane

/-- The bits that the lanes of a list add to a mask. -/
theorem foldl_mask_getLsbD (f : Nat → Bool) (ls : List Nat) (m₀ : W32) {j : Nat} (hj : j < 32) :
    (ls.foldl (fun m l => if f l then m ||| BitVec.ofNat 32 (2 ^ l) else m) m₀).getLsbD j = (m₀.getLsbD j || ls.any fun l => f l && l == j) := by
  induction ls generalizing m₀ with
  | nil => simp
  | cons l ls ih =>
    have hbit : (BitVec.ofNat 32 (2 ^ l)).getLsbD j = decide (l = j) := by
      rw [BitVec.getLsbD_ofNat, Nat.testBit_two_pow]
      simp [hj]
    rw [List.foldl_cons, ih, List.any_cons]
    cases f l with
    | true => rw [if_pos rfl, BitVec.getLsbD_or, hbit, Bool.or_assoc]; rfl
    | false => rfl
/-- The one lane of a list that a position names. -/
theorem any_range_eq (f : Nat → Bool) {n j : Nat} (hj : j < n) : ((List.range n).any fun l => f l && l == j) = f j := by
  rw [Bool.eq_iff_iff, List.any_eq_true]
  refine ⟨?_, fun h => ⟨j, List.mem_range.mpr hj, by simp [h]⟩⟩
  rintro ⟨l, -, h⟩
  obtain ⟨hf, hl⟩ := Bool.and_eq_true_iff.mp h
  exact beq_iff_eq.mp hl ▸ hf
theorem maskOf_getElem (f : Nat → Bool) (l : Fin 32) : (maskOf f)[l] = f l.val := by
  have h := foldl_mask_getLsbD f (List.range 32) 0 l.isLt
  rw [any_range_eq f l.isLt, BitVec.ofNat_eq_ofNat, BitVec.getLsbD_zero, Bool.false_or] at h
  exact h

section
variable {i : Instr} {h : LaneCtl} {lat : Nat}

theorem laneMask_of_aluMask {k : ImmKind} {m : BitVec 3} {a : VReg} {b : BOpnd} {op val : W32 → W32 → Bool} (hi : ∀ s, exec i s = aluMask s h lat k m a b op)
    (ho : ∀ x y, op x y = val x y) : LaneMask i h lat k m a b val := by
  intro s g ha
  refine ⟨maskOf fun l => op (laneGet (lanesOf g a) l) (laneGet (opnd s g k b) l), fun l => ?_, ?_⟩
  · rw [maskOf_getElem, laneGet_fin, laneGet_fin, ho]
  · rw [hi s]
    refine laneIssue_computes (writes := []) ha ?_
    rw [Group.readReg_idle s.free a ha.plain.flights, Group.readB_idle s k b ha.plain.flights]

/-- A word that writes a mask from the masks and scalars that it reads. -/
theorem issues_of_maskWord {d : BitVec 3} {f : State → Group → W32} (hi : ∀ s, exec i s = maskWord s h lat d (f s)) :
    Issues i h false .inOrder lat [] fun s g on => [.mask d on (f s g)] :=
  issues_of_laneIssue hi rfl fun _ _ _ _ => rfl

/-- A word that writes a scalar register from what it reads (07 R131). -/
theorem issues_of_scalarResult {d : BitVec 8} {regs : List RName} {f val : State → Group → W32 → W64}
    (hi : ∀ s, exec i s = laneIssue s h false .inOrder lat [] regs fun s g on => .done s g [.sreg d (f s g on)] true)
    (hf : ∀ s g on, g.flights = [] → f s g on = val s g on) : Issues i h false .inOrder lat regs fun s g on => [.sreg d (val s g on)] :=
  issues_of_laneIssue hi rfl fun s g on hg => by rw [hf s g on hg]

end

theorem intCond_eq (f : BitVec 4) (x y : W32) : intCond f.toNat x y =
    if f = 0 then x == y else if f = 1 then x != y else if f = 2 then decide (x.toInt < y.toInt) else if f = 3 then decide (y.toInt ≤ x.toInt)
    else if f = 4 then decide (x.toNat < y.toNat) else decide (y.toNat ≤ x.toNat) := by
  have hf : ∀ k : BitVec 4, f = k ↔ f.toNat = k.toNat := fun k => ⟨congrArg _, BitVec.eq_of_toNat_eq⟩
  have hslt : (!x.slt y) = decide (y.toInt ≤ x.toInt) := decide_not.symm.trans (decide_eq_decide.mpr Int.not_lt)
  have hult : (!x.ult y) = decide (y.toNat ≤ x.toNat) := decide_not.symm.trans (decide_eq_decide.mpr Nat.not_lt)
  simp only [hf, intCond, hslt, hult]
  split <;> simp_all [BitVec.slt, BitVec.ult]

-- ### FCMP by the exact values (09 R177)

theorem signed_not (n : Bool) (m : Nat) : signed (!n) m = -signed n m := by cases n <;> simp [signed]
/-- The exact difference of two finite values changes its sign with their order. -/
theorem exactSum_swap (n : Bool) (m : Nat) (e : Int) (n' : Bool) (m' : Nat) (e' : Int) :
    (exactSum n' m' e' (!n) m e).m = -(exactSum n m e (!n') m' e').m := by
  simp only [exactSum, signed_not, Int.min_comm e' e, Int.neg_mul]
  omega
theorem not_below_of_below {a b : FVal} (h : Below a b) : ¬Below b a := by
  cases a <;> cases b <;> simp_all [Below]
  case fin.fin =>
    rw [exactSum_swap]
    omega

theorem FVal.lt_iff_below {a b : FVal} (ha : a.isNan = false) (hb : b.isNan = false) : a.lt false b = true ↔ Below a b := by
  cases a with
  | nan => cases ha
  | inf n => cases b <;> simp_all [FVal.lt, Below, FVal.isNan]
  | fin n m e =>
    cases b with
    | nan => cases hb
    | inf n' => simp [FVal.lt, Below]
    | fin n' m' e' =>
      have hsub : ((FVal.fin n m e).dy.sub (FVal.fin n' m' e').dy).m = (exactSum n m e (!n') m' e').m := by
        rw [exactSum, signed_not]; rfl
      simp only [FVal.lt, Below, Dy.lt, hsub, Bool.false_and]
      split
      case isTrue h =>
        have hz : signed n m = 0 ∧ signed n' m' = 0 := h
        simp [exactSum, signed_not, hz]
      case isFalse => simp

section
variable (F : Fin 8) {x y : Nat}

theorem fCompare_unordered (h : (fp32.read x).isNan = true ∨ (fp32.read y).isNan = true) : fCompare F.val x y = (F.val == 1 || F.val == 6) := by
  have hun : ((fp32.read x).isNan || (fp32.read y).isNan) = true := by simpa using h
  simp only [fCompare, hun, Bool.not_true, Bool.false_and]
  revert F
  decide

/-- FCMP of two values that are no NaN, by their order. -/
theorem fCompare_ordered (hx : (fp32.read x).isNan = false) (hy : (fp32.read y).isNan = false) :
    (Below (fp32.read x) (fp32.read y) → fCompare F.val x y = [1, 2, 3, 7].contains F.val)
    ∧ (Below (fp32.read y) (fp32.read x) → fCompare F.val x y = [1, 4, 5, 7].contains F.val)
    ∧ (¬Below (fp32.read x) (fp32.read y) → ¬Below (fp32.read y) (fp32.read x) → fCompare F.val x y = [0, 3, 5, 7].contains F.val) := by
  have hlt := FVal.lt_iff_below hx hy
  have hgt := FVal.lt_iff_below hy hx
  refine ⟨fun h => ?_, fun h => ?_, fun h h' => ?_⟩
  · simp only [fCompare, hx, hy, Bool.or_false, Bool.not_false, Bool.true_and, hlt.mpr h, Bool.eq_false_iff.mpr (mt hgt.mp (not_below_of_below h))]
    revert F
    decide
  · simp only [fCompare, hx, hy, Bool.or_false, Bool.not_false, Bool.true_and, hgt.mpr h, Bool.eq_false_iff.mpr (mt hlt.mp (not_below_of_below h))]
    revert F
    decide
  · simp only [fCompare, hx, hy, Bool.eq_false_iff.mpr (mt hlt.mp h), Bool.eq_false_iff.mpr (mt hgt.mp h')]
    revert F
    decide

/-- The zeros of both signs are equal. -/
theorem fCompare_zeros : fCompare F.val 0 0x80000000 = [0, 3, 5, 7].contains F.val ∧ fCompare F.val 0x80000000 0 = [0, 3, 5, 7].contains F.val := by
  revert F
  decide

end

theorem isel_issues (h : LaneCtl) (d a : VReg) (b : BOpnd) (m : BitVec 3) (f : BitVec 4) :
    Issues (.isel h d a b m f) h false .inOrder 4 (regName d :: regName a :: opndRegs b) fun s g on =>
      [.reg (g.place (regName d)) on (Vector.ofFn fun l => if (g.mask s.free m)[l] then (lanesOf g a)[l] else (opnd s g .int b)[l])] := by
  refine issues_of_laneAlu (f := fun s g _ => Vector.ofFn fun l =>
    if (g.mask s.free m).getLsbD l.val then (g.readReg s.free (regName a))[l] else (g.readB s.free .int b)[l]) (fun _ => rfl) fun s g _ hg => ?_
  simp only [Group.readReg_idle s.free a hg, Group.readB_idle s .int b hg]
  rfl

/-- Settles O35: the words by the form of their operands, and FCMP by the order of the exact values (`FVal.lt_iff_below`). -/
theorem laneComparesAndMasks : Obligations.LaneComparesAndMasks := by
  refine ⟨?_, ?_, ?_, ?_, ?_, ?_, ?_, ?_, ?_, fun _ _ => rfl⟩
  · exact fun h m a b f => laneMask_of_aluMask (fun _ => rfl) (intCond_eq f)
  · exact fun h m a b f => laneMask_of_aluMask (op := fun x y => fCompare f.toNat x.toNat y.toNat) (fun _ => rfl) fun _ _ => rfl
  · exact fun F x y => ⟨fCompare_unordered F, fCompare_ordered F, fCompare_zeros F⟩
  · exact isel_issues
  · exact fun h d a b => issues_of_maskWord fun _ => rfl
  · exact fun h d a b => issues_of_maskWord fun _ => rfl
  · exact fun h d a => issues_of_maskWord fun _ => rfl
  · exact fun h d a => issues_of_scalarResult (f := fun s g on => (g.mask s.free a &&& on).setWidth 64) (fun _ => rfl) fun _ _ _ _ => (BitVec.ofNat_toNat ..).symm
  · intro h d a
    simp only [BitVec.ofNat_toNat]
    exact issues_of_maskWord fun _ => rfl

end Sys2Proof.Machine
end

section
/-!
PROOFS. FP32 and packed 16-bit arithmetic, special functions, conversions and codebooks of the lanes (10 R210-R221, 11 R241).
-/
namespace Sys2Proof.Machine
open Sys2Proof.Claims

/-- Settles O36: each word is the shared word of its operands' form, with the lane function that the statement names. -/
theorem laneFloatAndSpecialFunctions : Obligations.LaneFloatAndSpecialFunctions := by
  refine ⟨⟨?_, ?_, ?_, ?_, ?_, ?_, ?_, ?_, ?_⟩, ?_, ?_, ?_, ?_, ?_, ?_, ?_, ?_⟩
  · exact fun h d a b f => lane2_of_alu2 (op := aluFadd f) (fun _ => rfl) fun _ _ => rfl
  · exact fun h d a b f => lane2_of_alu2 (op := aluFsub f) (fun _ => rfl) fun _ _ => rfl
  · exact fun h d a b f => lane2_of_alu2 (op := aluFmul f) (fun _ => rfl) fun _ _ => rfl
  · exact fun h d a b c f => lane3_of_alu3 (op := aluFfma f) (fun _ => rfl) fun _ _ _ => rfl
  · exact fun h d a b f => lane2_of_alu2 (op := aluFmin) (fun _ => rfl) fun _ _ => rfl
  · exact fun h d a b f => lane2_of_alu2 (op := aluFmax) (fun _ => rfl) fun _ _ => rfl
  · exact fun h d a f => lane1_of_alu1 (op := aluFclass) (fun _ => rfl) fun _ => rfl
  · exact fun h d a b f => lane2_of_alu2 (op := aluFscale f) (fun _ => rfl) fun _ _ => rfl
  · exact fun h d a f => lane1_of_alu1 (op := aluFrnd f) (fun _ => rfl) fun _ => rfl
  · exact fun h d a => lane1_of_alu1 (op := sfuRcp) (fun _ => rfl) fun _ => rfl
  · exact fun h d a => lane1_of_alu1 (op := sfuRsq) (fun _ => rfl) fun _ => rfl
  · exact fun h d a => lane1_of_alu1 (op := sfuSqrt) (fun _ => rfl) fun _ => rfl
  · exact fun h d a => lane1_of_alu1 (op := sfuExp2) (fun _ => rfl) fun _ => rfl
  · exact fun h d a => lane1_of_alu1 (op := sfuLog2) (fun _ => rfl) fun _ => rfl
  · exact fun h d a => lane1_of_alu1 (op := sfuSin) (fun _ => rfl) fun _ => rfl
  · exact fun h d a => lane1_of_alu1 (op := sfuCos) (fun _ => rfl) fun _ => rfl
  · exact fun h d a => lane1_of_alu1 (op := sfuTanh) (fun _ => rfl) fun _ => rfl

-- ### Halves of a word and codebooks

theorem elem_low_half (x : W32) : elem 16 x 0 = x.toNat % 2 ^ 16 := by
  rw [elem_eq (by decide)]
  simp
theorem elem_high_half (x : W32) : elem 16 x 1 = x.toNat / 2 ^ 16 := by
  have hlt : x.toNat < 2 ^ 32 := x.isLt
  rw [elem_eq (by decide)]
  omega
/-- A packed word computes each half by itself (10 R214). -/
theorem packed2_eq (op : Nat → Nat → Nat → Nat) (x y z : W32) : packed2 op x y z =
    BitVec.ofNat 32 (op (x.toNat % 2 ^ 16) (y.toNat % 2 ^ 16) (z.toNat % 2 ^ 16) % 2 ^ 16
      + 2 ^ 16 * (op (x.toNat / 2 ^ 16) (y.toNat / 2 ^ 16) (z.toNat / 2 ^ 16) % 2 ^ 16)) := by
  simp only [packed2, elem_low_half, elem_high_half]
  rfl

/-- The entries of a codebook by the registers that hold it (10 R219). -/
theorem codebook_bookRegs {s : State} {g : Group} (hg : g.flights = []) (b : VReg) (l : Fin 32) :
    codebook (((bookRegs b).map (g.readReg s.free)).map fun r => r[l]) = bookAt g b l := by
  simp only [codebook, bookRegs, bookAt, List.flatMap_map, List.map_map, elem_low_half, elem_high_half, Function.comp_apply, Group.readReg_stored s.free _ hg]

theorem issues_of_bookWord {i : Instr} {h : LaneCtl} {d a b : VReg} {op : W32 → List Nat → W32} (hi : ∀ s, exec i s = bookWord s h d a b op) :
    Issues i h false .inOrder 4 (regName d :: regName a :: bookRegs b) fun _ g on =>
      [.reg (g.place (regName d)) on (Vector.ofFn fun l => op (lanesOf g a)[l] (bookAt g b l))] :=
  issues_of_laneAlu hi fun s g _ hg => by simp only [Group.readReg_idle s.free a hg, codebook_bookRegs hg]

/-- A word that computes the whole register from the lanes of `a` and the active lanes. -/
theorem issues_of_laneAlu_reads {i : Instr} {h : LaneCtl} {lat : Nat} {d a : VReg} {f : Group → W32 → LaneVec → LaneVec}
    (hi : ∀ s, exec i s = laneAlu s h lat d [regName a] fun g on => f g on (g.readReg s.free (regName a))) :
    Issues i h false .inOrder lat [regName d, regName a] fun _ g on => [.reg (g.place (regName d)) on (f g on (lanesOf g a))] :=
  issues_of_laneAlu hi fun s g _ hg => by rw [Group.readReg_idle s.free a hg]

/-- Settles O37: the packed words half by half (`packed2_eq`), the conversions and codebooks by the form of their operands. -/
theorem lanePackedAndConversions : Obligations.LanePackedAndConversions := by
  refine ⟨⟨?_, ?_, ?_, ?_, ?_, ?_⟩, ?_, ?_, ?_, ?_, ?_, ?_⟩
  · exact fun h d a b f => lane2_of_alu2 (op := aluAdd2 fp16 f) (fun _ => rfl) fun x y => packed2_eq _ x y 0
  · exact fun h d a b f => lane2_of_alu2 (op := aluMul2 fp16 f) (fun _ => rfl) fun x y => packed2_eq _ x y 0
  · exact fun h d a b c f => lane3_of_alu3 (op := aluFma2 fp16 f) (fun _ => rfl) (packed2_eq _)
  · exact fun h d a b f => lane2_of_alu2 (op := aluAdd2 bf16 f) (fun _ => rfl) fun x y => packed2_eq _ x y 0
  · exact fun h d a b f => lane2_of_alu2 (op := aluMul2 bf16 f) (fun _ => rfl) fun x y => packed2_eq _ x y 0
  · exact fun h d a b c f => lane3_of_alu3 (op := aluFma2 bf16 f) (fun _ => rfl) (packed2_eq _)
  · exact fun h d a f => lane1_of_alu1 (op := aluCvt f) (fun _ => rfl) fun _ => rfl
  · exact fun h d a f => issues_of_laneAlu_reads (f := fun g on x => aluCvtef f (tileOf g.tpart) on x) fun _ => rfl
  · exact fun h d a b f => lane2_of_alu2 (op := aluPack f) (fun _ => rfl) fun _ _ => rfl
  · exact fun h d a f => lane1_of_alu1 (op := aluUnpack f) (fun _ => rfl) fun _ => rfl
  · exact fun h d a b f => issues_of_bookWord (op := aluCbdec f) fun _ => rfl
  · exact fun h d a b f => issues_of_bookWord (op := aluCbenc f) fun _ => rfl

end Sys2Proof.Machine
end

section
/-!
PROOFS. Moves, votes, shuffles, transfers and shared registers (10 R222, 11 R230-R239).
-/
namespace Sys2Proof.Machine
open Sys2Proof.Claims

-- ### The lanes that VOTE, SHFL and FIRST name

/-- FIRST is the lowest lane of a set (11 R235). -/
theorem lowestLane_eq_some {on : W32} {l : Fin 32} (hl : on[l] = true) (hbelow : ∀ j : Fin 32, j < l → on[j] = false) : lowestLane on = some l.val := by
  refine List.find?_range_eq_some.mpr ⟨hl, List.mem_range.mpr l.isLt, fun j hj => ?_⟩
  have hoff : on.getLsbD j = false := hbelow ⟨j, Nat.lt_trans hj l.isLt⟩ hj
  rw [hoff]
  rfl
/-- A set that is not empty has a lowest lane. -/
theorem exists_lowestLane {on : W32} (h : on ≠ 0) : ∃ j, lowestLane on = some j := by
  refine Option.ne_none_iff_exists'.mp fun hnone => h (BitVec.eq_of_getLsbD_eq fun l hl => ?_)
  have hoff := List.find?_eq_none.mp hnone l (List.mem_range.mpr hl)
  simpa using hoff

/-- The source lanes of SHFL in a tile (11 R231). -/
theorem shflSource_eq (tile l b : Nat) :
    shflSource 0 tile l b = l / tile * tile + b % tile
    ∧ shflSource 1 tile l b = (if b ≤ l % tile then l - b else l)
    ∧ shflSource 2 tile l b = (if l % tile + b < tile then l + b else l)
    ∧ shflSource 3 tile l b = l / tile * tile + (l % tile ^^^ b % tile) := by
  have hbase : l - l % tile = l / tile * tile := by
    have hdiv := Nat.div_add_mod l tile
    rw [Nat.mul_comm]
    omega
  refine ⟨?_, ?_, ?_, ?_⟩
  · simp [shflSource, hbase]
  · simp only [shflSource, ← Nat.not_le, ite_not]
  · simp only [shflSource, ← Nat.not_le, ite_not]
  · simp [shflSource, hbase]

/-- A number built from the bits below `n`. -/
theorem foldl_bits (p : Nat → Bool) (n : Nat) :
    let m := (List.range n).foldl (fun m l => if p l then m + 2 ^ l else m) 0
    m < 2 ^ n ∧ ∀ j, m.testBit j = (decide (j < n) && p j) := by
  induction n with
  | zero => simp
  | succ n ih =>
    obtain ⟨hlt, hbit⟩ := ih
    simp only [List.range_succ, List.foldl_append, List.foldl_cons, List.foldl_nil]
    generalize (List.range n).foldl (fun m l => if p l then m + 2 ^ l else m) 0 = m at hlt hbit
    have hnext : ∀ j, n ≠ j → decide (j < n + 1) = decide (j < n) := fun j hj => decide_eq_decide.mpr (by omega)
    have hhere : decide (n < n + 1) = true := decide_eq_true n.lt_succ_self
    have hpow : 2 ^ (n + 1) = 2 ^ n + 2 ^ n := by rw [Nat.pow_succ, Nat.mul_two]
    cases hp : p n with
    | false =>
      rw [if_neg Bool.false_ne_true]
      refine ⟨by omega, fun j => ?_⟩
      by_cases hj : n = j
      · rw [hbit, ← hj, hp, Bool.and_false, Bool.and_false]
      · rw [hbit, hnext j hj]
    | true =>
      have hor : m + 2 ^ n = 2 ^ n ||| m := by rw [Nat.add_comm, ← Nat.mul_one (2 ^ n), Nat.two_pow_add_eq_or_of_lt hlt]
      rw [if_pos rfl]
      refine ⟨by omega, fun j => ?_⟩
      rw [hor, Nat.testBit_or, hbit, Nat.testBit_two_pow]
      by_cases hj : n = j
      · rw [← hj, decide_eq_true rfl, hhere, hp]; rfl
      · rw [decide_eq_false hj, Bool.false_or, hnext j hj]

/-- BALLOT has the bit of each active lane that holds a value other than 0 (11 R230). -/
theorem aluVote_ballot (t : Nat) (on : W32) (x : LaneVec) (l : Fin 32) : (aluVote 0 t on x).getLsbD l.val = (on[l] && x[l] != 0) := by
  have hbit := (foldl_bits (fun l => on.getLsbD l && laneGet x l != 0) 32).2 l.val
  have hlt : l.val < 64 := by omega
  rw [aluVote, BitVec.getLsbD_ofNat, decide_eq_true hlt, Bool.true_and]
  refine hbit.trans ?_
  rw [decide_eq_true l.isLt, Bool.true_and, laneGet_fin]
  rfl

-- ### Transfers between lanes and scalars

theorem shfl_issues (h : LaneCtl) (d a : VReg) (b : BOpnd) (f : BitVec 4) : Issues (.shfl h d a b f) h false .inOrder 0 (regName d :: regName a :: opndRegs b) fun s g on =>
    [.reg (g.place (regName d)) on (Vector.ofFn fun l => (lanesOf g a).getD (shflSource f.toNat (2 ^ g.tpart.toNat) l.val ((opnd s g .int b)[l]).toNat) 0)] := by
  refine issues_of_laneAlu (f := fun s g _ => Vector.ofFn fun l =>
    laneGet (g.readReg s.free (regName a)) (shflSource f.toNat (tileOf g.tpart) l.val (g.readB s.free .int b)[l].toNat)) (fun _ => rfl) fun s g _ hg => ?_
  simp only [Group.readReg_idle s.free a hg, Group.readB_idle s .int b hg]
  rfl

/-- The halves of a scalar that STOV spreads (11 R236). -/
theorem stovHalf_eq (hi : Bool) (x : W64) : (if hi then hi32 x else lo32 x) = BitVec.ofNat 32 (x.toNat / (if hi then 2 ^ 32 else 1)) := by
  refine BitVec.eq_of_toNat_eq ?_
  cases hi <;> simp [hi32, lo32, Nat.shiftRight_eq_div_pow]

-- ### Shared registers of a workgroup (11 R237-R239)

theorem wsr_issues (h : LaneCtl) (d : VReg) (k : BitVec 4) : Issues (.wsr h d k) h false .inOrder 0 [regName d] fun s g on =>
    [.reg (g.place (regName d)) on (Vector.replicate 32 (((s.wg? g.gid g.lw).map fun w => w.wsAt s.fclk k).getD 0))] := by
  refine issues_of_laneAlu (f := fun s g _ => Vector.replicate 32 (((s.wg? g.gid g.lw).map fun w => w.wsAt s.fclk k).getD 0)) ?_ fun _ _ _ _ => rfl
  exact fun _ => rfl

theorem mem_wsInsert (x : Nat × Nat × Nat × W32) (ys : List (Nat × Nat × Nat × W32)) : x ∈ wsInsert x ys := by
  induction ys with
  | nil => exact List.mem_singleton_self x
  | cons y ys ih =>
    unfold wsInsert
    split
    · exact List.mem_cons_self
    · exact List.mem_cons_of_mem y ih

/-- A workgroup that is changed keeps its place. -/
theorem State.wg?_modWg {s : State} {gid lw : Nat} {w : Wg} {f : Wg → Wg} (hw : s.wg? gid lw = some w) (hf : ∀ x, (f x).is gid lw = x.is gid lw) :
    (s.modWg gid lw f).wg? gid lw = some (f w) := by
  have hkeep : Wg.is gid lw ∘ (fun x => if x.is gid lw then f x else x) = Wg.is gid lw := by
    funext x
    show Wg.is gid lw (if x.is gid lw then f x else x) = _
    split
    · exact hf x
    · rfl
  have hwis : w.is gid lw = true := List.find?_some hw
  unfold State.wg? at hw ⊢
  rw [State.modWg, List.find?_map, hkeep, hw, Option.map_some, if_pos hwis]

theorem Group.issued_slot (g : Group) (now : Nat) (h : LaneCtl) (cls : WordClass) (lat : Nat) (ready : Bool) (effs : List Eff) :
    (g.issued now h cls lat ready effs).slot = g.slot := by
  obtain ⟨_, _, _, _, he⟩ := g.issued_eq now h cls lat ready effs
  rw [he]

/-- A workgroup with a write of a shared register on its way. -/
def Wg.sharing (w : Wg) (fclk : Nat) (x : Nat × Nat × Nat × W32) : Wg := { w.settleWs fclk with wsPend := wsInsert x (w.settleWs fclk).wsPend }
theorem Wg.sharing_is (w : Wg) (fclk : Nat) (x : Nat × Nat × Nat × W32) (gid lw : Nat) : (w.sharing fclk x).is gid lw = w.is gid lw := rfl

theorem execWsw_issues {s : State} {g : Group} {h : LaneCtl} {k : BitVec 4} {a : VReg} {j : Nat} (ha : AtLane s g h true [regName a]) (hj : lowestLane g.exm = some j) :
    execWsw h k a s = .next (((s.modWg g.gid g.lw fun w => w.sharing s.fclk (s.fclk, s.lg g, k.toNat, (lanesOf g a).getD j 0)).draw).setGroup
      (g.issued s.fclk h .inOrder 0 true [.ws s.fclk])) := by
  refine laneIssue_quiet (writes := []) (on := g.exm) ha.here (State.laneReady_of_eligible ha.eligible) ha.plain rfl ha.acts ha.inside ?_ rfl
  simp only [hj, Group.readReg_idle s.free a ha.plain.flights]
  rfl

theorem wsw_shares {s : State} {g : Group} {h : LaneCtl} {k : BitVec 4} {a : VReg} {w : Wg} (ha : AtLane s g h true [regName a]) (he : g.exm ≠ 0)
    (hw : s.wg? g.gid g.lw = some w) : ∃ u w', exec (.wsw h k a) s = .next u ∧ u.mem = s.mem ∧ u.group? g.slot = some (g.issued s.fclk h .inOrder 0 true [.ws s.fclk])
      ∧ u.wg? g.gid g.lw = some w' ∧ (s.fclk, s.lg g, k.toNat, (lanesOf g a).getD ((lowestLane g.exm).getD 0) 0) ∈ w'.wsPend := by
  obtain ⟨j, hj⟩ := exists_lowestLane he
  have hslot : s.group? g.slot = some g := State.group?_slot ha.here ▸ ha.here
  rw [hj, Option.getD_some]
  exact ⟨_, w.sharing s.fclk _, execWsw_issues ha hj, rfl, group?_set hslot (g.issued_slot ..),
    State.wg?_modWg hw fun x => x.sharing_is ..,
    mem_wsInsert _ _⟩

/-- Settles O41: the words by the form of their operands, WSW by `wsw_shares`, and the lanes that the cross-lane words name. -/
theorem crossLaneWords : Obligations.CrossLaneWords := by
  refine ⟨⟨?_, ?_, ?_, ?_, ?_, ?_, ?_, ?_, ?_, ?_, ?_, ?_⟩, ?_, ?_, ?_⟩
  · exact fun h d a f => lane1_of_alu1 (op := id) (fun _ => rfl) fun _ => rfl
  · exact fun h d i => issues_of_laneAlu (d := { acc := false, k := d }) (f := fun _ _ _ => Vector.replicate 32 i) (fun _ => rfl) fun _ _ _ _ => rfl
  · exact fun h d f => issues_of_laneAlu (f := fun _ g _ => Vector.ofFn fun l => laneidOp f g.tpart l.val) (fun _ => rfl) fun _ _ _ _ => rfl
  · exact fun h d a f => issues_of_scalarResult (f := fun s g on => aluVote f.toNat (tileOf g.tpart) on (g.readReg s.free (regName a))) (fun _ => rfl)
      fun s g _ hg => by rw [Group.readReg_idle s.free a hg]; rfl
  · exact shfl_issues
  · exact fun h d a f ty ex => issues_of_laneAlu_reads (f := fun g on x => aluScan f.toNat ty.toNat ex (tileOf g.tpart) on x) fun _ => rfl
  · exact fun h d a f ty => issues_of_laneAlu_reads (f := fun g on x => aluRed f.toNat ty.toNat g.tpart.toNat on x) fun _ => rfl
  · exact fun h d a b sx => issues_of_scalarResult (f := fun s g on =>
      let x := laneGet (g.readReg s.free (regName a)) ((lowestLane on).getD 0)
      if sx then x.signExtend 64 else x.setWidth 64) (fun _ => rfl) fun s g _ hg => by rw [Group.readReg_idle s.free a hg]; rfl
  · exact fun h d a b sx => issues_of_scalarResult (f := fun s g _ =>
      let x := laneGet (g.readReg s.free (regName a)) ((laneGet (g.readB s.free .int b) 0).toNat % 32)
      if sx then x.signExtend 64 else x.setWidth 64) (fun _ => rfl) fun s g _ hg => by rw [Group.readReg_idle s.free a hg, Group.readB_idle s .int b hg]; rfl
  · exact fun h d a hi => issues_of_laneAlu (f := fun s g _ => Vector.replicate 32 (if hi then hi32 (g.sreg s.free a) else lo32 (g.sreg s.free a))) (fun _ => rfl)
      fun s g _ _ => congrArg (Vector.replicate 32) (stovHalf_eq hi _)
  · exact wsr_issues
  · exact fun h k a s g w => wsw_shares
  · exact fun on l => lowestLane_eq_some
  · exact fun t l b _ _ => shflSource_eq (2 ^ t) l b
  · exact aluVote_ballot

end Sys2Proof.Machine
end
